-- ==== Sys2Proof/Word.lean ====
section
/-! DEFINITION. Words, bytes and the plainest arithmetic on them (R6, R55): what every file of the model builds on. -/

namespace Sys2Proof

/-- A scalar register's value: 64 bits (R10). -/
abbrev Word := BitVec 64

/-- A byte of memory, of a pool or of a payload. -/
abbrev Byte := BitVec 8

/-- A handle image (R18, R233). -/
abbrev HandleImage := BitVec 256

/-- Number of a scalar register, 0-31 (R10). -/
abbrev Reg := BitVec 5

/-- Number of a handle register, 0-15 (R18). -/
abbrev HReg := BitVec 4

/-- Number of a predicate, 0-7 (R19). -/
abbrev PReg := BitVec 3

end Sys2Proof
end

