-- ==== Sys2Proof/Config.lean ====
section
/-! DEFINITION. What one implementation fixes, and the free values: constants without a body, of which nothing can be
evaluated or proved. Each is applied to the state's counter `tick`, or to the operands it depends on. -/

namespace Sys2Proof.Config

/-- A free natural number: an open choice, or a latency below the bound that the spec states (log 10). -/
opaque freeNat : Nat → Nat

/-- A free 64-bit value (log 8, log 11). -/
opaque freeWord : Nat → BitVec 64

/-- Which of the two bracketing values VEXP2 and VLOG2 return for an operand (R264, log 12). -/
opaque freeUpper : Nat → Bool

/-- CORE and KIDX of the FP32 NaN that an FP8 NaN is read as, by its code (R256, log 21). -/
opaque fp8Payload : Nat → Nat

/-- The bytes of a SHAKE256 measurement of what is measured, written as numbers in an order that the spec does not give (R429, log 13). -/
opaque digest : List Nat → Nat → BitVec 8

/-- The attestation key derived from the identity key seed and the measurement of the running firmware (R428, log 13). -/
opaque attestKey : Nat → List (BitVec 8) → Nat

/-- The bytes of an ML-DSA-65 signature under a key over a message, by draw (R429, log 13). -/
opaque signature : Nat → List (BitVec 8) → Nat → Nat → BitVec 8

/-- The certificate chain that the device manager publishes for a key, signed under the identity key (R428, log 13). -/
opaque certificate : Nat → Nat → List (BitVec 8)

/-- Bytes 14-15 of a control flit, which hold the size, the operation and the scope of a request in a layout that the spec does not give, by
those three (R379, log 140). -/
opaque flitOp : Nat → Nat → Nat → BitVec 16

/-- Packets that a stop holds for one ring direction, beyond the bubble (R163, log 17). -/
opaque ringSlots : Nat

/-- The send window of a drift queue, in packets (R393, log 24). -/
opaque driftWindow : Nat

end Sys2Proof.Config
end

