-- ==== Sys2Proof/Syntax.lean ====
section
/-! DEFINITION. The syntax of the machine: every row of spec/opcode_table.json is a constructor of `Instr`.
The first part is the instructions of the two opcode maps (R46, R48); the second part is the steps of the device that
are no instruction (the rows of the table without an encoding), each with the data that says which agent moves and what
reaches it from outside. -/

namespace Sys2Proof

/-- Sizes of LD, ST, LDL and STL: M[1:0] (R47). -/
inductive Size | b | h | w | d
deriving DecidableEq, Repr

/-- Sizes of the strong and atomic accesses: M[3] (R47). -/
inductive WSize | w | d
deriving DecidableEq, Repr

/-- Scopes: M[2:0] (R47, R120). -/
inductive Scope | core | quad | cluster | die | device | group | domain | system
deriving DecidableEq, Repr

/-- Tuple modes: M[1:0] (R47, R178). -/
inductive TMode | p | w | c
deriving DecidableEq, Repr

/-- RED operations: the D field (R47). -/
inductive RedOp | add | fadd | min | max | and | or | xor
deriving DecidableEq, Repr

/-- AMO operations: the COP (R47). -/
inductive AmoOp | add | swap | and | or | xor | min | max
deriving DecidableEq, Repr

/-- Conditions of CMP.cc (R76). -/
inductive Cond | eq | ne | lt | le | gt | ge | ltu | leu | gtu | geu
deriving DecidableEq, Repr

/-- Conditions of FCMP.cc and VCMP.cc (R82, R274). -/
inductive FCond | eq | ne | lt | le | gt | ge | un | ord
deriving DecidableEq, Repr

/-- Kinds of FCVT (R49). -/
inductive FcvtKind | i32 | u32 | i64 | u64 | bf16 | fp16 | fromBf16 | fromFp16
deriving DecidableEq, Repr

/-- Kinds of ICVT (R49). -/
inductive IcvtKind | i32 | u32 | i64 | u64
deriving DecidableEq, Repr

/-- Operations of VRED.op (R280). -/
inductive RedKind | sum | max | min
deriving DecidableEq, Repr

/-- Directions of VSHIFT (R276). -/
inductive ShiftKind | l | r | a
deriving DecidableEq, Repr

/-- Kinds of TLBINV (R47, R347). -/
inductive TlbKind | page | asid | all
deriving DecidableEq, Repr

/-- Kinds of an access for the cause codes of classes 3 and 4 (R315). -/
inductive AccKind | load | store | fetch | rmw
deriving DecidableEq, Repr

/-- Privileges (R27, R32). -/
inductive Priv | u | s | m
deriving DecidableEq, Repr

/-- A tuple request's operation (R229, R231). -/
inductive TupOp | dep | rd | take | cancel
deriving DecidableEq, Repr

/-- A release whose performance waits for the strand's earlier accesses (R434): the strand, its core, the number of
its accesses issued before, and the scope. -/
structure Rel where
  uid   : Nat
  core  : Nat
  seq   : Nat
  scope : Scope
deriving DecidableEq, Repr

/-- What an event delivers into a register (R22). -/
inductive DelVal
  /-- a value -/
  | val (v : Word)
  /-- a value, and an acquire at the scope (R201) -/
  | acq (v : Word) (sc : Scope)
  /-- a weak load: its memory key, size and sign extension, with the value read at issue -/
  | load (key size : Nat) (sext : Bool) (v : Word)
  /-- a strong load at a scope below DEVICE: the same, with its scope and the cycle of its issue -/
  | narrow (key size : Nat) (v : Word) (sc : Scope) (at_ : Nat)
  /-- the head arrival of the core's receive queue, with its MSGSRC (R123, R125) -/
  | msg
  /-- uncorrectable data: the destination carries a poison mark (R318) -/
  | poison (v : Word)
  /-- a failed access: the destination becomes IDLE (R389) -/
  | idle
deriving DecidableEq, Repr

/-- Who sent a landing, and so who receives its status: a strand's LAND (R191), an engine's completion log (R246), or nobody
(`ccb`: the CCB's completion words and the answers to .C requests, R178, R312). -/
inductive LandFrom
  | strand (uid tag : Nat)
  | engine (core cmd : Nat)
  | ccb
deriving DecidableEq, Repr

/-- A value on its way to a landing name (R191). -/
structure Landing where
  name  : Word
  value : Word
  scope : Scope
  part  : Nat
  src   : LandFrom
  rel   : Option Rel
deriving DecidableEq, Repr

/-- A tuple request on its way to, or at, a home (R229, R231), with the slot of its strand (R174); `tries` counts the HOMEMOVED answers in a
row (R172), and `gen` is the generation of the tables by which its home was chosen (R171). -/
structure TupReq where
  op      : TupOp
  mode    : TMode
  part    : Nat
  ctx     : Nat
  uid     : Nat
  core    : Nat
  slot    : Nat
  tag     : Nat
  name    : Word
  f0      : BitVec 32
  f1      : BitVec 32
  f2      : BitVec 32
  f3      : BitVec 32
  w2      : Bool
  w3      : Bool
  len64   : Nat
  area    : BitVec 32
  payload : List Byte
  sid     : Word
  cid     : Word
  host    : Option Nat
  remote  : Option (Nat × Nat × Nat)
  home    : Nat
  gen     : BitVec 32
  tries   : Nat
  rel     : Option Rel
deriving DecidableEq, Repr

/-- A continuation record (R102). -/
structure Record where
  pc  : Word
  ctl : Word
  s   : List Word
deriving DecidableEq, Repr

/-- A record in a run queue with its strand number, its enqueue cycle, its address in memory when it came from there,
and the scope at which its first bundle is an acquire (R107, R132). -/
structure QEntry where
  record : Record
  strand : BitVec 32
  enq    : Nat
  addr   : Word
  acq    : Option Scope
deriving DecidableEq, Repr

/-- A message flit between cores (R124); `num` numbers the sends, so that an answer finds its own. -/
structure MsgFlit where
  dst   : Nat
  value : Word
  ctx   : Nat
  core  : Nat
  slot  : Nat
  uid   : Nat
  xa    : Bool
  num   : Nat
deriving DecidableEq, Repr

/-- Kinds of fabric control flits (R379). -/
inductive FlitKind
  | load | store | atomic | red | tuple | landing | ffence | fetch | response | acknowledge | refusal
  | collective | credit | linkState | other (n : BitVec 8)
deriving DecidableEq, Repr

/-- A read-modify-write carried by an atomic (R225-R227). -/
inductive Rmw
  | amo (op : AmoOp)
  | cas (expected : Word)
  | red (op : RedOp)
deriving DecidableEq, Repr

/-- A peal flit (R405): its elements are pairs (s, e) in one word, or plain ones; `notice` is 1 for a mismatch notice, 2 for a LOST one, and 0 for data. -/
structure PealFlit where
  group : Nat
  seq   : Nat
  tag   : Nat
  sig   : Word
  nrank : Nat
  rop   : Nat
  rfmt  : Nat
  src   : Nat
  data  : List Word
  notice : Nat
deriving DecidableEq, Repr

/-- A fabric control flit with its data (R379). OP is carried as the access's size, operation and scope. -/
structure Flit where
  kind  : FlitKind
  vc    : BitVec 2
  hop   : BitVec 3
  src   : Nat
  dst   : Nat
  part  : Nat
  core  : Nat
  epoch : BitVec 8
  seq   : BitVec 16
  size  : Nat
  scope : Scope
  rmw   : Option Rmw
  addr  : Word
  value : Word
  data  : List Byte
  tup   : Option TupReq
  peal  : Option PealFlit
deriving DecidableEq, Repr

/-- An atomic on its way to the place its scope names (R212); `old` is what it has read when its load and its store are
two accesses; `melt` says that its page has the melt attribute (R196), and `limit` is the cycle by which it delivers where nothing contends (R228). -/
structure AtomicReq where
  uid   : Nat
  tag   : Nat
  core  : Nat
  part  : Nat
  key   : Nat
  size  : Nat
  rmw   : Rmw
  value : Word
  scope : Scope
  seq   : Nat
  old   : Option Word
  done  : Bool
  melt  : Bool
  limit : Nat
deriving DecidableEq, Repr

/-- A drift packet (R393). -/
structure DriftPacket where
  kind  : Nat
  last  : Bool
  dq    : Nat
  psn   : BitVec 32
  sq    : Nat
  roff  : Word
  imm   : Word
  data  : List Byte
  op    : Nat
deriving DecidableEq, Repr

/-- The instructions and steps of the MX7: one constructor per row of spec/opcode_table.json. -/
inductive Instr
  -- ==== C-words (R46) ====
  | cnop
  | br (p : PReg) (n : Bool) (off : BitVec 20)
  | jmp (p : PReg) (n : Bool) (off : BitVec 20)
  | call (p : PReg) (n : Bool) (off : BitVec 20)
  | jmpr (a : Reg) (xa : Bool) (g : PReg)
  | callr (a : Reg) (xa : Bool) (g : PReg)
  | ret (g : PReg)
  | lit (d : Reg) (g : PReg) (v : BitVec 32)
  | lith (d : Reg) (g : PReg) (v : BitVec 32)
  | mfs (d : Reg) (ix : BitVec 5) (g : PReg)
  | mts (ix : BitVec 5) (a : Reg) (xa : Bool) (g : PReg)
  | ld (d a : Reg) (off : BitVec 8) (xa : Bool) (se : Bool) (sz : Size)
  | st (d a : Reg) (xd : Bool) (off : BitVec 8) (xa : Bool) (sz : Size)
  | ldl (d a : Reg) (off : BitVec 8) (xa : Bool) (se : Bool) (sz : Size)
  | stl (d a : Reg) (xd : Bool) (off : BitVec 8) (xa : Bool) (sz : Size)
  | ldS (d a : Reg) (off : BitVec 8) (xa : Bool) (sz : WSize) (sc : Scope)
  | stS (d a : Reg) (xd : Bool) (off : BitVec 8) (xa : Bool) (sz : WSize) (sc : Scope)
  | ldAcq (d a : Reg) (off : BitVec 8) (xa : Bool) (sz : WSize) (sc : Scope)
  | stRel (d a : Reg) (xd : Bool) (off : BitVec 8) (xa : Bool) (sz : WSize) (sc : Scope)
  | fence (g : PReg) (sc : Scope)
  | ifence (g : PReg)
  | cflush (a : Reg) (xa : Bool) (g : PReg) (sc : Scope)
  | cinv (a : Reg) (xa : Bool) (g : PReg) (sc : Scope)
  | red (op : RedOp) (a b : Reg) (xa xb : Bool) (g : PReg) (sz : WSize) (sc : Scope)
  | cas (d a b : Reg) (xa xb : Bool) (g : PReg) (sz : WSize) (sc : Scope)
  | amoAdd (d a b : Reg) (xa xb : Bool) (g : PReg) (sz : WSize) (sc : Scope)
  | amoSwap (d a b : Reg) (xa xb : Bool) (g : PReg) (sz : WSize) (sc : Scope)
  | amoAnd (d a b : Reg) (xa xb : Bool) (g : PReg) (sz : WSize) (sc : Scope)
  | amoOr (d a b : Reg) (xa xb : Bool) (g : PReg) (sz : WSize) (sc : Scope)
  | amoXor (d a b : Reg) (xa xb : Bool) (g : PReg) (sz : WSize) (sc : Scope)
  | amoMin (d a b : Reg) (xa xb : Bool) (g : PReg) (sz : WSize) (sc : Scope)
  | amoMax (d a b : Reg) (xa xb : Bool) (g : PReg) (sz : WSize) (sc : Scope)
  | tdep (d : Reg) (h : HReg) (b : Reg) (xa xb : Bool) (g : PReg) (m : TMode)
  | trd (d : Reg) (h : HReg) (b : Reg) (xa xb : Bool) (g : PReg) (m : TMode)
  | ttake (d : Reg) (h : HReg) (b : Reg) (xa xb : Bool) (g : PReg) (m : TMode)
  | tcancel (d : Reg) (h : HReg) (xa : Bool) (g : PReg)
  | mint (d b : Reg) (g : PReg)
  | mintC (d a : Reg) (xa : Bool) (g : PReg)
  | land (d a b : Reg) (xa xb : Bool) (g : PReg) (sc : Scope)
  | unmint (d a : Reg) (xa : Bool) (g : PReg)
  | fillm (a b : Reg) (xa xb : Bool) (g : PReg) (v : BitVec 32)
  | ldM (d a b : Reg) (xa xb : Bool) (g : PReg)
  | meltq (d a : Reg) (xa : Bool) (g : PReg)
  | spawn (d a b : Reg) (xa xb : Bool) (g : PReg) (nreg : BitVec 4)
  | exit (g : PReg)
  | yield (g : PReg)
  | suspend (a : Reg) (xa : Bool) (g : PReg)
  | barset (a b : Reg) (xa xb : Bool) (g : PReg) (sc : Scope)
  | bar (a : Reg) (xa : Bool) (g : PReg) (sc : Scope)
  | barq (d a : Reg) (xa : Bool) (g : PReg) (sc : Scope)
  | setpri (a : Reg) (xa : Bool) (g : PReg)
  | ffence (d a b : Reg) (xa xb : Bool) (g : PReg) (sc : Scope)
  | xpost (d a b : Reg) (xa xb : Bool) (g : PReg)
  | xflush (d a : Reg) (xa : Bool) (g : PReg)
  | xwait (d a b : Reg) (xa xb : Bool) (g : PReg)
  | pealLoad (d a : Reg) (xa : Bool) (g : PReg)
  | pealRun (d a b : Reg) (xa xb : Bool) (g : PReg)
  | pealWait (d a : Reg) (xa : Bool) (g : PReg)
  | calve (d a : Reg) (xa : Bool) (g : PReg)
  | trap (n : BitVec 5) (g : PReg)
  | rett (g : PReg)
  | uiret (g : PReg)
  | tlbinv (a b : Reg) (xa xb : Bool) (g : PReg) (k : TlbKind)
  | tlbprobe (d a : Reg) (xa : Bool) (g : PReg)
  | ctxsave (d a : Reg) (xa : Bool) (g : PReg)
  | ctxload (d a : Reg) (xa : Bool) (g : PReg)
  | foldset (a : Reg) (xa : Bool) (g : PReg)
  | halt (g : PReg)
  -- ==== A-words (R48) ====
  | add (d a b : Reg) (xa xb : Bool) (g : PReg)
  | sub (d a b : Reg) (xa xb : Bool) (g : PReg)
  | mul (d a b : Reg) (xa xb : Bool) (g : PReg)
  | mulh (d a b : Reg) (xa xb : Bool) (g : PReg)
  | div (d a b : Reg) (xa xb : Bool) (g : PReg)
  | divu (d a b : Reg) (xa xb : Bool) (g : PReg)
  | rem (d a b : Reg) (xa xb : Bool) (g : PReg)
  | remu (d a b : Reg) (xa xb : Bool) (g : PReg)
  | and (d a b : Reg) (xa xb : Bool) (g : PReg)
  | or (d a b : Reg) (xa xb : Bool) (g : PReg)
  | xor (d a b : Reg) (xa xb : Bool) (g : PReg)
  | andn (d a b : Reg) (xa xb : Bool) (g : PReg)
  | shl (d a b : Reg) (xa xb : Bool) (g : PReg)
  | shr (d a b : Reg) (xa xb : Bool) (g : PReg)
  | sar (d a b : Reg) (xa xb : Bool) (g : PReg)
  | rot (d a b : Reg) (xa xb : Bool) (g : PReg)
  | clz (d a : Reg) (xa : Bool) (g : PReg)
  | popc (d a : Reg) (xa : Bool) (g : PReg)
  | min (d a b : Reg) (xa xb : Bool) (g : PReg)
  | max (d a b : Reg) (xa xb : Bool) (g : PReg)
  | minu (d a b : Reg) (xa xb : Bool) (g : PReg)
  | maxu (d a b : Reg) (xa xb : Bool) (g : PReg)
  | mov (d a : Reg) (xa : Bool) (g : PReg)
  | sel (d a b : Reg) (xa xb : Bool) (p : PReg)
  | addi (d a : Reg) (xa : Bool) (imm : BitVec 15)
  | andi (d a : Reg) (xa : Bool) (imm : BitVec 15)
  | ori (d a : Reg) (xa : Bool) (imm : BitVec 15)
  | shli (d a : Reg) (xa : Bool) (n : BitVec 6)
  | cmp (d : PReg) (a b : Reg) (xa xb : Bool) (g : PReg) (cc : Cond)
  | pand (d a b : PReg) (g : PReg)
  | por (d a b : PReg) (g : PReg)
  | pnot (d a : PReg) (g : PReg)
  | fadd (d a b : Reg) (xa xb : Bool) (g : PReg)
  | fsub (d a b : Reg) (xa xb : Bool) (g : PReg)
  | fmul (d a b : Reg) (xa xb : Bool) (g : PReg)
  | fdiv (d a b : Reg) (xa xb : Bool) (g : PReg)
  | fsqrt (d a : Reg) (xa : Bool) (g : PReg)
  | fmin (d a b : Reg) (xa xb : Bool) (g : PReg)
  | fmax (d a b : Reg) (xa xb : Bool) (g : PReg)
  | fsgn (d a b : Reg) (xa xb : Bool) (g : PReg)
  | fclass (d a : Reg) (xa : Bool) (g : PReg)
  | fcvt (d a : Reg) (k : FcvtKind) (xa : Bool) (g : PReg)
  | icvt (d a : Reg) (k : IcvtKind) (xa : Bool) (g : PReg)
  | ffma (d a b : Reg) (xa xb : Bool) (g : PReg)
  | fcmp (d : PReg) (a b : Reg) (xa xb : Bool) (g : PReg) (cc : FCond)
  | vadd (hd ha hb hl : HReg) (sc : Reg) (xs : Bool)
  | vsub (hd ha hb hl : HReg) (sc : Reg) (xs : Bool)
  | vmul (hd ha hb hl : HReg) (sc : Reg) (xs : Bool)
  | vfma (hd ha hb hl : HReg) (sc : Reg) (xs : Bool)
  | vmax (hd ha hb hl : HReg) (sc : Reg) (xs : Bool)
  | vmin (hd ha hb hl : HReg) (sc : Reg) (xs : Bool)
  | vabs (hd ha hl : HReg) (sc : Reg) (xs : Bool)
  | vneg (hd ha hl : HReg) (sc : Reg) (xs : Bool)
  | vexp2 (hd ha hl : HReg) (sc : Reg) (xs : Bool)
  | vlog2 (hd ha hl : HReg) (sc : Reg) (xs : Bool)
  | vrcp (hd ha hl : HReg) (sc : Reg) (xs : Bool)
  | vrsq (hd ha hl : HReg) (sc : Reg) (xs : Bool)
  | vcvt (hd ha hl : HReg) (sc : Reg) (xs : Bool)
  | vscale (hd ha hb hl : HReg) (sc : Reg) (xs : Bool)
  | vsel (hd ha hb hl : HReg) (sc : Reg) (xs : Bool)
  | vand (hd ha hb hl : HReg) (sc : Reg) (xs : Bool)
  | vor (hd ha hb hl : HReg) (sc : Reg) (xs : Bool)
  | vxor (hd ha hb hl : HReg) (sc : Reg) (xs : Bool)
  | vfill (hd ha hl : HReg) (sc : Reg) (xs : Bool)
  | vcopy (hd ha hl : HReg) (sc : Reg) (xs : Bool)
  | vtrans (hd ha hl : HReg) (sc : Reg) (xs : Bool)
  | vgather (hd ha hb hl : HReg) (sc : Reg) (xs : Bool)
  | vscatter (hd ha hb hl : HReg) (sc : Reg) (xs : Bool)
  | vcmp (hd ha hb hl : HReg) (sc : Reg) (xs : Bool) (cc : FCond)
  | vred (hd ha hl : HReg) (sc : Reg) (xs : Bool) (op : RedKind)
  | vshift (hd ha hb hl : HReg) (sc : Reg) (xs : Bool) (k : ShiftKind)
  | mma (hd ha hb hl : HReg) (sc : Reg) (xs : Bool)
  | mmas (hd ha hb hl : HReg) (sc : Reg) (xs : Bool)
  | mzero (hd hl : HReg) (sc : Reg) (xs : Bool)
  | mdrain (hd ha hl : HReg) (sc : Reg) (xs : Bool)
  | maccld (hd ha hl : HReg) (sc : Reg) (xs : Bool)
  | cpy (hd ha hl : HReg) (sc : Reg) (xs : Bool)
  | cpyg (hd ha hb hl : HReg) (sc : Reg) (xs : Bool)
  | cpys (hd ha hb hl : HReg) (sc : Reg) (xs : Bool)
  | cpyr (hd ha hl : HReg) (sc : Reg) (xs : Bool)
  | hset (d : HReg) (a : Reg) (q : BitVec 2) (xa : Bool) (g : PReg)
  | hget (d : Reg) (a : HReg) (q : BitVec 2) (xa : Bool) (g : PReg)
  | rset (r : BitVec 3) (a : Reg) (xa : Bool) (g : PReg)
  | rpush (r : BitVec 3) (g : PReg)
  | lease (n : BitVec 5) (g : PReg)
  | unlease (g : PReg)
  | engstat (d a b : Reg) (xa xb : Bool) (g : PReg)
  | resume (a b : Reg) (xa xb : Bool) (g : PReg)
  -- ==== steps of one strand and its slot ====
  /-- `detail` is W x 16 + reason and `word` the offending word (R45); it acts on the slot whose bundle is malformed -/
  | illegalInstruction (detail : BitVec 5) (word : BitVec 32)
  | bundleFetch (slot : Nat)
  | deliver (uid tag : Nat) (v : DelVal)
  | windowSpill (slot : Nat)
  | windowFill (slot : Nat)
  | registerClear (slot : Nat)
  -- ==== scheduler (R107-R119) ====
  | dispatchRecord (cluster : Nat)
  | poolClear (core : Nat)
  | slotLoad (slot : Nat)
  | steal (cluster : Nat)
  | sliceExpiry (cluster : Nat)
  | sliceEarlyEnd (cluster : Nat)
  | barrierRelease (bar : Nat) (others : Nat)
  | messageFlit (f : MsgFlit)
  | messageAnswer (uid : Nat) (accepted : Bool)
  | messageResend (uid : Nat)
  -- ==== memory ====
  | storePerform (core seq : Nat)
  | torusPacket (die : Nat) (packet : Nat)
  | tlbWalk (core asid : Nat) (va : Word) (kind : AccKind)
  -- ==== the Firn ====
  | depositAtHome (r : TupReq)
  | depositResend (r : TupReq)
  | matchAtHome (r : TupReq)
  | cancelAtHome (r : TupReq)
  | tupleDeliveryDone (copy : Nat)
  | homemoved (r : TupReq)
  -- ==== landing and melt ====
  | landingArrival (l : Landing)
  | fillmAtHome (key : Nat) (count : BitVec 8) (data : List Byte) (part ctx : Nat)
  | meltFillDone (key : Nat)
  | ldmAtHome (uid tag : Nat) (key : Nat) (area : BitVec 32)
  | meltEviction (key : Nat)
  -- ==== engines ====
  | vectorGrant (quad : Nat)
  | vectorSliceExpiry (quad : Nat)
  | leaseGrant (quad : Nat)
  | leaseIdleEnd (quad : Nat)
  | leaseExpiry (quad : Nat)
  | iterationCommit (cmd : Nat)
  | engineCompletion (cmd : Nat)
  | engineFault (cmd : Nat) (detail : BitVec 5) (tval : Word)
  | userInterruptEntry (slot : Nat)
  | ringLoad (core ring : Nat)
  | copyEngineStart (engine : Nat)
  | combineWindowClose (cluster window : Nat)
  -- ==== pre-emption, contexts ====
  | contextSave (cluster entry : Nat)
  | contextRestore (cluster entry : Nat)
  | pfaultClear (cluster entry : Nat)
  | contextTableWrite (cluster entry : Nat) (v : BitVec 256)
  | ctxkill (part ctx : Nat)
  | killComplete (part ctx : Nat)
  | uncorrectableError (place : BitVec 2) (reason : BitVec 3) (uid : Nat) (reg : Nat) (pa : Word)
  -- ==== partitions and the host ====
  | create (part : Nat)
  | start (part : Nat)
  | stop (part : Nat)
  | resize (part : Nat)
  | reset (part : Nat)
  | destroy (part : Nat)
  | pctlCommandDone (part : Nat)
  | controlRegisterWrite (part : Nat) (priv : Priv) (addr : Nat) (size : Nat) (v : Word)
  | memoryHomemoved (part : Nat) (addr : Nat)
  | hostDepositRecord (part port : Nat) (ro : Bool) (addr : Nat) (bytes : List Byte)
  | hostOrderedWrite (part port : Nat) (ro : Bool) (addr : Nat) (bytes : List Byte)
  | hostBulkWrite (part port : Nat) (addr : Nat) (bytes : List Byte)
  | hostWindowRead (part port : Nat) (bar : Nat) (addr : Nat) (size : Nat)
  | bulksync (part port : Nat)
  | cxlMemAccess (part : Nat) (write : Bool) (addr : Nat) (size : Nat) (bytes : List Byte)
  | cxlSnoop (port : Nat) (line : Nat) (bytes : List Byte)
  -- ==== fabric ====
  | fabricRequest (f : Flit)
  | fabricResponse (f : Flit)
  | fabricResend (core dev : Nat) (seq : BitVec 16)
  | uncertain (core dev : Nat)
  | remoteFailureTrap (slot : Nat)
  | flitForward (f : Flit) (route : List Nat)
  | credit (link : Nat) (vc : Nat) (control data : Nat)
  | linkState (group : Nat) (member : Nat) (globalPort : Bool) (port : Nat)
  -- ==== drift ====
  | driftTrigger (part queue : Nat)
  | driftSend (part queue : Nat)
  | driftData (part : Nat) (p : DriftPacket)
  | driftAck (part queue : Nat) (psn : BitVec 32)
  | driftNack (part queue : Nat) (psn : BitVec 32)
  | driftRetransmit (part queue : Nat) (psn : BitVec 32)
  | driftQueueError (part queue : Nat)
  | ecnMark (part queue : Nat)
  | ecnWindowRestore (part queue : Nat)
  -- ==== peals ====
  | pealNode (part run node : Nat)
  | pealArrival (part : Nat) (f : PealFlit)
  | pealNotice (part : Nat) (group seq : Nat) (lost : Bool)
  -- ==== added rows ====
  | unmintAtTable (uid tag : Nat) (name : Word) (part ctx : Nat)
  | atomicExecute (r : AtomicReq)
  | yieldRecordEnqueue (part cluster ctx : Nat) (e : QEntry)
  -- ==== steps whose numbers travel in the agenda entry (`Due.arg`, in the order that each line names) ====
  /-- 1 if every die's firmware image verifies -/
  | deviceReset
  /-- 1 if the image verifies, the image's number -/
  | firmwareUpdate
  /-- partition -/
  | attestRequest
  /-- partition -/
  | attestReady
  /-- 1 for a global port, port -/
  | linkRekey
  /-- core, slot -/
  | wake
  | cecountClear
  | linkevClear
  /-- measured power, divisor -/
  | throttle
  /-- temperature -/
  | thermalStop
  /-- temperature -/
  | thermalPowerOff
  /-- partition, calving -/
  | calveIncomplete
  /-- pair -/
  | ucieLaneFailure
  /-- pair -/
  | dieLinkLoss
  /-- 1 for a global port, port, lane -/
  | fabricLaneLoss
  /-- 1 for a global port, port -/
  | linkDown
  /-- number of corrected errors -/
  | eccCorrected
  /-- 1 for a global port, port, control entries, data entries -/
  | linkDegraded
deriving DecidableEq, Repr

end Sys2Proof
end

