-- ==== Sys2Proof/WellFormed.lean ====
section
/-! DEFINITION. The well-formed instructions: the terms that the two opcode maps can express (R45-R49). A term that fails
a check here has no encoding. The steps that are no instruction have no encoding; they are well-formed when the
numbers that name their agents lie in range. -/

namespace Sys2Proof

/-- Scopes that CFLUSH and CINV accept: CORE to DEVICE (R218). -/
def Scope.upToDevice : Scope → Bool
  | .core | .quad | .cluster | .die | .device => true
  | .group | .domain | .system => false

/-- Scopes that have a barrier network: CORE to DOMAIN (R120, R136). -/
def Scope.hasNetwork : Scope → Bool
  | .system => false
  | _ => true

/-- Scopes that FFENCE accepts: DEVICE to SYSTEM (R410). -/
def Scope.fromDevice : Scope → Bool
  | .core | .quad | .cluster | .die => false
  | .device | .group | .domain | .system => true

/-- The completion pair of an AE word: SC = 31 is reserved, and XS is zero when SC is 0 (R49, R238). -/
def scOk (sc : Reg) (xs : Bool) : Bool := sc != 31 && (sc != 0 || !xs)

/-- D, B and XB of a tuple operation: .C has D = s0 (R169); .P and .W have B and XB zero (R229). -/
def tupOk (d b : Reg) (xb : Bool) : TMode → Bool
  | .c => d == 0
  | _ => b == 0 && !xb

/-- A term that the opcode maps (R46-R49) can express. -/
def Instr.wellFormed : Instr → Bool
  | .ld _ _ _ _ se sz => !(se && sz == .d)
  | .ldl _ _ _ _ se sz => !(se && sz == .d)
  | .cflush _ _ _ sc => sc.upToDevice
  | .cinv _ _ _ sc => sc.upToDevice
  | .red op _ _ _ _ _ sz _ => !(op == .fadd && sz == .d)
  | .tdep d _ b _ xb _ m => tupOk d b xb m
  | .trd d _ b _ xb _ m => tupOk d b xb m
  | .ttake d _ b _ xb _ m => tupOk d b xb m
  | .mint d b _ => b != 0 && b != d
  | .spawn _ _ _ _ _ _ n => n ≤ 6
  | .barset _ _ _ _ _ sc => sc.hasNetwork
  | .bar _ _ _ sc => sc.hasNetwork
  | .barq _ _ _ _ sc => sc.hasNetwork
  | .ffence _ _ _ _ _ _ sc => sc.fromDevice
  | .trap n _ => n ≤ 15
  | .lease n _ => 1 ≤ n && n ≤ 16
  | .vadd _ _ _ _ sc xs | .vsub _ _ _ _ sc xs | .vmul _ _ _ _ sc xs | .vfma _ _ _ _ sc xs | .vmax _ _ _ _ sc xs
  | .vmin _ _ _ _ sc xs | .vscale _ _ _ _ sc xs | .vsel _ _ _ _ sc xs | .vand _ _ _ _ sc xs | .vor _ _ _ _ sc xs
  | .vxor _ _ _ _ sc xs | .vgather _ _ _ _ sc xs | .vscatter _ _ _ _ sc xs | .mma _ _ _ _ sc xs | .mmas _ _ _ _ sc xs
  | .cpyg _ _ _ _ sc xs | .cpys _ _ _ _ sc xs => scOk sc xs
  | .vabs _ _ _ sc xs | .vneg _ _ _ sc xs | .vexp2 _ _ _ sc xs | .vlog2 _ _ _ sc xs | .vrcp _ _ _ sc xs
  | .vrsq _ _ _ sc xs | .vcvt _ _ _ sc xs | .vfill _ _ _ sc xs | .vcopy _ _ _ sc xs | .vtrans _ _ _ sc xs
  | .mdrain _ _ _ sc xs | .maccld _ _ _ sc xs | .cpy _ _ _ sc xs | .cpyr _ _ _ sc xs => scOk sc xs
  | .mzero _ _ sc xs => scOk sc xs
  | .vcmp _ _ _ _ sc xs _ => scOk sc xs
  | .vred _ _ _ sc xs _ => scOk sc xs
  | .vshift _ _ _ _ sc xs _ => scOk sc xs
  | .dispatchRecord c | .steal c | .sliceExpiry c | .sliceEarlyEnd c => c < 64
  | .bundleFetch s | .windowSpill s | .windowFill s | .registerClear s | .slotLoad s | .userInterruptEntry s
  | .remoteFailureTrap s => s < 16384
  | .vectorGrant q | .vectorSliceExpiry q | .leaseGrant q | .leaseIdleEnd q | .leaseExpiry q => q < 512
  | .create p | .start p | .stop p | .resize p | .reset p | .destroy p | .pctlCommandDone p => p < 64
  | _ => true

/-- Is the term one of the instructions of R46 and R48 (and not another step of the device)? Only these have words. -/
def Instr.isInstruction : Instr → Bool
  | .illegalInstruction .. | .bundleFetch .. | .deliver .. | .windowSpill .. | .windowFill .. | .registerClear ..
  | .dispatchRecord .. | .poolClear .. | .slotLoad .. | .steal .. | .sliceExpiry .. | .sliceEarlyEnd ..
  | .barrierRelease .. | .messageFlit .. | .messageAnswer .. | .messageResend .. | .storePerform .. | .torusPacket ..
  | .tlbWalk .. | .depositAtHome .. | .depositResend .. | .matchAtHome .. | .cancelAtHome .. | .tupleDeliveryDone ..
  | .homemoved .. | .landingArrival .. | .fillmAtHome .. | .meltFillDone .. | .ldmAtHome .. | .meltEviction ..
  | .vectorGrant .. | .vectorSliceExpiry .. | .leaseGrant .. | .leaseIdleEnd .. | .leaseExpiry .. | .iterationCommit ..
  | .engineCompletion .. | .engineFault .. | .userInterruptEntry .. | .ringLoad .. | .copyEngineStart ..
  | .combineWindowClose .. | .contextSave .. | .contextRestore .. | .pfaultClear .. | .contextTableWrite ..
  | .ctxkill .. | .killComplete .. | .eccCorrected .. | .uncorrectableError .. | .create .. | .start .. | .stop ..
  | .resize .. | .reset .. | .destroy .. | .pctlCommandDone .. | .controlRegisterWrite .. | .memoryHomemoved ..
  | .ucieLaneFailure .. | .dieLinkLoss .. | .hostDepositRecord .. | .hostOrderedWrite .. | .hostBulkWrite ..
  | .hostWindowRead .. | .bulksync .. | .cxlMemAccess .. | .cxlSnoop .. | .fabricRequest .. | .fabricResponse ..
  | .fabricResend .. | .uncertain .. | .remoteFailureTrap .. | .flitForward .. | .credit .. | .linkState ..
  | .linkDown .. | .fabricLaneLoss .. | .linkDegraded .. | .driftTrigger .. | .driftSend .. | .driftData ..
  | .driftAck .. | .driftNack .. | .driftRetransmit .. | .driftQueueError .. | .ecnMark .. | .ecnWindowRestore ..
  | .pealNode .. | .pealArrival .. | .pealNotice .. | .deviceReset .. | .firmwareUpdate .. | .attestRequest ..
  | .attestReady .. | .linkRekey .. | .wake .. | .cecountClear .. | .linkevClear .. | .throttle .. | .thermalStop ..
  | .thermalPowerOff .. | .unmintAtTable .. | .atomicExecute .. | .calveIncomplete .. | .yieldRecordEnqueue .. => false
  | _ => true

end Sys2Proof
end

