-- ==== Sys2Proof/Decode.lean ====
section
/-! DEFINITION. From bits to instructions and back (R37-R49). Decoding is total: a word that is no instruction is answered
with the reason that R45 gives it. The encoder follows the same tables. -/

namespace Sys2Proof

-- ==== the six formats (R41, R44): fields as a structure, the word from its fields, the fields from a word ====

/-- CR format without L and COP (R41). -/
structure CR where
  d  : BitVec 5
  a  : BitVec 5
  b  : BitVec 5
  xa : Bool
  xb : Bool
  g  : BitVec 3
  m  : BitVec 4
deriving DecidableEq, Repr

/-- CM format without L and COP (R41). -/
structure CM where
  d   : BitVec 5
  a   : BitVec 5
  xd  : Bool
  off : BitVec 8
  xa  : Bool
  m   : BitVec 4
deriving DecidableEq, Repr

/-- CB format without L and COP (R41). -/
structure CB where
  p   : BitVec 3
  n   : Bool
  off : BitVec 20
deriving DecidableEq, Repr

/-- AR format without AOP (R44). -/
structure AR where
  d  : BitVec 5
  a  : BitVec 5
  b  : BitVec 5
  xa : Bool
  xb : Bool
  g  : BitVec 3
  fn : BitVec 6
deriving DecidableEq, Repr

/-- AI format without AOP (R44). -/
structure AI where
  d   : BitVec 5
  a   : BitVec 5
  xa  : Bool
  imm : BitVec 15
deriving DecidableEq, Repr

/-- AE format without AOP (R44). -/
structure AE where
  hd : BitVec 4
  ha : BitVec 4
  hb : BitVec 4
  hl : BitVec 4
  sc : BitVec 5
  xs : Bool
  fn : BitVec 4
deriving DecidableEq, Repr

/-- One bit as a one-bit vector. -/
def bit (b : Bool) : BitVec 1 := BitVec.ofBool b

/-- The field [hi:lo] of a word, `n` bits from bit `lo` (R6). -/
def field (w : BitVec 32) (lo n : Nat) : BitVec n := w.extractLsb' lo n

/-- Bit `i` of a word. -/
def bitAt (w : BitVec 32) (i : Nat) : Bool := w.getLsbD i

def CR.pack (l : Bool) (cop : BitVec 7) (x : CR) : BitVec 32 :=
  bit l ++ cop ++ x.d ++ x.a ++ x.b ++ bit x.xa ++ bit x.xb ++ x.g ++ x.m

def CR.unpack (w : BitVec 32) : CR :=
  { d := field w 19 5, a := field w 14 5, b := field w 9 5, xa := bitAt w 8, xb := bitAt w 7, g := field w 4 3,
    m := field w 0 4 }

def CM.pack (l : Bool) (cop : BitVec 7) (x : CM) : BitVec 32 :=
  bit l ++ cop ++ x.d ++ x.a ++ bit x.xd ++ x.off ++ bit x.xa ++ x.m

def CM.unpack (w : BitVec 32) : CM :=
  { d := field w 19 5, a := field w 14 5, xd := bitAt w 13, off := field w 5 8, xa := bitAt w 4, m := field w 0 4 }

def CB.pack (l : Bool) (cop : BitVec 7) (x : CB) : BitVec 32 := bit l ++ cop ++ x.p ++ bit x.n ++ x.off

def CB.unpack (w : BitVec 32) : CB := { p := field w 21 3, n := bitAt w 20, off := field w 0 20 }

def AR.pack (aop : BitVec 6) (x : AR) : BitVec 32 :=
  aop ++ x.d ++ x.a ++ x.b ++ bit x.xa ++ bit x.xb ++ x.g ++ x.fn

def AR.unpack (w : BitVec 32) : AR :=
  { d := field w 21 5, a := field w 16 5, b := field w 11 5, xa := bitAt w 10, xb := bitAt w 9, g := field w 6 3,
    fn := field w 0 6 }

def AI.pack (aop : BitVec 6) (x : AI) : BitVec 32 := aop ++ x.d ++ x.a ++ bit x.xa ++ x.imm

def AI.unpack (w : BitVec 32) : AI := { d := field w 21 5, a := field w 16 5, xa := bitAt w 15, imm := field w 0 15 }

def AE.pack (aop : BitVec 6) (x : AE) : BitVec 32 :=
  aop ++ x.hd ++ x.ha ++ x.hb ++ x.hl ++ x.sc ++ bit x.xs ++ x.fn

def AE.unpack (w : BitVec 32) : AE :=
  { hd := field w 22 4, ha := field w 18 4, hb := field w 14 4, hl := field w 10 4, sc := field w 5 5, xs := bitAt w 4,
    fn := field w 0 4 }

/-- L of a C-word (R37). -/
def loneBit (w : BitVec 32) : Bool := bitAt w 31

/-- COP of a C-word (R41). -/
def copOf (w : BitVec 32) : BitVec 7 := field w 24 7

/-- AOP of an A-word (R44). -/
def aopOf (w : BitVec 32) : BitVec 6 := field w 26 6

-- ==== sub-fields (R47-R49) ====

def Size.bits : Size → BitVec 2 | .b => 0 | .h => 1 | .w => 2 | .d => 3

def Size.ofBits (x : BitVec 2) : Size := if x = 0 then .b else if x = 1 then .h else if x = 2 then .w else .d

/-- Bytes of an access (R47). -/
def Size.bytes : Size → Nat | .b => 1 | .h => 2 | .w => 4 | .d => 8

def WSize.bit : WSize → Bool | .w => false | .d => true

def WSize.ofBit (b : Bool) : WSize := if b then .d else .w

/-- Bytes of a strong or atomic access (R47). -/
def WSize.bytes : WSize → Nat | .w => 4 | .d => 8

/-- The scope's code (R120). -/
def Scope.code : Scope → Nat
  | .core => 0 | .quad => 1 | .cluster => 2 | .die => 3 | .device => 4 | .group => 5 | .domain => 6 | .system => 7

def Scope.bits (s : Scope) : BitVec 3 := BitVec.ofNat 3 s.code

def Scope.ofBits (x : BitVec 3) : Scope :=
  if x = 0 then .core else if x = 1 then .quad else if x = 2 then .cluster else if x = 3 then .die
  else if x = 4 then .device else if x = 5 then .group else if x = 6 then .domain else .system

def TMode.bits : TMode → BitVec 2 | .p => 0 | .w => 1 | .c => 2

def TMode.ofBits (x : BitVec 2) : Option TMode :=
  if x = 0 then some .p else if x = 1 then some .w else if x = 2 then some .c else none

def RedOp.bits : RedOp → BitVec 5
  | .add => 0 | .fadd => 1 | .min => 2 | .max => 3 | .and => 4 | .or => 5 | .xor => 6

def RedOp.ofBits (x : BitVec 5) : Option RedOp :=
  if x = 0 then some .add else if x = 1 then some .fadd else if x = 2 then some .min else if x = 3 then some .max
  else if x = 4 then some .and else if x = 5 then some .or else if x = 6 then some .xor else none

def TlbKind.bits : TlbKind → BitVec 2 | .page => 0 | .asid => 1 | .all => 2

def TlbKind.ofBits (x : BitVec 2) : Option TlbKind :=
  if x = 0 then some .page else if x = 1 then some .asid else if x = 2 then some .all else none

def Cond.bits : Cond → BitVec 6
  | .eq => 0 | .ne => 1 | .lt => 2 | .le => 3 | .gt => 4 | .ge => 5 | .ltu => 6 | .leu => 7 | .gtu => 8 | .geu => 9

def Cond.ofBits (x : BitVec 6) : Option Cond :=
  if x = 0 then some .eq else if x = 1 then some .ne else if x = 2 then some .lt else if x = 3 then some .le
  else if x = 4 then some .gt else if x = 5 then some .ge else if x = 6 then some .ltu else if x = 7 then some .leu
  else if x = 8 then some .gtu else if x = 9 then some .geu else none

def FCond.code : FCond → Nat
  | .eq => 0 | .ne => 1 | .lt => 2 | .le => 3 | .gt => 4 | .ge => 5 | .un => 6 | .ord => 7

def FCond.ofCode (x : Nat) : Option FCond :=
  if x = 0 then some .eq else if x = 1 then some .ne else if x = 2 then some .lt else if x = 3 then some .le
  else if x = 4 then some .gt else if x = 5 then some .ge else if x = 6 then some .un else if x = 7 then some .ord
  else none

def FcvtKind.bits : FcvtKind → BitVec 5
  | .i32 => 0 | .u32 => 1 | .i64 => 2 | .u64 => 3 | .bf16 => 4 | .fp16 => 5 | .fromBf16 => 6 | .fromFp16 => 7

def FcvtKind.ofBits (x : BitVec 5) : Option FcvtKind :=
  if x = 0 then some .i32 else if x = 1 then some .u32 else if x = 2 then some .i64 else if x = 3 then some .u64
  else if x = 4 then some .bf16 else if x = 5 then some .fp16 else if x = 6 then some .fromBf16
  else if x = 7 then some .fromFp16 else none

def IcvtKind.bits : IcvtKind → BitVec 5 | .i32 => 0 | .u32 => 1 | .i64 => 2 | .u64 => 3

def IcvtKind.ofBits (x : BitVec 5) : Option IcvtKind :=
  if x = 0 then some .i32 else if x = 1 then some .u32 else if x = 2 then some .i64 else if x = 3 then some .u64
  else none

def RedKind.bits : RedKind → BitVec 4 | .sum => 0 | .max => 1 | .min => 2

def RedKind.ofBits (x : BitVec 4) : Option RedKind :=
  if x = 0 then some .sum else if x = 1 then some .max else if x = 2 then some .min else none

def ShiftKind.bits : ShiftKind → BitVec 4 | .l => 0 | .r => 1 | .a => 2

def ShiftKind.ofBits (x : BitVec 4) : Option ShiftKind :=
  if x = 0 then some .l else if x = 1 then some .r else if x = 2 then some .a else none

/-- A field's low bits, where the field names a handle, a predicate, a quarter or a ring (R43, R49). -/
def low (x : BitVec 5) (n : Nat) : BitVec n := x.setWidth n

/-- The same field with its upper bits zero. -/
def up {n : Nat} (x : BitVec n) : BitVec 5 := x.setWidth 5

/-- Does the field's value lie in its low `n` bits (R43, R49: otherwise reason 3)? -/
def fits (x : BitVec 5) (n : Nat) : Bool := x.toNat < 2 ^ n

-- ==== decoding (R38, R45) ====

/-- The answer of one word: the lowest reason that applies, or the instruction. `zero` says that every field given as
zero is zero (reason 2), `ins` is absent where a field holds a value the map does not assign (reason 3). -/
def word (zero : Bool) (ins : Option Instr) : Except Nat Instr :=
  if zero then match ins with
    | some i => .ok i
    | none => .error 3
  else .error 2

/-- A C-word that takes no literal: with L = 1, word 1 is zero (reason 4). -/
def noLit (w0 w1 : BitVec 32) (r : Except Nat Instr) : Except Nat Instr :=
  match r with
  | .error e => .error e
  | .ok i => if loneBit w0 && w1 != 0 then .error 4 else .ok i

/-- A C-word that takes a literal: it exists with L = 1 only (reason 5). -/
def withLit (w0 : BitVec 32) (r : Except Nat Instr) : Except Nat Instr :=
  match r with
  | .error e => .error e
  | .ok i => if loneBit w0 then .ok i else .error 5

/-- `i` under a condition that R47-R49 put on its fields. -/
def onlyIf (c : Bool) (i : Instr) : Option Instr := if c then some i else none

/-- Word 0 of a bundle through the C-word map (R46); `w1` is the other word, the literal of a lone bundle. An answer
`.error r` is R45's reason r. A tuple opcode whose mode is 3 and whose B or XB is nonzero has reason 3: B is taken as a zero field under the modes 0 and 1
only (R45, DESIGN CHOICE, log 159). -/
def decodeC (w0 w1 : BitVec 32) : Except Nat Instr :=
  match (copOf w0).toNat with
  | 0 => let f := CR.unpack w0; noLit w0 w1 (word (f.d == 0 && f.a == 0 && f.b == 0 && !f.xa && !f.xb && f.g == 0 && f.m == 0) (some .cnop))
  | 1 => let f := CB.unpack w0; noLit w0 w1 (word (true) (some (.br f.p f.n f.off)))
  | 2 => let f := CB.unpack w0; noLit w0 w1 (word (true) (some (.jmp f.p f.n f.off)))
  | 3 => let f := CB.unpack w0; noLit w0 w1 (word (true) (some (.call f.p f.n f.off)))
  | 4 => let f := CR.unpack w0; noLit w0 w1 (word (f.d == 0 && f.b == 0 && !f.xb && f.m == 0) (some (.jmpr f.a f.xa f.g)))
  | 5 => let f := CR.unpack w0; noLit w0 w1 (word (f.d == 0 && f.b == 0 && !f.xb && f.m == 0) (some (.callr f.a f.xa f.g)))
  | 6 => let f := CR.unpack w0; noLit w0 w1 (word (f.d == 0 && f.a == 0 && f.b == 0 && !f.xa && !f.xb && f.m == 0) (some (.ret f.g)))
  | 7 => let f := CR.unpack w0; withLit w0 (word (f.a == 0 && f.b == 0 && !f.xa && !f.xb && f.m == 0) (some (.lit f.d f.g w1)))
  | 8 => let f := CR.unpack w0; withLit w0 (word (f.a == 0 && f.b == 0 && !f.xa && !f.xb && f.m == 0) (some (.lith f.d f.g w1)))
  | 9 => let f := CR.unpack w0; noLit w0 w1 (word (f.a == 0 && !f.xa && !f.xb && f.m == 0) (some (.mfs f.d f.b f.g)))
  | 10 => let f := CR.unpack w0; noLit w0 w1 (word (f.b == 0 && !f.xb && f.m == 0) (some (.mts f.d f.a f.xa f.g)))
  | 16 => let f := CM.unpack w0; noLit w0 w1 (word (!f.xd && !f.m.getLsbD 3) (onlyIf (!(f.m.getLsbD 2 && f.m.extractLsb' 0 2 == 3)) (.ld f.d f.a f.off f.xa (f.m.getLsbD 2) (Size.ofBits (f.m.extractLsb' 0 2)))))
  | 18 => let f := CM.unpack w0; noLit w0 w1 (word (!f.xd && !f.m.getLsbD 3) (onlyIf (!(f.m.getLsbD 2 && f.m.extractLsb' 0 2 == 3)) (.ldl f.d f.a f.off f.xa (f.m.getLsbD 2) (Size.ofBits (f.m.extractLsb' 0 2)))))
  | 17 => let f := CM.unpack w0; noLit w0 w1 (word (f.m.extractLsb' 2 2 == 0) (some (.st f.d f.a f.xd f.off f.xa (Size.ofBits (f.m.extractLsb' 0 2)))))
  | 19 => let f := CM.unpack w0; noLit w0 w1 (word (f.m.extractLsb' 2 2 == 0) (some (.stl f.d f.a f.xd f.off f.xa (Size.ofBits (f.m.extractLsb' 0 2)))))
  | 48 => let f := CM.unpack w0; noLit w0 w1 (word (!f.xd) (some (.ldS f.d f.a f.off f.xa (WSize.ofBit (f.m.getLsbD 3)) (Scope.ofBits (f.m.extractLsb' 0 3)))))
  | 49 => let f := CM.unpack w0; noLit w0 w1 (word (true) (some (.stS f.d f.a f.xd f.off f.xa (WSize.ofBit (f.m.getLsbD 3)) (Scope.ofBits (f.m.extractLsb' 0 3)))))
  | 50 => let f := CM.unpack w0; noLit w0 w1 (word (!f.xd) (some (.ldAcq f.d f.a f.off f.xa (WSize.ofBit (f.m.getLsbD 3)) (Scope.ofBits (f.m.extractLsb' 0 3)))))
  | 51 => let f := CM.unpack w0; noLit w0 w1 (word (true) (some (.stRel f.d f.a f.xd f.off f.xa (WSize.ofBit (f.m.getLsbD 3)) (Scope.ofBits (f.m.extractLsb' 0 3)))))
  | 52 => let f := CR.unpack w0; noLit w0 w1 (word (f.d == 0 && f.a == 0 && f.b == 0 && !f.xa && !f.xb) (if f.m.getLsbD 3 then onlyIf (f.m == 8) (.ifence f.g) else some (.fence f.g (Scope.ofBits (f.m.extractLsb' 0 3)))))
  | 53 => let f := CR.unpack w0; noLit w0 w1 (word (f.d == 0 && f.b == 0 && !f.xb) (onlyIf (Scope.ofBits (f.m.extractLsb' 0 3)).upToDevice (if f.m.getLsbD 3 then .cinv f.a f.xa f.g (Scope.ofBits (f.m.extractLsb' 0 3)) else .cflush f.a f.xa f.g (Scope.ofBits (f.m.extractLsb' 0 3)))))
  | 54 => let f := CR.unpack w0; noLit w0 w1 (word (true) ((RedOp.ofBits f.d).bind fun op => onlyIf (!(op == .fadd && f.m.getLsbD 3)) (.red op f.a f.b f.xa f.xb f.g (WSize.ofBit (f.m.getLsbD 3)) (Scope.ofBits (f.m.extractLsb' 0 3)))))
  | 55 => let f := CR.unpack w0; noLit w0 w1 (word (true) (some (.cas f.d f.a f.b f.xa f.xb f.g (WSize.ofBit (f.m.getLsbD 3)) (Scope.ofBits (f.m.extractLsb' 0 3)))))
  | 56 => let f := CR.unpack w0; noLit w0 w1 (word (true) (some (.amoAdd f.d f.a f.b f.xa f.xb f.g (WSize.ofBit (f.m.getLsbD 3)) (Scope.ofBits (f.m.extractLsb' 0 3)))))
  | 57 => let f := CR.unpack w0; noLit w0 w1 (word (true) (some (.amoSwap f.d f.a f.b f.xa f.xb f.g (WSize.ofBit (f.m.getLsbD 3)) (Scope.ofBits (f.m.extractLsb' 0 3)))))
  | 58 => let f := CR.unpack w0; noLit w0 w1 (word (true) (some (.amoAnd f.d f.a f.b f.xa f.xb f.g (WSize.ofBit (f.m.getLsbD 3)) (Scope.ofBits (f.m.extractLsb' 0 3)))))
  | 59 => let f := CR.unpack w0; noLit w0 w1 (word (true) (some (.amoOr f.d f.a f.b f.xa f.xb f.g (WSize.ofBit (f.m.getLsbD 3)) (Scope.ofBits (f.m.extractLsb' 0 3)))))
  | 60 => let f := CR.unpack w0; noLit w0 w1 (word (true) (some (.amoXor f.d f.a f.b f.xa f.xb f.g (WSize.ofBit (f.m.getLsbD 3)) (Scope.ofBits (f.m.extractLsb' 0 3)))))
  | 61 => let f := CR.unpack w0; noLit w0 w1 (word (true) (some (.amoMin f.d f.a f.b f.xa f.xb f.g (WSize.ofBit (f.m.getLsbD 3)) (Scope.ofBits (f.m.extractLsb' 0 3)))))
  | 62 => let f := CR.unpack w0; noLit w0 w1 (word (true) (some (.amoMax f.d f.a f.b f.xa f.xb f.g (WSize.ofBit (f.m.getLsbD 3)) (Scope.ofBits (f.m.extractLsb' 0 3)))))
  | 64 => let f := CR.unpack w0; noLit w0 w1 (word (f.m.extractLsb' 2 2 == 0 && (f.m.extractLsb' 0 2 == 2 || f.m.extractLsb' 0 2 == 3 || (f.b == 0 && !f.xb))) ((TMode.ofBits (f.m.extractLsb' 0 2)).bind fun md => onlyIf (fits f.a 4 && (md != .c || f.d == 0)) (.tdep f.d (low f.a 4) f.b f.xa f.xb f.g md)))
  | 65 => let f := CR.unpack w0; noLit w0 w1 (word (f.m.extractLsb' 2 2 == 0 && (f.m.extractLsb' 0 2 == 2 || f.m.extractLsb' 0 2 == 3 || (f.b == 0 && !f.xb))) ((TMode.ofBits (f.m.extractLsb' 0 2)).bind fun md => onlyIf (fits f.a 4 && (md != .c || f.d == 0)) (.trd f.d (low f.a 4) f.b f.xa f.xb f.g md)))
  | 66 => let f := CR.unpack w0; noLit w0 w1 (word (f.m.extractLsb' 2 2 == 0 && (f.m.extractLsb' 0 2 == 2 || f.m.extractLsb' 0 2 == 3 || (f.b == 0 && !f.xb))) ((TMode.ofBits (f.m.extractLsb' 0 2)).bind fun md => onlyIf (fits f.a 4 && (md != .c || f.d == 0)) (.ttake f.d (low f.a 4) f.b f.xa f.xb f.g md)))
  | 67 => let f := CR.unpack w0; noLit w0 w1 (word (f.b == 0 && !f.xb && f.m == 0) (onlyIf (fits f.a 4) (.tcancel f.d (low f.a 4) f.xa f.g)))
  | 68 => let f := CR.unpack w0; noLit w0 w1 (word (f.a == 0 && !f.xa && !f.xb && f.m == 0) (onlyIf (f.b != 0 && f.b != f.d) (.mint f.d f.b f.g)))
  | 69 => let f := CR.unpack w0; noLit w0 w1 (word (f.b == 0 && !f.xb && f.m == 0) (some (.mintC f.d f.a f.xa f.g)))
  | 70 => let f := CR.unpack w0; noLit w0 w1 (word (!f.m.getLsbD 3) (some (.land f.d f.a f.b f.xa f.xb f.g (Scope.ofBits (f.m.extractLsb' 0 3)))))
  | 71 => let f := CR.unpack w0; noLit w0 w1 (word (f.b == 0 && !f.xb && f.m == 0) (some (.unmint f.d f.a f.xa f.g)))
  | 72 => let f := CR.unpack w0; withLit w0 (word (f.d == 0 && f.m == 0) (some (.fillm f.a f.b f.xa f.xb f.g w1)))
  | 73 => let f := CR.unpack w0; noLit w0 w1 (word (f.m == 0) (some (.ldM f.d f.a f.b f.xa f.xb f.g)))
  | 74 => let f := CR.unpack w0; noLit w0 w1 (word (f.b == 0 && !f.xb && f.m == 0) (some (.meltq f.d f.a f.xa f.g)))
  | 80 => let f := CR.unpack w0; noLit w0 w1 (word (true) (onlyIf (f.m ≤ 6) (.spawn f.d f.a f.b f.xa f.xb f.g f.m)))
  | 81 => let f := CR.unpack w0; noLit w0 w1 (word (f.d == 0 && f.a == 0 && f.b == 0 && !f.xa && !f.xb && f.m == 0) (some (.exit f.g)))
  | 82 => let f := CR.unpack w0; noLit w0 w1 (word (f.d == 0 && f.a == 0 && f.b == 0 && !f.xa && !f.xb && f.m == 0) (some (.yield f.g)))
  | 83 => let f := CR.unpack w0; noLit w0 w1 (word (f.d == 0 && f.b == 0 && !f.xb && f.m == 0) (some (.suspend f.a f.xa f.g)))
  | 84 => let f := CR.unpack w0; noLit w0 w1 (word (f.d == 0 && !f.m.getLsbD 3) (onlyIf (Scope.ofBits (f.m.extractLsb' 0 3)).hasNetwork (.barset f.a f.b f.xa f.xb f.g (Scope.ofBits (f.m.extractLsb' 0 3)))))
  | 85 => let f := CR.unpack w0; noLit w0 w1 (word (f.d == 0 && f.b == 0 && !f.xb && !f.m.getLsbD 3) (onlyIf (Scope.ofBits (f.m.extractLsb' 0 3)).hasNetwork (.bar f.a f.xa f.g (Scope.ofBits (f.m.extractLsb' 0 3)))))
  | 86 => let f := CR.unpack w0; noLit w0 w1 (word (f.b == 0 && !f.xb && !f.m.getLsbD 3) (onlyIf (Scope.ofBits (f.m.extractLsb' 0 3)).hasNetwork (.barq f.d f.a f.xa f.g (Scope.ofBits (f.m.extractLsb' 0 3)))))
  | 87 => let f := CR.unpack w0; noLit w0 w1 (word (f.d == 0 && f.b == 0 && !f.xb && f.m == 0) (some (.setpri f.a f.xa f.g)))
  | 96 => let f := CR.unpack w0; noLit w0 w1 (word (!f.m.getLsbD 3) (onlyIf (Scope.ofBits (f.m.extractLsb' 0 3)).fromDevice (.ffence f.d f.a f.b f.xa f.xb f.g (Scope.ofBits (f.m.extractLsb' 0 3)))))
  | 97 => let f := CR.unpack w0; noLit w0 w1 (word (f.m == 0) (some (.xpost f.d f.a f.b f.xa f.xb f.g)))
  | 98 => let f := CR.unpack w0; noLit w0 w1 (word (f.b == 0 && !f.xb && f.m == 0) (some (.xflush f.d f.a f.xa f.g)))
  | 99 => let f := CR.unpack w0; noLit w0 w1 (word (f.m == 0) (some (.xwait f.d f.a f.b f.xa f.xb f.g)))
  | 100 => let f := CR.unpack w0; noLit w0 w1 (word (f.b == 0 && !f.xb && f.m == 0) (some (.pealLoad f.d f.a f.xa f.g)))
  | 101 => let f := CR.unpack w0; noLit w0 w1 (word (f.m == 0) (some (.pealRun f.d f.a f.b f.xa f.xb f.g)))
  | 102 => let f := CR.unpack w0; noLit w0 w1 (word (f.b == 0 && !f.xb && f.m == 0) (some (.pealWait f.d f.a f.xa f.g)))
  | 103 => let f := CR.unpack w0; noLit w0 w1 (word (f.b == 0 && !f.xb && f.m == 0) (some (.calve f.d f.a f.xa f.g)))
  | 112 => let f := CR.unpack w0; noLit w0 w1 (word (f.d == 0 && f.a == 0 && !f.xa && !f.xb && f.m == 0) (onlyIf (f.b ≤ 15) (.trap f.b f.g)))
  | 113 => let f := CR.unpack w0; noLit w0 w1 (word (f.d == 0 && f.a == 0 && f.b == 0 && !f.xa && !f.xb && f.m == 0) (some (.rett f.g)))
  | 114 => let f := CR.unpack w0; noLit w0 w1 (word (f.d == 0 && f.a == 0 && f.b == 0 && !f.xa && !f.xb && f.m == 0) (some (.uiret f.g)))
  | 115 => let f := CR.unpack w0; noLit w0 w1 (word (f.d == 0 && f.m.extractLsb' 2 2 == 0) ((TlbKind.ofBits (f.m.extractLsb' 0 2)).bind fun k => some (.tlbinv f.a f.b f.xa f.xb f.g k)))
  | 116 => let f := CR.unpack w0; noLit w0 w1 (word (f.b == 0 && !f.xb && f.m == 0) (some (.tlbprobe f.d f.a f.xa f.g)))
  | 117 => let f := CR.unpack w0; noLit w0 w1 (word (f.b == 0 && !f.xb && f.m == 0) (some (.ctxsave f.d f.a f.xa f.g)))
  | 118 => let f := CR.unpack w0; noLit w0 w1 (word (f.b == 0 && !f.xb && f.m == 0) (some (.ctxload f.d f.a f.xa f.g)))
  | 119 => let f := CR.unpack w0; noLit w0 w1 (word (f.d == 0 && f.b == 0 && !f.xb && f.m == 0) (some (.foldset f.a f.xa f.g)))
  | 120 => let f := CR.unpack w0; noLit w0 w1 (word (f.d == 0 && f.a == 0 && f.b == 0 && !f.xa && !f.xb && f.m == 0) (some (.halt f.g)))
  | _ => .error 0

/-- An AE word: fields the command does not use are zero (reason 2), and so is XS where SC is 0; SC = 31 is reserved. -/
def aeWord (f : AE) (usesA usesB : Bool) (i : Instr) : Except Nat Instr :=
  word ((usesA || f.ha == 0) && (usesB || f.hb == 0) && (f.sc != 0 || !f.xs)) (onlyIf (f.sc != 31) i)

/-- AOP 0x00 (R48): the integer functions. -/
def decodeInt (f : AR) : Except Nat Instr :=
  match f.fn.toNat with
  | 0 => word (true) (some (.add f.d f.a f.b f.xa f.xb f.g))
  | 1 => word (true) (some (.sub f.d f.a f.b f.xa f.xb f.g))
  | 2 => word (true) (some (.mul f.d f.a f.b f.xa f.xb f.g))
  | 3 => word (true) (some (.mulh f.d f.a f.b f.xa f.xb f.g))
  | 4 => word (true) (some (.div f.d f.a f.b f.xa f.xb f.g))
  | 5 => word (true) (some (.divu f.d f.a f.b f.xa f.xb f.g))
  | 6 => word (true) (some (.rem f.d f.a f.b f.xa f.xb f.g))
  | 7 => word (true) (some (.remu f.d f.a f.b f.xa f.xb f.g))
  | 8 => word (true) (some (.and f.d f.a f.b f.xa f.xb f.g))
  | 9 => word (true) (some (.or f.d f.a f.b f.xa f.xb f.g))
  | 10 => word (true) (some (.xor f.d f.a f.b f.xa f.xb f.g))
  | 11 => word (true) (some (.andn f.d f.a f.b f.xa f.xb f.g))
  | 12 => word (true) (some (.shl f.d f.a f.b f.xa f.xb f.g))
  | 13 => word (true) (some (.shr f.d f.a f.b f.xa f.xb f.g))
  | 14 => word (true) (some (.sar f.d f.a f.b f.xa f.xb f.g))
  | 15 => word (true) (some (.rot f.d f.a f.b f.xa f.xb f.g))
  | 16 => word (f.b == 0 && !f.xb) (some (.clz f.d f.a f.xa f.g))
  | 17 => word (f.b == 0 && !f.xb) (some (.popc f.d f.a f.xa f.g))
  | 18 => word (true) (some (.min f.d f.a f.b f.xa f.xb f.g))
  | 19 => word (true) (some (.max f.d f.a f.b f.xa f.xb f.g))
  | 20 => word (true) (some (.minu f.d f.a f.b f.xa f.xb f.g))
  | 21 => word (true) (some (.maxu f.d f.a f.b f.xa f.xb f.g))
  | 22 => word (f.b == 0 && !f.xb) (some (.mov f.d f.a f.xa f.g))
  | 23 => word (true) (some (.sel f.d f.a f.b f.xa f.xb f.g))
  | _ => .error 1

/-- AOP 0x20 (R48): the floating-point functions. -/
def decodeFp (f : AR) : Except Nat Instr :=
  match f.fn.toNat with
  | 0 => word true (some (.fadd f.d f.a f.b f.xa f.xb f.g))
  | 1 => word true (some (.fsub f.d f.a f.b f.xa f.xb f.g))
  | 2 => word true (some (.fmul f.d f.a f.b f.xa f.xb f.g))
  | 3 => word true (some (.fdiv f.d f.a f.b f.xa f.xb f.g))
  | 4 => word (f.b == 0 && !f.xb) (some (.fsqrt f.d f.a f.xa f.g))
  | 5 => word true (some (.fmin f.d f.a f.b f.xa f.xb f.g))
  | 6 => word true (some (.fmax f.d f.a f.b f.xa f.xb f.g))
  | 7 => word true (some (.fsgn f.d f.a f.b f.xa f.xb f.g))
  | 8 => word (f.b == 0 && !f.xb) (some (.fclass f.d f.a f.xa f.g))
  | 9 => word (!f.xb) ((FcvtKind.ofBits f.b).bind fun k => some (.fcvt f.d f.a k f.xa f.g))
  | 10 => word (!f.xb) ((IcvtKind.ofBits f.b).bind fun k => some (.icvt f.d f.a k f.xa f.g))
  | 11 => word true (some (.ffma f.d f.a f.b f.xa f.xb f.g))
  | _ => .error 1

/-- AOP 0x30 (R48, R273). -/
def decodeV30 (f : AE) : Except Nat Instr :=
  match f.fn.toNat with
  | 0 => aeWord f true true (.vadd f.hd f.ha f.hb f.hl f.sc f.xs)
  | 1 => aeWord f true true (.vsub f.hd f.ha f.hb f.hl f.sc f.xs)
  | 2 => aeWord f true true (.vmul f.hd f.ha f.hb f.hl f.sc f.xs)
  | 3 => aeWord f true true (.vfma f.hd f.ha f.hb f.hl f.sc f.xs)
  | 4 => aeWord f true true (.vmax f.hd f.ha f.hb f.hl f.sc f.xs)
  | 5 => aeWord f true true (.vmin f.hd f.ha f.hb f.hl f.sc f.xs)
  | 6 => aeWord f true false (.vabs f.hd f.ha f.hl f.sc f.xs)
  | 7 => aeWord f true false (.vneg f.hd f.ha f.hl f.sc f.xs)
  | 8 => aeWord f true false (.vexp2 f.hd f.ha f.hl f.sc f.xs)
  | 9 => aeWord f true false (.vlog2 f.hd f.ha f.hl f.sc f.xs)
  | 10 => aeWord f true false (.vrcp f.hd f.ha f.hl f.sc f.xs)
  | 11 => aeWord f true false (.vrsq f.hd f.ha f.hl f.sc f.xs)
  | 12 => aeWord f true false (.vcvt f.hd f.ha f.hl f.sc f.xs)
  | 13 => aeWord f true true (.vscale f.hd f.ha f.hb f.hl f.sc f.xs)
  | _ => .error 1

/-- AOP 0x31 (R48, R275-R279). -/
def decodeV31 (f : AE) : Except Nat Instr :=
  match f.fn.toNat with
  | 0 => aeWord f true true (.vsel f.hd f.ha f.hb f.hl f.sc f.xs)
  | 1 => aeWord f true true (.vand f.hd f.ha f.hb f.hl f.sc f.xs)
  | 2 => aeWord f true true (.vor f.hd f.ha f.hb f.hl f.sc f.xs)
  | 3 => aeWord f true true (.vxor f.hd f.ha f.hb f.hl f.sc f.xs)
  | 4 => aeWord f true false (.vfill f.hd f.ha f.hl f.sc f.xs)
  | 5 => aeWord f true false (.vcopy f.hd f.ha f.hl f.sc f.xs)
  | 6 => aeWord f true false (.vtrans f.hd f.ha f.hl f.sc f.xs)
  | 7 => aeWord f true true (.vgather f.hd f.ha f.hb f.hl f.sc f.xs)
  | 8 => aeWord f true true (.vscatter f.hd f.ha f.hb f.hl f.sc f.xs)
  | _ => .error 1

/-- AOP 0x38 (R48, R282-R283). -/
def decodeM38 (f : AE) : Except Nat Instr :=
  match f.fn.toNat with
  | 0 => aeWord f true true (.mma f.hd f.ha f.hb f.hl f.sc f.xs)
  | 1 => aeWord f true true (.mmas f.hd f.ha f.hb f.hl f.sc f.xs)
  | 2 => aeWord f false false (.mzero f.hd f.hl f.sc f.xs)
  | 3 => aeWord f true false (.mdrain f.hd f.ha f.hl f.sc f.xs)
  | 4 => aeWord f true false (.maccld f.hd f.ha f.hl f.sc f.xs)
  | _ => .error 1

/-- AOP 0x3C (R48, R285-R287). -/
def decodeC3C (f : AE) : Except Nat Instr :=
  match f.fn.toNat with
  | 0 => aeWord f true false (.cpy f.hd f.ha f.hl f.sc f.xs)
  | 1 => aeWord f true true (.cpyg f.hd f.ha f.hb f.hl f.sc f.xs)
  | 2 => aeWord f true true (.cpys f.hd f.ha f.hb f.hl f.sc f.xs)
  | 3 => aeWord f true false (.cpyr f.hd f.ha f.hl f.sc f.xs)
  | _ => .error 1

/-- AOP 0x3E (R48, R288-R294): handles, rings, leases and engine state. -/
def decodeH3E (f : AR) : Except Nat Instr :=
  match f.fn.toNat with
  | 0 => word (!f.xb) (onlyIf (fits f.d 4 && fits f.b 2) (.hset (low f.d 4) f.a (low f.b 2) f.xa f.g))
  | 1 => word (!f.xb) (onlyIf (fits f.a 4 && fits f.b 2) (.hget f.d (low f.a 4) (low f.b 2) f.xa f.g))
  | 2 => word (f.b == 0 && !f.xb) (onlyIf (fits f.d 3) (.rset (low f.d 3) f.a f.xa f.g))
  | 3 => word (f.a == 0 && f.b == 0 && !f.xa && !f.xb) (onlyIf (fits f.d 3) (.rpush (low f.d 3) f.g))
  | 4 => word (f.d == 0 && f.a == 0 && !f.xa && !f.xb) (onlyIf (1 ≤ f.b && f.b ≤ 16) (.lease f.b f.g))
  | 5 => word (f.d == 0 && f.a == 0 && f.b == 0 && !f.xa && !f.xb) (some (.unlease f.g))
  | 6 => word true (some (.engstat f.d f.a f.b f.xa f.xb f.g))
  | 7 => word (f.d == 0) (some (.resume f.a f.b f.xa f.xb f.g))
  | _ => .error 1

/-- AOP 0x06 (R48, R77): predicates. -/
def decodePred (f : AR) : Except Nat Instr :=
  match f.fn.toNat with
  | 0 => word (!f.xa && !f.xb) (onlyIf (fits f.d 3 && fits f.a 3 && fits f.b 3) (.pand (low f.d 3) (low f.a 3) (low f.b 3) f.g))
  | 1 => word (!f.xa && !f.xb) (onlyIf (fits f.d 3 && fits f.a 3 && fits f.b 3) (.por (low f.d 3) (low f.a 3) (low f.b 3) f.g))
  | 2 => word (!f.xa && !f.xb && f.b == 0) (onlyIf (fits f.d 3 && fits f.a 3) (.pnot (low f.d 3) (low f.a 3) f.g))
  | _ => .error 1

/-- AOP 0x05 and 0x21 (R48): compares, whose D names a predicate. -/
def decodeCmp (f : AR) : Except Nat Instr :=
  match Cond.ofBits f.fn with
  | some cc => word true (onlyIf (fits f.d 3) (.cmp (low f.d 3) f.a f.b f.xa f.xb f.g cc))
  | none => .error 1

def decodeFcmp (f : AR) : Except Nat Instr :=
  match FCond.ofCode f.fn.toNat with
  | some cc => word true (onlyIf (fits f.d 3) (.fcmp (low f.d 3) f.a f.b f.xa f.xb f.g cc))
  | none => .error 1

/-- Word 1 of a bundle that is not lone, through the A-word map (R48). -/
def decodeA (w : BitVec 32) : Except Nat Instr :=
  match (aopOf w).toNat with
  | 0x00 => decodeInt (AR.unpack w)
  | 0x01 => let f := AI.unpack w; word true (some (.addi f.d f.a f.xa f.imm))
  | 0x02 => let f := AI.unpack w; word true (some (.andi f.d f.a f.xa f.imm))
  | 0x03 => let f := AI.unpack w; word true (some (.ori f.d f.a f.xa f.imm))
  | 0x04 => let f := AI.unpack w; word (f.imm.extractLsb' 6 9 == 0) (some (.shli f.d f.a f.xa (f.imm.extractLsb' 0 6)))
  | 0x05 => decodeCmp (AR.unpack w)
  | 0x06 => decodePred (AR.unpack w)
  | 0x20 => decodeFp (AR.unpack w)
  | 0x21 => decodeFcmp (AR.unpack w)
  | 0x30 => decodeV30 (AE.unpack w)
  | 0x31 => decodeV31 (AE.unpack w)
  | 0x32 => let f := AE.unpack w; match FCond.ofCode f.fn.toNat with
    | some cc => aeWord f true true (.vcmp f.hd f.ha f.hb f.hl f.sc f.xs cc)
    | none => .error 1
  | 0x33 => let f := AE.unpack w; match RedKind.ofBits f.fn with
    | some op => aeWord f true false (.vred f.hd f.ha f.hl f.sc f.xs op)
    | none => .error 1
  | 0x34 => let f := AE.unpack w; match ShiftKind.ofBits f.fn with
    | some k => aeWord f true true (.vshift f.hd f.ha f.hb f.hl f.sc f.xs k)
    | none => .error 1
  | 0x38 => decodeM38 (AE.unpack w)
  | 0x3C => decodeC3C (AE.unpack w)
  | 0x3E => decodeH3E (AR.unpack w)
  | _ => .error 0

-- ==== bundles (R37-R39) ====

/-- What a bundle writes, for the conflict check of R25. -/
inductive Dest
  | s (n : Reg)
  | h (n : HReg)
  | p (n : PReg)
  | allP
  /-- any predicate, p0 among them (the table of R343) -/
  | anyP
deriving DecidableEq, Repr

/-- A scalar destination. A write of s0 is discarded (R11), so two words that name s0 are taken not to conflict (R25, log 137). -/
def dS (d : Reg) : List Dest := if d = 0 then [] else [.s d]

/-- A predicate destination. -/
def dP (d : PReg) : List Dest := [.p d]

/-- The registers an instruction writes, by field (R25, R98, R232, R343). -/
def Instr.dests : Instr → List Dest
  | .lit d _ _ | .lith d _ _ | .mfs d _ _ => dS d
  | .mts ix _ _ _ => if ix = 1 then [.allP] else []
  | .ld d _ _ _ _ _ | .ldl d _ _ _ _ _ | .ldS d _ _ _ _ _ | .ldAcq d _ _ _ _ _ => dS d
  | .cas d _ _ _ _ _ _ _ | .amoAdd d _ _ _ _ _ _ _ | .amoSwap d _ _ _ _ _ _ _ | .amoAnd d _ _ _ _ _ _ _
  | .amoOr d _ _ _ _ _ _ _ | .amoXor d _ _ _ _ _ _ _ | .amoMin d _ _ _ _ _ _ _ | .amoMax d _ _ _ _ _ _ _ => dS d
  | .tdep d _ _ _ _ _ _ | .trd d _ _ _ _ _ _ | .ttake d _ _ _ _ _ _ | .tcancel d _ _ _ => dS d
  | .mint d b _ => dS d ++ dS b
  | .mintC d _ _ _ | .land d _ _ _ _ _ _ | .unmint d _ _ _ | .ldM d _ _ _ _ _ | .meltq d _ _ _ => dS d
  | .spawn d _ _ _ _ _ _ | .barq d _ _ _ _ | .ffence d _ _ _ _ _ _ | .xpost d _ _ _ _ _ | .xflush d _ _ _
  | .xwait d _ _ _ _ _ | .pealLoad d _ _ _ | .pealRun d _ _ _ _ _ | .pealWait d _ _ _ | .calve d _ _ _
  | .tlbprobe d _ _ _ | .ctxsave d _ _ _ | .ctxload d _ _ _ => dS d
  | .uiret _ => [.s 1, .s 2, .s 3, .anyP]
  | .add d _ _ _ _ _ | .sub d _ _ _ _ _ | .mul d _ _ _ _ _ | .mulh d _ _ _ _ _ | .div d _ _ _ _ _ | .divu d _ _ _ _ _
  | .rem d _ _ _ _ _ | .remu d _ _ _ _ _ | .and d _ _ _ _ _ | .or d _ _ _ _ _ | .xor d _ _ _ _ _ | .andn d _ _ _ _ _
  | .shl d _ _ _ _ _ | .shr d _ _ _ _ _ | .sar d _ _ _ _ _ | .rot d _ _ _ _ _ | .min d _ _ _ _ _ | .max d _ _ _ _ _
  | .minu d _ _ _ _ _ | .maxu d _ _ _ _ _ | .sel d _ _ _ _ _ => dS d
  | .clz d _ _ _ | .popc d _ _ _ | .mov d _ _ _ | .addi d _ _ _ | .andi d _ _ _ | .ori d _ _ _ | .shli d _ _ _ => dS d
  | .cmp d _ _ _ _ _ _ | .fcmp d _ _ _ _ _ _ => dP d
  | .pand d _ _ _ | .por d _ _ _ | .pnot d _ _ => dP d
  | .fadd d _ _ _ _ _ | .fsub d _ _ _ _ _ | .fmul d _ _ _ _ _ | .fdiv d _ _ _ _ _ | .fmin d _ _ _ _ _
  | .fmax d _ _ _ _ _ | .fsgn d _ _ _ _ _ | .ffma d _ _ _ _ _ => dS d
  | .fsqrt d _ _ _ | .fclass d _ _ _ | .fcvt d _ _ _ _ | .icvt d _ _ _ _ => dS d
  | .hset d _ _ _ _ => if d = 0 then [] else [.h d]
  | .hget d _ _ _ _ | .engstat d _ _ _ _ _ => dS d
  | _ => []

/-- Do two destinations name the same register (R25), or the second a predicate beside an UIRET (R343)? A write of p0 is ignored (R19), so two
words that name p0 are taken not to conflict otherwise (log 137). -/
def Dest.clash : Dest → Dest → Bool
  | .s a, .s b => a == b
  | .h a, .h b => a == b
  | .p a, .p b => a == b && a != 0
  | .allP, .p n | .p n, .allP => n != 0
  | .allP, .allP | .anyP, .p _ | .p _, .anyP | .anyP, .allP | .allP, .anyP | .anyP, .anyP => true
  | _, _ => false

/-- The bundle's two instructions write one register (R25: reason 6). -/
def conflict (c a : Instr) : Bool := c.dests.any fun x => a.dests.any fun y => x.clash y

/-- The special-register indexes that R27 lists. -/
def listedIndex (ix : BitVec 5) : Bool := ix.toNat ≤ 24

/-- Reasons 7 and 8 of R45, which both concern the C-word: RET at frame depth 0, and an unlisted index. -/
def lateReason (depth : Nat) : Instr → Option Nat
  | .ret _ => if depth = 0 then some 7 else none
  | .mfs _ ix _ => if listedIndex ix then none else some 8
  | .mts ix _ _ _ => if listedIndex ix then none else some 8
  | _ => none

/-- A decoded bundle (R37): its C-instruction, and its A-instruction unless it is lone. -/
structure Bundle where
  c : Instr
  a : Option Instr
deriving DecidableEq, Repr

/-- A malformed bundle: the class 0 detail, W x 16 + reason, and the offending word (R45). -/
structure Malformed where
  detail : BitVec 5
  word   : BitVec 32
deriving DecidableEq, Repr

def malformed (w : Nat) (reason : Nat) (bits : BitVec 32) : Malformed :=
  { detail := BitVec.ofNat 5 (w * 16 + reason), word := bits }

/-- The feature, as a bit of DRVFEAT, without which a C-word's opcode is unassigned (R45, R425, R427). -/
def featureBit (w0 : BitVec 32) : Option Nat :=
  match (w0.extractLsb' 24 7).toNat with
  | 0x60 => some 3
  | 0x61 | 0x62 | 0x63 => some 4
  | 0x64 | 0x65 | 0x66 => some 5
  | 0x67 => some 6
  | 0x77 => some 7
  | _ => none

/-- The checks of R39 up to the destinations, in its order; a C-word's fault is reported before an A-word's, and of one
word's reasons the lowest (R45). `depth` is the strand's frame depth (reason 7). -/
def decodeBundle (depth : Nat) (w0 w1 : BitVec 32) : Except Malformed Bundle :=
  match decodeC w0 w1 with
  | .error r => .error (malformed 0 r w0)
  | .ok c =>
    if loneBit w0 then match lateReason depth c with
      | some r => .error (malformed 0 r w0)
      | none => .ok { c := c, a := none }
    else match decodeA w1 with
      | .error r => match lateReason depth c with
        | some q => .error (malformed 0 q w0)
        | none => .error (malformed 1 r w1)
      | .ok a =>
        if conflict c a then .error (malformed 0 6 w0)
        else match lateReason depth c with
          | some r => .error (malformed 0 r w0)
          | none => .ok { c := c, a := some a }

/-- Four bytes, the lowest address first, as a word (R6). -/
def word32 (b0 b1 b2 b3 : Byte) : BitVec 32 := b3 ++ b2 ++ b1 ++ b0

/-- The two words of a bundle from its eight bytes (R37). -/
def bundleWords : List Byte → Option (BitVec 32 × BitVec 32)
  | [b0, b1, b2, b3, b4, b5, b6, b7] => some (word32 b0 b1 b2 b3, word32 b4 b5 b6 b7)
  | _ => none

/-- A bundle from its bytes; the first rejection is that there are not eight of them. -/
def decode (depth : Nat) (bytes : List Byte) : Except Malformed Bundle :=
  match bundleWords bytes with
  | some (w0, w1) => decodeBundle depth w0 w1
  | none => .error (malformed 0 0 0)

-- ==== the encoder ====

/-- The word of an instruction: a C-word with L = 0 and, where it takes one, its literal; or an A-word. -/
inductive Code
  | c (w : BitVec 32)
  | cl (w lit : BitVec 32)
  | a (w : BitVec 32)
deriving DecidableEq, Repr

/-- The word of an instruction of R46 or R48, from the tables that `decodeC` and `decodeA` read; a step of the device
that is no instruction has none. -/
def encode : Instr → Option Code
  | .cnop => some (.c (CR.pack false 0x0 ⟨0, 0, 0, false, false, 0, 0⟩))
  | .br p n o => some (.c (CB.pack false 0x1 ⟨p, n, o⟩))
  | .jmp p n o => some (.c (CB.pack false 0x2 ⟨p, n, o⟩))
  | .call p n o => some (.c (CB.pack false 0x3 ⟨p, n, o⟩))
  | .jmpr a x g => some (.c (CR.pack false 0x4 ⟨0, a, 0, x, false, g, 0⟩))
  | .callr a x g => some (.c (CR.pack false 0x5 ⟨0, a, 0, x, false, g, 0⟩))
  | .ret g => some (.c (CR.pack false 0x6 ⟨0, 0, 0, false, false, g, 0⟩))
  | .lit d g v => some (.cl (CR.pack true 0x7 ⟨d, 0, 0, false, false, g, 0⟩) v)
  | .lith d g v => some (.cl (CR.pack true 0x8 ⟨d, 0, 0, false, false, g, 0⟩) v)
  | .mfs d i g => some (.c (CR.pack false 0x9 ⟨d, 0, i, false, false, g, 0⟩))
  | .mts i a x g => some (.c (CR.pack false 0xa ⟨i, a, 0, x, false, g, 0⟩))
  | .ld d a o x e s => some (.c (CM.pack false 0x10 ⟨d, a, false, o, x, bit false ++ bit e ++ s.bits⟩))
  | .ldl d a o x e s => some (.c (CM.pack false 0x12 ⟨d, a, false, o, x, bit false ++ bit e ++ s.bits⟩))
  | .st d a z o x s => some (.c (CM.pack false 0x11 ⟨d, a, z, o, x, 0#2 ++ s.bits⟩))
  | .stl d a z o x s => some (.c (CM.pack false 0x13 ⟨d, a, z, o, x, 0#2 ++ s.bits⟩))
  | .ldS d a o x s c => some (.c (CM.pack false 0x30 ⟨d, a, false, o, x, bit s.bit ++ c.bits⟩))
  | .ldAcq d a o x s c => some (.c (CM.pack false 0x32 ⟨d, a, false, o, x, bit s.bit ++ c.bits⟩))
  | .stS d a z o x s c => some (.c (CM.pack false 0x31 ⟨d, a, z, o, x, bit s.bit ++ c.bits⟩))
  | .stRel d a z o x s c => some (.c (CM.pack false 0x33 ⟨d, a, z, o, x, bit s.bit ++ c.bits⟩))
  | .fence g c => some (.c (CR.pack false 0x34 ⟨0, 0, 0, false, false, g, bit false ++ c.bits⟩))
  | .ifence g => some (.c (CR.pack false 0x34 ⟨0, 0, 0, false, false, g, 8⟩))
  | .cflush a x g c => some (.c (CR.pack false 0x35 ⟨0, a, 0, x, false, g, bit false ++ c.bits⟩))
  | .cinv a x g c => some (.c (CR.pack false 0x35 ⟨0, a, 0, x, false, g, bit true ++ c.bits⟩))
  | .red o a b x y g s c => some (.c (CR.pack false 0x36 ⟨o.bits, a, b, x, y, g, bit s.bit ++ c.bits⟩))
  | .cas d a b x y g s c => some (.c (CR.pack false 0x37 ⟨d, a, b, x, y, g, bit s.bit ++ c.bits⟩))
  | .amoAdd d a b x y g s c => some (.c (CR.pack false 0x38 ⟨d, a, b, x, y, g, bit s.bit ++ c.bits⟩))
  | .amoSwap d a b x y g s c => some (.c (CR.pack false 0x39 ⟨d, a, b, x, y, g, bit s.bit ++ c.bits⟩))
  | .amoAnd d a b x y g s c => some (.c (CR.pack false 0x3a ⟨d, a, b, x, y, g, bit s.bit ++ c.bits⟩))
  | .amoOr d a b x y g s c => some (.c (CR.pack false 0x3b ⟨d, a, b, x, y, g, bit s.bit ++ c.bits⟩))
  | .amoXor d a b x y g s c => some (.c (CR.pack false 0x3c ⟨d, a, b, x, y, g, bit s.bit ++ c.bits⟩))
  | .amoMin d a b x y g s c => some (.c (CR.pack false 0x3d ⟨d, a, b, x, y, g, bit s.bit ++ c.bits⟩))
  | .amoMax d a b x y g s c => some (.c (CR.pack false 0x3e ⟨d, a, b, x, y, g, bit s.bit ++ c.bits⟩))
  | .tdep d h b x y g m => some (.c (CR.pack false 0x40 ⟨d, up h, b, x, y, g, 0#2 ++ m.bits⟩))
  | .trd d h b x y g m => some (.c (CR.pack false 0x41 ⟨d, up h, b, x, y, g, 0#2 ++ m.bits⟩))
  | .ttake d h b x y g m => some (.c (CR.pack false 0x42 ⟨d, up h, b, x, y, g, 0#2 ++ m.bits⟩))
  | .tcancel d h x g => some (.c (CR.pack false 0x43 ⟨d, up h, 0, x, false, g, 0⟩))
  | .mint d b g => some (.c (CR.pack false 0x44 ⟨d, 0, b, false, false, g, 0⟩))
  | .mintC d a x g => some (.c (CR.pack false 0x45 ⟨d, a, 0, x, false, g, 0⟩))
  | .land d a b x y g c => some (.c (CR.pack false 0x46 ⟨d, a, b, x, y, g, bit false ++ c.bits⟩))
  | .unmint d a x g => some (.c (CR.pack false 0x47 ⟨d, a, 0, x, false, g, 0⟩))
  | .fillm a b x y g v => some (.cl (CR.pack true 0x48 ⟨0, a, b, x, y, g, 0⟩) v)
  | .ldM d a b x y g => some (.c (CR.pack false 0x49 ⟨d, a, b, x, y, g, 0⟩))
  | .meltq d a x g => some (.c (CR.pack false 0x4a ⟨d, a, 0, x, false, g, 0⟩))
  | .spawn d a b x y g n => some (.c (CR.pack false 0x50 ⟨d, a, b, x, y, g, n⟩))
  | .exit g => some (.c (CR.pack false 0x51 ⟨0, 0, 0, false, false, g, 0⟩))
  | .yield g => some (.c (CR.pack false 0x52 ⟨0, 0, 0, false, false, g, 0⟩))
  | .suspend a x g => some (.c (CR.pack false 0x53 ⟨0, a, 0, x, false, g, 0⟩))
  | .barset a b x y g c => some (.c (CR.pack false 0x54 ⟨0, a, b, x, y, g, bit false ++ c.bits⟩))
  | .bar a x g c => some (.c (CR.pack false 0x55 ⟨0, a, 0, x, false, g, bit false ++ c.bits⟩))
  | .barq d a x g c => some (.c (CR.pack false 0x56 ⟨d, a, 0, x, false, g, bit false ++ c.bits⟩))
  | .setpri a x g => some (.c (CR.pack false 0x57 ⟨0, a, 0, x, false, g, 0⟩))
  | .ffence d a b x y g c => some (.c (CR.pack false 0x60 ⟨d, a, b, x, y, g, bit false ++ c.bits⟩))
  | .xpost d a b x y g => some (.c (CR.pack false 0x61 ⟨d, a, b, x, y, g, 0⟩))
  | .xflush d a x g => some (.c (CR.pack false 0x62 ⟨d, a, 0, x, false, g, 0⟩))
  | .xwait d a b x y g => some (.c (CR.pack false 0x63 ⟨d, a, b, x, y, g, 0⟩))
  | .pealLoad d a x g => some (.c (CR.pack false 0x64 ⟨d, a, 0, x, false, g, 0⟩))
  | .pealRun d a b x y g => some (.c (CR.pack false 0x65 ⟨d, a, b, x, y, g, 0⟩))
  | .pealWait d a x g => some (.c (CR.pack false 0x66 ⟨d, a, 0, x, false, g, 0⟩))
  | .calve d a x g => some (.c (CR.pack false 0x67 ⟨d, a, 0, x, false, g, 0⟩))
  | .trap n g => some (.c (CR.pack false 0x70 ⟨0, 0, n, false, false, g, 0⟩))
  | .rett g => some (.c (CR.pack false 0x71 ⟨0, 0, 0, false, false, g, 0⟩))
  | .uiret g => some (.c (CR.pack false 0x72 ⟨0, 0, 0, false, false, g, 0⟩))
  | .tlbinv a b x y g k => some (.c (CR.pack false 0x73 ⟨0, a, b, x, y, g, 0#2 ++ k.bits⟩))
  | .tlbprobe d a x g => some (.c (CR.pack false 0x74 ⟨d, a, 0, x, false, g, 0⟩))
  | .ctxsave d a x g => some (.c (CR.pack false 0x75 ⟨d, a, 0, x, false, g, 0⟩))
  | .ctxload d a x g => some (.c (CR.pack false 0x76 ⟨d, a, 0, x, false, g, 0⟩))
  | .foldset a x g => some (.c (CR.pack false 0x77 ⟨0, a, 0, x, false, g, 0⟩))
  | .halt g => some (.c (CR.pack false 0x78 ⟨0, 0, 0, false, false, g, 0⟩))
  | .add d a b x y g => some (.a (AR.pack 0x0 ⟨d, a, b, x, y, g, 0x0⟩))
  | .sub d a b x y g => some (.a (AR.pack 0x0 ⟨d, a, b, x, y, g, 0x1⟩))
  | .mul d a b x y g => some (.a (AR.pack 0x0 ⟨d, a, b, x, y, g, 0x2⟩))
  | .mulh d a b x y g => some (.a (AR.pack 0x0 ⟨d, a, b, x, y, g, 0x3⟩))
  | .div d a b x y g => some (.a (AR.pack 0x0 ⟨d, a, b, x, y, g, 0x4⟩))
  | .divu d a b x y g => some (.a (AR.pack 0x0 ⟨d, a, b, x, y, g, 0x5⟩))
  | .rem d a b x y g => some (.a (AR.pack 0x0 ⟨d, a, b, x, y, g, 0x6⟩))
  | .remu d a b x y g => some (.a (AR.pack 0x0 ⟨d, a, b, x, y, g, 0x7⟩))
  | .and d a b x y g => some (.a (AR.pack 0x0 ⟨d, a, b, x, y, g, 0x8⟩))
  | .or d a b x y g => some (.a (AR.pack 0x0 ⟨d, a, b, x, y, g, 0x9⟩))
  | .xor d a b x y g => some (.a (AR.pack 0x0 ⟨d, a, b, x, y, g, 0xa⟩))
  | .andn d a b x y g => some (.a (AR.pack 0x0 ⟨d, a, b, x, y, g, 0xb⟩))
  | .shl d a b x y g => some (.a (AR.pack 0x0 ⟨d, a, b, x, y, g, 0xc⟩))
  | .shr d a b x y g => some (.a (AR.pack 0x0 ⟨d, a, b, x, y, g, 0xd⟩))
  | .sar d a b x y g => some (.a (AR.pack 0x0 ⟨d, a, b, x, y, g, 0xe⟩))
  | .rot d a b x y g => some (.a (AR.pack 0x0 ⟨d, a, b, x, y, g, 0xf⟩))
  | .min d a b x y g => some (.a (AR.pack 0x0 ⟨d, a, b, x, y, g, 0x12⟩))
  | .max d a b x y g => some (.a (AR.pack 0x0 ⟨d, a, b, x, y, g, 0x13⟩))
  | .minu d a b x y g => some (.a (AR.pack 0x0 ⟨d, a, b, x, y, g, 0x14⟩))
  | .maxu d a b x y g => some (.a (AR.pack 0x0 ⟨d, a, b, x, y, g, 0x15⟩))
  | .sel d a b x y g => some (.a (AR.pack 0x0 ⟨d, a, b, x, y, g, 0x17⟩))
  | .clz d a x g => some (.a (AR.pack 0x0 ⟨d, a, 0, x, false, g, 0x10⟩))
  | .popc d a x g => some (.a (AR.pack 0x0 ⟨d, a, 0, x, false, g, 0x11⟩))
  | .mov d a x g => some (.a (AR.pack 0x0 ⟨d, a, 0, x, false, g, 0x16⟩))
  | .addi d a x i => some (.a (AI.pack 0x1 ⟨d, a, x, i⟩))
  | .andi d a x i => some (.a (AI.pack 0x2 ⟨d, a, x, i⟩))
  | .ori d a x i => some (.a (AI.pack 0x3 ⟨d, a, x, i⟩))
  | .shli d a x i => some (.a (AI.pack 0x4 ⟨d, a, x, 0#9 ++ i⟩))
  | .cmp d a b x y g cc => some (.a (AR.pack 0x5 ⟨up d, a, b, x, y, g, cc.bits⟩))
  | .pand d a b g => some (.a (AR.pack 0x6 ⟨up d, up a, up b, false, false, g, 0⟩))
  | .por d a b g => some (.a (AR.pack 0x6 ⟨up d, up a, up b, false, false, g, 1⟩))
  | .pnot d a g => some (.a (AR.pack 0x6 ⟨up d, up a, 0, false, false, g, 2⟩))
  | .fadd d a b x y g => some (.a (AR.pack 0x20 ⟨d, a, b, x, y, g, 0⟩))
  | .fsub d a b x y g => some (.a (AR.pack 0x20 ⟨d, a, b, x, y, g, 1⟩))
  | .fmul d a b x y g => some (.a (AR.pack 0x20 ⟨d, a, b, x, y, g, 2⟩))
  | .fdiv d a b x y g => some (.a (AR.pack 0x20 ⟨d, a, b, x, y, g, 3⟩))
  | .fmin d a b x y g => some (.a (AR.pack 0x20 ⟨d, a, b, x, y, g, 5⟩))
  | .fmax d a b x y g => some (.a (AR.pack 0x20 ⟨d, a, b, x, y, g, 6⟩))
  | .fsgn d a b x y g => some (.a (AR.pack 0x20 ⟨d, a, b, x, y, g, 7⟩))
  | .ffma d a b x y g => some (.a (AR.pack 0x20 ⟨d, a, b, x, y, g, 11⟩))
  | .fsqrt d a x g => some (.a (AR.pack 0x20 ⟨d, a, 0, x, false, g, 4⟩))
  | .fclass d a x g => some (.a (AR.pack 0x20 ⟨d, a, 0, x, false, g, 8⟩))
  | .fcvt d a k x g => some (.a (AR.pack 0x20 ⟨d, a, k.bits, x, false, g, 9⟩))
  | .icvt d a k x g => some (.a (AR.pack 0x20 ⟨d, a, k.bits, x, false, g, 10⟩))
  | .fcmp d a b x y g cc => some (.a (AR.pack 0x21 ⟨up d, a, b, x, y, g, BitVec.ofNat 6 cc.code⟩))
  | .vadd d a b l c x => some (.a (AE.pack 0x30 ⟨d, a, b, l, c, x, 0⟩))
  | .vsub d a b l c x => some (.a (AE.pack 0x30 ⟨d, a, b, l, c, x, 1⟩))
  | .vmul d a b l c x => some (.a (AE.pack 0x30 ⟨d, a, b, l, c, x, 2⟩))
  | .vfma d a b l c x => some (.a (AE.pack 0x30 ⟨d, a, b, l, c, x, 3⟩))
  | .vmax d a b l c x => some (.a (AE.pack 0x30 ⟨d, a, b, l, c, x, 4⟩))
  | .vmin d a b l c x => some (.a (AE.pack 0x30 ⟨d, a, b, l, c, x, 5⟩))
  | .vabs d a l c x => some (.a (AE.pack 0x30 ⟨d, a, 0, l, c, x, 6⟩))
  | .vneg d a l c x => some (.a (AE.pack 0x30 ⟨d, a, 0, l, c, x, 7⟩))
  | .vexp2 d a l c x => some (.a (AE.pack 0x30 ⟨d, a, 0, l, c, x, 8⟩))
  | .vlog2 d a l c x => some (.a (AE.pack 0x30 ⟨d, a, 0, l, c, x, 9⟩))
  | .vrcp d a l c x => some (.a (AE.pack 0x30 ⟨d, a, 0, l, c, x, 10⟩))
  | .vrsq d a l c x => some (.a (AE.pack 0x30 ⟨d, a, 0, l, c, x, 11⟩))
  | .vcvt d a l c x => some (.a (AE.pack 0x30 ⟨d, a, 0, l, c, x, 12⟩))
  | .vscale d a b l c x => some (.a (AE.pack 0x30 ⟨d, a, b, l, c, x, 13⟩))
  | .vsel d a b l c x => some (.a (AE.pack 0x31 ⟨d, a, b, l, c, x, 0⟩))
  | .vand d a b l c x => some (.a (AE.pack 0x31 ⟨d, a, b, l, c, x, 1⟩))
  | .vor d a b l c x => some (.a (AE.pack 0x31 ⟨d, a, b, l, c, x, 2⟩))
  | .vxor d a b l c x => some (.a (AE.pack 0x31 ⟨d, a, b, l, c, x, 3⟩))
  | .vfill d a l c x => some (.a (AE.pack 0x31 ⟨d, a, 0, l, c, x, 4⟩))
  | .vcopy d a l c x => some (.a (AE.pack 0x31 ⟨d, a, 0, l, c, x, 5⟩))
  | .vtrans d a l c x => some (.a (AE.pack 0x31 ⟨d, a, 0, l, c, x, 6⟩))
  | .vgather d a b l c x => some (.a (AE.pack 0x31 ⟨d, a, b, l, c, x, 7⟩))
  | .vscatter d a b l c x => some (.a (AE.pack 0x31 ⟨d, a, b, l, c, x, 8⟩))
  | .vcmp d a b l c x cc => some (.a (AE.pack 0x32 ⟨d, a, b, l, c, x, BitVec.ofNat 4 cc.code⟩))
  | .vred d a l c x o => some (.a (AE.pack 0x33 ⟨d, a, 0, l, c, x, o.bits⟩))
  | .vshift d a b l c x k => some (.a (AE.pack 0x34 ⟨d, a, b, l, c, x, k.bits⟩))
  | .mma d a b l c x => some (.a (AE.pack 0x38 ⟨d, a, b, l, c, x, 0⟩))
  | .mmas d a b l c x => some (.a (AE.pack 0x38 ⟨d, a, b, l, c, x, 1⟩))
  | .mzero d l c x => some (.a (AE.pack 0x38 ⟨d, 0, 0, l, c, x, 2⟩))
  | .mdrain d a l c x => some (.a (AE.pack 0x38 ⟨d, a, 0, l, c, x, 3⟩))
  | .maccld d a l c x => some (.a (AE.pack 0x38 ⟨d, a, 0, l, c, x, 4⟩))
  | .cpy d a l c x => some (.a (AE.pack 0x3c ⟨d, a, 0, l, c, x, 0⟩))
  | .cpyg d a b l c x => some (.a (AE.pack 0x3c ⟨d, a, b, l, c, x, 1⟩))
  | .cpys d a b l c x => some (.a (AE.pack 0x3c ⟨d, a, b, l, c, x, 2⟩))
  | .cpyr d a l c x => some (.a (AE.pack 0x3c ⟨d, a, 0, l, c, x, 3⟩))
  | .hset d a q x g => some (.a (AR.pack 0x3e ⟨up d, a, up q, x, false, g, 0⟩))
  | .hget d a q x g => some (.a (AR.pack 0x3e ⟨d, up a, up q, x, false, g, 1⟩))
  | .rset r a x g => some (.a (AR.pack 0x3e ⟨up r, a, 0, x, false, g, 2⟩))
  | .rpush r g => some (.a (AR.pack 0x3e ⟨up r, 0, 0, false, false, g, 3⟩))
  | .lease n g => some (.a (AR.pack 0x3e ⟨0, 0, n, false, false, g, 4⟩))
  | .unlease g => some (.a (AR.pack 0x3e ⟨0, 0, 0, false, false, g, 5⟩))
  | .engstat d a b x y g => some (.a (AR.pack 0x3e ⟨d, a, b, x, y, g, 6⟩))
  | .resume a b x y g => some (.a (AR.pack 0x3e ⟨0, a, b, x, y, g, 7⟩))
  | _ => none

/-- Bit 31 of a C-word set: the lone bundle's word 0 (R37). -/
def asLone (w : BitVec 32) : BitVec 32 := w ||| 0x80000000

/-- The two words of the bundle in which an instruction stands alone: a C-instruction in a lone bundle, an
A-instruction beside CNOP (R50). -/
def encodeAlone (i : Instr) : Option (BitVec 32 × BitVec 32) :=
  match encode i with
  | some (.c w) => some (asLone w, 0)
  | some (.cl w v) => some (w, v)
  | some (.a w) => some (0, w)
  | none => none

/-- The instruction that stands alone in a bundle. -/
def Bundle.alone (b : Bundle) : Option Instr :=
  match b.a with
  | none => some b.c
  | some a => if b.c = .cnop then some a else none

/-- Decoding of the words of `encodeAlone`, without the checks that need the strand's depth. -/
def decodeAlone (w0 w1 : BitVec 32) : Option Instr :=
  if loneBit w0 then match decodeC w0 w1 with
    | .ok i => some i
    | .error _ => none
  else if w0 = 0 then match decodeA w1 with
    | .ok i => some i
    | .error _ => none
  else none

/-- The eight bytes of two words, the lowest address first (R6, R37). -/
def bundleBytes (w0 w1 : BitVec 32) : List Byte :=
  [w0.extractLsb' 0 8, w0.extractLsb' 8 8, w0.extractLsb' 16 8, w0.extractLsb' 24 8,
   w1.extractLsb' 0 8, w1.extractLsb' 8 8, w1.extractLsb' 16 8, w1.extractLsb' 24 8]

/-- The two words in which a row of spec/opcode_table.json travels. The table gives C-words and A-words alike as 32 bits
numbered from 0. A word with bit 31 clear is taken as word 0 of a bundle that is not lone where the C-word map accepts
it; one with bit 31 set is taken as an A-word where the A-word map accepts it; otherwise the other map is tried (log 9). -/
def tableWords (w : Nat) : BitVec 32 × BitVec 32 :=
  let x := BitVec.ofNat 32 w
  let asC := (x, BitVec.ofNat 32 (w / 2 ^ 32))
  let asA := ((0 : BitVec 32), x)
  if loneBit x then match decodeA x with
    | .ok _ => asA
    | .error _ => asC
  else match decodeC x 0 with
    | .ok _ => asC
    | .error _ => asA

/-- The instruction that the decoder reads from an instruction whose bits are `w`, numbered as the table numbers them. -/
def decodeTableWord (_nbits w : Nat) : Option Instr :=
  let p := tableWords w
  match decodeBundle 1 p.1 p.2 with
  | .ok b => if p.1 = 0 && p.2 != 0 then b.a else some b.c
  | .error _ => none

end Sys2Proof
end

