-- ==== Sys2Proof/Machine/State.lean ====
section
/-! DEFINITION. The state of one MX7 device, as plain data: every strand slot, core, cluster, quad, slice, context and
partition, the memory, and what is on its way between them. `State.reset` is the device at the end of boot (R423). -/

namespace Sys2Proof.Machine

/-- The reasons a machine of this spec stops. The spec gives every instruction and every other step an effect on every
state (a trap where something is wrong), so there is none. -/
inductive Fault
deriving DecidableEq, Repr

/-- The reasons a step is refused. -/
inductive Refusal
  /-- An instruction that has no meaning yet; raised by its arm in Dispatch.lean alone. Safe: nothing is claimed of it. -/
  | notModelled (mnemonic : String)
deriving DecidableEq, Repr

/-- A sparse table: pairs of key and value, keys rising. A key that is absent reads as the reader's default. -/
abbrev Tab (α : Type) := List (Nat × α)

/-- Memory: cells with rising addresses, none of them zero; an address that is not listed reads as zero (log 1).
The addresses are keys: HBM of partition p at p x 2^49 + its local physical address; the pool of core c at
2^60 + c x 2^20 + offset; host memory behind port k at 2^65 + k x 2^64 + host physical address. -/
abbrev Memory := List Host.Cell

-- ==== one strand slot (R10) ====

/-- The states of a register (R21). -/
inductive Mark | idle | full | pending | named
deriving DecidableEq, Repr

/-- A scalar register with its full/empty mark (R21) and its poison mark (R318). -/
structure RegCell where
  val    : Word
  mark   : Mark
  poison : Bool
deriving DecidableEq, Repr

/-- A handle register with its mark. -/
structure HCell where
  val  : HandleImage
  mark : Mark
deriving DecidableEq, Repr

/-- One bank of trap registers (R302). -/
structure Bank where
  tpc    : Word
  tcause : Word
  tval   : Word
  tscr   : Word
deriving DecidableEq, Repr

/-- What a long producer is, for the rules that name a kind (R112, R144, R221, R133); `await` is an XWAIT or a PEAL.WAIT (R409). -/
inductive OutKind | arith | load | atomic | tuple | land | msgin | spawn | await | other
deriving DecidableEq, Repr

/-- A long producer that is outstanding: its tag, the register it fills (0 none; 1-7 global; 8 + 16 x frame + n - 8 for
s(n) of the window of that frame, R16), its kind, and the number of the strand's accesses before it. -/
structure Outst where
  tag  : Nat
  reg  : Nat
  kind : OutKind
  seq  : Nat
deriving DecidableEq, Repr

/-- Where a slot stands between the choice of a record and the first bundle (R109, R36). -/
inductive Phase | free | chosen | clearing | live | leaving
deriving DecidableEq, Repr

/-- A TLB entry (R323): the leaf, tagged with its ASID, or global. -/
structure TlbEntry where
  part : Nat
  asid : Nat
  page : Nat
  bits : Nat
  leaf : Word
deriving DecidableEq, Repr

/-- What keeps a live strand from issuing beyond its bundle's own needs (R113). -/
inductive Wait
  | none
  /-- at a barrier, by its key (R138) -/
  | barrier (key : Nat)
  /-- for the answer to an MTS of MSGOUT (R124); `xa` is the X-bit, `flit` what is resent -/
  | send (xa : Bool) (flit : MsgFlit)
  /-- the message was accepted, or the melt request served with this status: the bundle now completes -/
  | served (v : Word)
  /-- the message or the melt request was refused: the bundle now traps (R24, R196) -/
  | refused
  /-- until the accesses that were translated through dropped entries before a tag have been performed (R347) -/
  | drain (tag : Nat) (gone : List TlbEntry)
  /-- until the home serves an LD.M (R197) -/
  | melt (tag : Nat)
  /-- until a unit of the device has done what the strand asked of it (R289, R352) -/
  | unit
deriving DecidableEq, Repr

/-- The fetch block of a slot: its virtual address, its bytes, or the fault that fetching it met (R86, R90). -/
structure FetchBlock where
  va    : Word
  bytes : List Byte
  fault : Option (Nat × Nat × Word)
deriving DecidableEq, Repr

/-- The shadow copies of a user completion-interrupt handler (R247). -/
structure Shadow where
  s1 : RegCell
  s2 : RegCell
  s3 : RegCell
  pw : BitVec 8
deriving DecidableEq, Repr

/-- The part of a slot that identifies the strand and its place: partition, CTX, strand number, the PLACE of its record
(R134), its context's ASID (R313) and SEG (R339). `uid` is partition, CTX and strand number in one key. -/
structure StrandId where
  part   : Nat
  ctx    : Nat
  strand : BitVec 32
  place  : BitVec 16
  uid    : Nat
  asid   : Nat
  seg    : Word
deriving DecidableEq, Repr

/-- STATUS by its fields (R32). -/
structure Status where
  ui       : Bool
  startclr : Bool
  priv     : Priv
  tl       : Nat
deriving DecidableEq, Repr

/-- User completion interrupts (R247, R354). -/
structure UserInt where
  uhvec   : Word
  uhpc    : Word
  shadow  : Shadow
  pending : List (Word × Word)
  dropped : Bool
deriving DecidableEq, Repr

/-- How the slot's next bundle comes to issue. -/
structure Front where
  fetch    : Option FetchBlock
  readyAt  : Nat
  halted   : Bool
  stopping : Bool
  /-- a spill or fill of this slot is under way (R14) -/
  moving   : Bool
  wait     : Wait
  /-- the waits that handlers have set aside: 0 a user completion interrupt's (R247), 1 and 2 those of the trap levels (R389) -/
  held     : Tab Wait
  /-- the address whose walk this slot has waited for (R93), and the reason by which that walk has failed (R323) -/
  walked   : Option Word
  walkFault : Option Nat
  /-- pieces of a structure that the bundle reads whole at issue and that another device, or a FILLING granule, has given: device, local physical
  address, bytes (R409) -/
  got      : List (Nat × Nat × List Byte)
  /-- one more than the cycle of the last wake event (R353); 0: none -/
  woken    : Nat
deriving DecidableEq, Repr

/-- Long producers and the program order of accesses. -/
structure Pending where
  out       : List Outst
  seq       : Nat
  lastStore : Nat
deriving DecidableEq, Repr

/-- A strand slot (R10, R27). -/
structure Slot where
  phase    : Phase
  id       : StrandId
  incoming : Option QEntry
  regs     : Vector RegCell 80
  handles  : Vector HCell 16
  rets     : Vector Word 4
  depth    : Nat
  oldest   : Nat
  pc       : Word
  pw       : BitVec 8
  fmt      : BitVec 4
  status   : Status
  pri      : BitVec 4
  msgdst   : Word
  msgsrc   : Word
  tvec     : Word
  bank1    : Bank
  bank2    : Bank
  uint     : UserInt
  front    : Front
  pend     : Pending
deriving DecidableEq, Repr

def RegCell.idle : RegCell := { val := 0, mark := .idle, poison := false }

def Bank.zero : Bank := { tpc := 0, tcause := 0, tval := 0, tscr := 0 }

/-- A slot without a strand: every register zero and IDLE (log 2). -/
def Slot.empty : Slot :=
  { phase := .free
    id := { part := 0, ctx := 0, strand := 0, place := 0, uid := 0, asid := 0, seg := 0 }
    incoming := none
    regs := Vector.replicate 80 RegCell.idle
    handles := Vector.replicate 16 { val := 0, mark := .idle }
    rets := Vector.replicate 4 0
    depth := 0
    oldest := 0
    pc := 0
    pw := 1
    fmt := 0
    status := { ui := false, startclr := false, priv := .u, tl := 0 }
    pri := 0
    msgdst := 0
    msgsrc := 0
    tvec := 0
    bank1 := Bank.zero
    bank2 := Bank.zero
    uint := { uhvec := 0, uhpc := 0, shadow := { s1 := RegCell.idle, s2 := RegCell.idle, s3 := RegCell.idle, pw := 0 },
              pending := [], dropped := false }
    front := { fetch := none, readyAt := 0, halted := false, stopping := false, moving := false, wait := .none,
               held := [], walked := none, walkFault := none, got := [], woken := 0 }
    pend := { out := [], seq := 0, lastStore := 0 } }


-- ==== one core ====

/-- Where a physical address leads (R146). -/
inductive Target
  | hbm (lpa : Nat)
  | host (port addr : Nat)
  | control (lpa : Nat)
  | remote (dev lpa : Nat)
deriving DecidableEq, Repr

/-- A store in the store buffer (R155): number, strand, slot, place in the strand's order, partition, the virtual and physical
address, where it leads, bytes, whether it is strong and at which scope, and whether its page has TYPE 01 (R321). -/
structure SbEntry where
  id     : Nat
  uid    : Nat
  slot   : Nat
  seq    : Nat
  part   : Nat
  priv   : Priv
  va     : Word
  pa     : Word
  target : Target
  bytes  : List Byte
  strong : Bool
  device : Bool
  scope  : Scope
deriving DecidableEq, Repr

/-- A line of 64 bytes held in an L1D or as a replica, by its line number in the memory's keys (R154, R161). The directories keep a line
of the own die, or of host memory, coherent: it is `own`, and its bytes are those of its home (log 110). A line of another die has its own
`bytes`, of which some are `dirty`; it is `fresh` until a core of its die stores to the line or acquires (log 111). -/
structure Line where
  line  : Nat
  own   : Bool
  fresh : Bool
  bytes : List Byte
  dirty : BitVec 64
deriving DecidableEq, Repr

/-- What orders a core's accesses toward other cores (R203, R209, log 112): the cycle of its last release of each scope below DEVICE, by
the scope's code, and the cycles of the last store that it performed, of the last one that it issued, of the last time that it dropped its
lines of other dies, and of the last time that it wrote them back. -/
structure Sync where
  rels    : Tab Nat
  stored  : Nat
  issued  : Nat
  dropped : Nat
  cleaned : Nat
deriving DecidableEq, Repr

def Sync.zero : Sync := { rels := [], stored := 0, issued := 0, dropped := 0, cleaned := 0 }

/-- States of a minting entry (R195). -/
inductive MintState | free | reg | cont
deriving DecidableEq, Repr

/-- A minting-table entry (R188): for a register its strand and the register by frame (R16); for a continuation the
record's address. `uid` is the minting strand. -/
structure MintEntry where
  state : MintState
  gen   : BitVec 20
  ctx   : Nat
  uid   : Nat
  reg   : Nat
  addr  : Word
deriving DecidableEq, Repr

/-- A waiting MFS of MSGIN (R125); one that is `served` takes its arrival when it delivers (R144). -/
structure MsgWaiter where
  uid    : Nat
  slot   : Nat
  tag    : Nat
  served : Bool
deriving DecidableEq, Repr

/-- An entry of the completion log (R246, R292): the command and its strand, its target, value, LANDRES. -/
structure LogEntry where
  id     : Nat
  uid    : Nat
  target : Word
  value  : Word
  result : Nat
deriving DecidableEq, Repr

/-- The leases of a core (R245, R291): a marker that no command has followed yet, the lease that the next matrix commands
join with the number that may yet join, and for each lease the commands that have not retired. -/
structure Leases where
  marker : Option Nat
  cur    : Option (Nat × Nat)
  left   : Tab Nat
deriving DecidableEq, Repr

/-- A fabric request of a core that is not yet answered (R386): its flit, the strand and tag that wait for it, the address
or name that a failure reports (R389), the kind of R317, when it was last sent, the tag that was next when it was issued, for a tuple request
whether the home has taken it and its answer is still to come (R391), whether it has its SEQ and is on its way (R386), and for a store whether it
is strong (R155) and whether its page has TYPE 01 (R321), the route that it last took (`State.routesTo`), and the cycle of its first send. -/
structure Unacked where
  flit : Flit
  uid  : Nat
  tag  : Nat
  tval : Word
  kind : Nat
  sent : Nat
  since : Nat
  acked : Bool
  out   : Bool
  strong : Bool
  device : Bool
  via    : Nat
  first  : Nat
deriving DecidableEq, Repr

/-- A core's state beyond its slots. `rings` are keyed by 8 x virtual core + ring (R340); `marks` are the row marks of its accumulator tiles by pool offset / 1,024 x 16 + row
(R263). -/
structure Core where
  poolWord : Word
  poolFor  : Option (Nat × Nat)
  clearEnd : Nat
  q        : Nat
  sb       : List SbEntry
  l1d      : List Line
  sync     : Sync
  ibuf     : List (Nat × List Byte)
  tlb      : List TlbEntry
  mint     : Tab MintEntry
  key      : Nat
  recvq    : List MsgFlit
  waiters  : List MsgWaiter
  tupOut   : List (Nat × Nat)
  atomics  : List AtomicReq
  divFree  : Nat
  rings    : Tab (BitVec 256)
  written  : List Nat
  leases   : Leases
  marks    : Tab (Nat × Nat)
  log      : List LogEntry
  seqs     : Tab (BitVec 16)
  epochs   : Tab (BitVec 8)
  unacked  : List Unacked
deriving DecidableEq, Repr

def Core.empty : Core :=
  { poolWord := 0, poolFor := none, clearEnd := 0, q := 0, sb := [], l1d := [], sync := Sync.zero, ibuf := [], tlb := [], mint := [], key := 0,
    recvq := [], waiters := [], tupOut := [], atomics := [], divFree := 0, rings := [], written := [],
    leases := { marker := none, cur := none, left := [] }, marks := [], log := [], seqs := [], epochs := [], unacked := [] }

-- ==== clusters, quads, slices ====

/-- A window of the combining node: its commands, and the cycle in which the first of them was dispatched (R251). -/
structure CombineWindow where
  id     : Nat
  cmds   : List Nat
  opened : Nat
deriving DecidableEq, Repr

/-- A cluster's scheduler, TLB, fold tables and combining node. `emptyFrom` is the cycle from which a context's queue is empty (R110), `fold` is the holder's fold table and `folds` those installed for each
entry (R337, R352); `imaged` are the entries whose context stands in an image, `headed` those whose image header the device has written
since their binding. -/
structure Cluster where
  ctable    : Tab (BitVec 256)
  credit    : Tab Int
  starve    : Tab Nat
  holder    : Option Nat
  sliceEnd  : Nat
  queues    : Tab (List QEntry)
  transit   : Tab Nat
  nextLoad  : Nat
  emptyFrom : Tab Nat
  tlb       : List TlbEntry
  fold      : Tab Word
  folds     : Tab (Tab Word)
  imaged    : List Nat
  headed    : List Nat
  saving    : Option Nat
  windows   : List CombineWindow
  fwd       : List (Nat × Nat × Word)
deriving DecidableEq, Repr

def Cluster.empty : Cluster :=
  { ctable := [], credit := [], starve := [], holder := none, sliceEnd := 0, queues := [], transit := [], nextLoad := 0,
    emptyFrom := [], tlb := [], fold := [], folds := [], imaged := [], headed := [], saving := none, windows := [], fwd := [] }

/-- A quad engine's arbitration (R244, R245); `vFrom` and `mFrom` are the cycles from which the unit and the array grant again after a change
of command and a handover. -/
structure Quad where
  v         : Nat
  vGrant    : Option Nat
  vStart    : Nat
  vFrom     : Nat
  m         : Nat
  mRun      : Option Nat
  lease     : Option (Nat × Nat)
  leaseFrom : Nat
  idleFrom  : Nat
  mFrom     : Nat
deriving DecidableEq, Repr

def Quad.empty : Quad :=
  { v := 0, vGrant := none, vStart := 0, vFrom := 0, m := 0, mRun := none, lease := none, leaseFrom := 0, idleFrom := 0, mFrom := 0 }

/-- A tuple entry (R183): state LIVE or TAKEN, copies in progress, whether its take has been delivered. -/
structure TupleEntry where
  age     : Nat
  part    : Nat
  f0      : BitVec 32
  f1      : BitVec 32
  f2      : BitVec 32
  f3      : BitVec 32
  payload : List Byte
  sid     : Word
  cid     : Word
  taken   : Bool
  copies  : Nat
deriving DecidableEq, Repr

/-- A waiter entry (R184): WAITING, or SERVING while a tuple is delivered to it. -/
structure WaiterEntry where
  age     : Nat
  req     : TupReq
  serving : Bool
deriving DecidableEq, Repr

/-- The tag of a granule in a slice (R157): the granule by its number in the memory's keys, whether it is one of replicas (R161), and its
presence and dirty bitmaps. -/
structure GranTag where
  gran  : Nat
  rep   : Bool
  pres  : BitVec 32
  dirty : BitVec 32
deriving DecidableEq, Repr

/-- A slice: the tags of its granules, the last used first (R157), and its match engine: entries by age; those beyond the array's 8,192
(2,048) stand in the overflow list. -/
structure Slice where
  tags    : List GranTag
  tuples  : List TupleEntry
  waiters : List WaiterEntry
  fulls   : Nat
deriving DecidableEq, Repr

def Slice.empty : Slice := { tags := [], tuples := [], waiters := [], fulls := 0 }

/-- A payload transfer from a home to a delivery area (R183, R184): the request, the tuple by slice and age, and the age of the waiter that
it serves. -/
structure Copy where
  req    : TupReq
  slice  : Nat
  age    : Nat
  waiter : Option Nat
deriving DecidableEq, Repr

/-- A request that a FILLING granule holds (R196): an LD.M with its area, a load with its bytes and, if it is a LD.ACQ, its scope, a fetch of an
engine command, or a request of another device. -/
structure MeltHeld where
  uid  : Nat
  tag  : Nat
  area : Option (BitVec 32)
  key  : Nat
  size : Nat
  sext : Bool
  acq  : Option Scope
  cmd  : Option Nat
  flit : Option Flit
deriving DecidableEq, Repr

/-- A melt granule that is FILLING or LIVE (R196): its key is that of the granule's first byte. `held` are the requests that wait for LIVE,
`src` the pool's key of a FILLM's source area, `uid` the strand that fills it. Of a FILLM, `known` are the cores toward which the fill is ordered
and `rels` the releases that followed it there, by core and scope (R203, R298, log 147). -/
structure Melt where
  key   : Nat
  live  : Bool
  count : Nat
  order : Nat
  part  : Nat
  ctx   : Nat
  uid   : Nat
  src   : Option Nat
  held  : List MeltHeld
  known : Option (List Nat)
  rels  : List (Nat × Scope)
deriving DecidableEq, Repr

/-- A partial result of state U (R213). -/
structure Partial where
  key    : Nat
  size   : Nat
  op     : RedOp
  holder : Nat
  value  : Word
deriving DecidableEq, Repr

-- ==== engine commands (R240, R241) ====

inductive CmdUnit | vector | matrix | copy
deriving DecidableEq, Repr

/-- The states of a command (R241); `finished` has committed every iteration and is not yet delivered, `saved` stands in a
context image. -/
inductive CmdState | waiting | running | suspended | faulted | finished | saved
deriving DecidableEq, Repr

/-- An engine command with what was captured at its dispatch (R240) and how far it has come (R242): `vcore` stands for a
CORE of 31 (R269), `strides` are the 15 words of its stride table (R237), `spent` the granules it has consumed with their
data (R235), `pieces` the pieces of another device that the running iteration has fetched (R390), `lease` its lease (R245);
`held` says that the combining node holds it (R251), `owed` that its part-way trap is not taken (R293), `sent` that its
completion is on its way to another device, `group` names the commands that it shares its fetch with (R251), `counted` that its lease has
counted it (R245), and `popped` that the tiles that it read have left their rings (R249); `walked` is the address whose walk it waits for, and
`walkFault` the reason by which that walk has failed (R323). -/
structure Cmd where
  id      : Nat
  core    : Nat
  slot    : Nat
  uid     : Nat
  part    : Nat
  ctx     : Nat
  asid    : Nat
  priv    : Priv
  unit    : CmdUnit
  ins     : Instr
  fmt     : BitVec 4
  target  : Word
  control : Word
  hasComp : Bool
  hd      : HandleImage
  ha      : HandleImage
  hb      : HandleImage
  hl      : HandleImage
  vcore   : Nat
  strides : List Int
  state   : CmdState
  prog    : List Nat
  flags   : BitVec 8
  detail  : Nat
  tval    : Word
  owed    : Bool
  spent   : Tab (List Byte)
  pieces  : Tab (List Byte)
  lease   : Nat
  readyAt : Nat
  held    : Bool
  sent    : Bool
  group   : Nat
  counted : Bool
  popped  : Bool
  walked  : Option Word
  walkFault : Option Nat
deriving DecidableEq, Repr

/-- Copy commands that share one fetch (R251), and what it has brought so far, by virtual address. -/
structure Merge where
  cmds : List Nat
  read : Tab Nat
deriving DecidableEq, Repr

/-- The granules that a FAULTED command had consumed when its record was written, for the RESUME of that record (R235, R294): its context, the
record's bytes as a number, and the granules. -/
structure SpentSet where
  ctx      : Nat
  record   : Nat
  granules : Tab (List Byte)
deriving DecidableEq, Repr

-- ==== barriers, contexts, partitions ====

/-- A barrier counter (R135) with its waiters, those held for the next round, and whether it is releasing (R138). -/
structure Barrier where
  round     : BitVec 8
  count     : Nat
  arrived   : Nat
  releasing : Bool
  waiters   : List Nat
  next      : List Nat
deriving DecidableEq, Repr

def Barrier.empty : Barrier :=
  { round := 0, count := 0, arrived := 0, releasing := false, waiters := [], next := [] }

/-- The kill of a context (R308, R309): reason, code, TVAL, and of the strand that caused it SID, PC, CID, TPC1, TPC2
and its two TCAUSE words, with the device cycle of the kill. -/
structure KillRec where
  reason : Nat
  code   : Nat
  tval   : Word
  sid    : Word
  pc     : Word
  cid    : Word
  tpc1   : Word
  tpc2   : Word
  causes : Word
  cycle  : Nat
deriving DecidableEq, Repr

/-- A context of a partition: its control block's address (R312), live strands (R118), the latched POOL word and its
latch number (R149), the records of its overflow list by cluster and index in the list (R107, log 116), whether it has been killed (R308) and the kill that is under way. -/
structure Context where
  ccb      : Word
  live     : Nat
  pool     : Word
  latch    : Nat
  overflow : List (Nat × Nat × QEntry)
  dead     : Bool
  kill     : Option KillRec
deriving DecidableEq, Repr

def Context.empty : Context := { ccb := 0, live := 0, pool := 0, latch := 0, overflow := [], dead := false, kill := none }

/-- States of a partition (R361). -/
inductive PState | free | stopped | running | resizing | resetting
deriving DecidableEq, Repr

/-- A partition's control page (R360) and what it holds beside it. `sliceMap`, `rangeTable` and `homeTable` are the
written words; the `in…` fields are the installed ones; `given` are the hash ranges, first and end, that calvings have moved since the tables were
installed, the last one first: to a slice of this device, or away (R392). `moved` are the numbers of the memory requests that were under way to a
home that the last installation has moved, and have had no HOMEMOVED (R367). `hostq` are, by port, the host's ordered accesses that wait behind a
deposit record, the record first, and `hostOpen` the port and number of each relaxed or bulk write that is not performed (R373, R375). -/
structure Partition where
  quanta     : BitVec 64
  state      : PState
  back       : PState
  done       : Bool
  result     : BitVec 8
  cmd        : BitVec 4
  qnew       : BitVec 64
  ptroot     : Word
  fheap      : Word
  smgen      : BitVec 32
  rtgen      : BitVec 32
  hmap       : Word
  hdm        : Word
  rodep      : BitVec 64
  hdepdone   : BitVec 64
  hdeperr    : BitVec 64
  qbase      : Word
  sliceMap   : Tab (BitVec 8)
  rangeTable : Tab Word
  homeTable  : Tab (BitVec 8)
  inSlice    : Tab (BitVec 8)
  inRange    : Tab Word
  inHome     : Tab (BitVec 8)
  given      : List (Nat × Nat × Option Nat)
  fadmit     : Tab Word
  keyDraws   : Nat
  records    : Nat
  bulks      : Tab Nat
  moved      : List Nat
  hostq      : Tab (List Instr)
  hostOpen   : List (Nat × Nat)
  nonce      : List Byte
  attest     : Nat
  report     : List Byte
deriving DecidableEq, Repr

def Partition.empty : Partition :=
  { quanta := 0, state := .free, back := .free, done := true, result := 0, cmd := 0, qnew := 0, ptroot := 0, fheap := 0,
    smgen := 0, rtgen := 0, hmap := 0, hdm := 0, rodep := 0, hdepdone := 0, hdeperr := 0, qbase := 0, sliceMap := [],
    rangeTable := [], homeTable := [], inSlice := [], inRange := [], inHome := [], given := [], fadmit := [],
    keyDraws := 0, records := 0, bulks := [], moved := [], hostq := [], hostOpen := [], nonce := [], attest := 0, report := [] }

-- ==== the device ====

/-- How the last instruction of a bundle went on: to the next bundle; to an address it has written itself; a trap that
the bundle takes before it waits (R23, R39); a trap; not ready (R113); not ready
until what the bundle has begun is answered (R124, R197); the strand left its slot. -/
inductive Flow | seq | jump | trapX | trap | wait | held | retired
deriving DecidableEq, Repr

/-- A step that is due, with the numbers that a step without fields takes (`State.arg`). -/
structure Due where
  due : Nat
  ev  : Instr
  arg : List Nat
deriving DecidableEq, Repr

/-- The target side for one source core (R386, R388): its epoch, the next SEQ to perform, the reorder window, and the
responses kept; `half` is what the next request, an atomic, has read where its store is still to come (R212); `snaps` are the granules that consuming
fetches have taken and whose pieces are still to be fetched, by the fetching command and the granule's key (R196, R390). -/
structure FabSource where
  epoch : BitVec 8
  next  : BitVec 16
  held  : List Flit
  kept  : List (BitVec 16 × Flit)
  half  : Option Word
  snaps : List (Nat × Nat × List Byte)
deriving DecidableEq, Repr

/-- A flit that waits for credits on a link, with the devices of the rest of its route (R380, R381). -/
structure OutFlit where
  link  : Nat
  flit  : Flit
  route : List Nat
deriving DecidableEq, Repr

/-- The fabric port: route entries (R382) with the candidate that comes next for each group, link state (R383), lost lanes and usable entries of the
far end by link (R378, R380, R384) and how many of them the device's flits occupy by link, channel and class, the degraded links whose last flit was
of the response-escape channel (R384), local ports of other members that are down, flits that wait and flits that left, the sources that this device serves, and counts of dropped flits,
of key renewals and of lost .C requests. Links 0-30 are local ports, 32-47 global ports. -/
structure Fabric where
  routes  : Tab Word
  llink   : Word
  glink   : Word
  lanes   : Tab (BitVec 8)
  turns   : Tab Nat
  entries : Tab (Nat × Nat)
  used    : Tab (Nat × Nat)
  escaped : List Nat
  downs   : List (Nat × Nat)
  waiting : List OutFlit
  sent    : List OutFlit
  sources : Tab FabSource
  dropped : Nat
  rekeys  : Nat
  lost    : Nat
deriving DecidableEq, Repr

-- ==== drift transport (R393-R397, R412) ====

/-- A work request that a queue holds (R394): who posted it, whether its trigger has fired, and the bytes of it that have
left. TRIG 3 says that its firing stands in a pending list (R336). -/
structure WorkReq where
  op      : Nat
  trig    : Nat
  trigq   : Nat
  trigcnt : Nat
  va      : Word
  len     : Nat
  roff    : Word
  imm     : Word
  seq     : Nat
  uid     : Nat
  cluster : Nat
  priv    : Priv
  fired   : Bool
  off     : Nat
deriving DecidableEq, Repr

/-- A packet in the retransmit store, with the cycle of its first send (R395). -/
structure Kept where
  num   : Nat
  pkt   : DriftPacket
  first : Nat
deriving DecidableEq, Repr

/-- A drift queue beside its descriptor (R395, R412): its work requests; packets sent, acknowledged and allotted, and the
last packet number of each request that has begun; the retransmit store; the results that wait: XFLUSH with the packets that it
covers and their count, XWAIT with its count; the end of a halved send window; the next packet that it takes; while the supervisor rewrites the
descriptor, the core that does, the cycle of its first store and the descriptor's bytes before it (R419, log 153). -/
structure DriftQueue where
  held    : List WorkReq
  next    : Nat
  acked   : Nat
  begun   : Nat
  marks   : List Nat
  store   : List Kept
  flushes : List (Nat × Nat × Nat × Nat)
  waits   : List (Nat × Nat × Nat)
  half    : Nat
  expect  : BitVec 32
  error   : Bool
  old     : Option (Nat × Nat × List Byte)
deriving DecidableEq, Repr

def DriftQueue.empty : DriftQueue :=
  { held := [], next := 0, acked := 0, begun := 0, marks := [], store := [], flushes := [], waits := [], half := 0, expect := 0,
    error := false, old := none }

/-- A frame that left an Ethernet port (R393): port, remote address, and the packet, or the peal flit of a rank in another
domain (R398). -/
structure Frame where
  port  : Nat
  raddr : Nat
  pkt   : DriftPacket
  peal  : Option PealFlit
deriving DecidableEq, Repr

/-- The configuration of an Ethernet port (R393): destination UDP port, source IPv6 address, traffic class. -/
structure PortConfig where
  udp   : Nat
  addr  : Nat
  cls   : Nat
deriving DecidableEq, Repr

/-- The drift transport: queues by partition x 4,096 + queue, the ports' configuration, frames that left, dropped packets. -/
structure Drift where
  queues  : Tab DriftQueue
  ports   : Tab PortConfig
  sent    : List Frame
  dropped : Nat
deriving DecidableEq, Repr

-- ==== peals (R398-R408) ====

/-- A node of a peal graph (R399). -/
structure GraphNode where
  op     : Nat
  partk  : Nat
  srcb   : Nat
  dstb   : Nat
  flags  : Nat
  depcnt : Nat
  tag    : Nat
  srcoff : Word
  dstoff : Word
  len    : Nat
  succ0  : Nat
  succ1  : Nat
deriving DecidableEq, Repr

/-- A loaded peal (R398, R415), with the context that loaded it and the cycle in which its load's result is delivered (R419). -/
structure Peal where
  ctx   : Nat
  nbase : Nat
  rop   : Nat
  rfmt  : Nat
  scope : Nat
  group : Nat
  nrank : Nat
  rank  : Nat
  sig   : Word
  ranks : List Word
  nodes : List GraphNode
  readyAt : Nat
deriving DecidableEq, Repr

/-- A run of a peal (R402): its peal's key, SEQ, base table, the context's ASID, cluster and privilege, the counters of its nodes,
which have completed, FLAGS, and its status once it has ended. -/
structure PealRun where
  peal    : Nat
  seq     : Nat
  base    : List Word
  asid    : Nat
  cluster : Nat
  priv    : Priv
  begun   : Bool
  cnt     : List Nat
  ended    : List Bool
  flags   : BitVec 8
  status  : Option Nat
deriving DecidableEq, Repr

/-- The collective engine: peals by partition x 128 + id, runs by number, the group counters by partition and GROUP, arrivals held
with their partition, PEAL.WAITs that wait (peal, strand, tag), and dropped arrivals. -/
structure Engine where
  peals   : Tab Peal
  runs    : Tab PealRun
  seqs    : Tab Nat
  held    : List (Nat × PealFlit)
  waits   : List (Nat × Nat × Nat)
  dropped : Nat
deriving DecidableEq, Repr

/-- A continuation landing whose record stands in another device's memory and is being read (R146, R192): the minting core, the context, the
record's address, the value and the scope. -/
structure ContRead where
  core  : Nat
  part  : Nat
  ctx   : Nat
  addr  : Word
  value : Word
  scope : Scope
deriving DecidableEq, Repr

/-- A calving under way (R392, R418): partition, the strand and tag of its result, the range, the entry of the new home, the
devices whose tables change, those that have not answered; its phase: 0 the new home checks the entry, 1 the range moves, 2 the other devices
are told, 3 the device `old` that holds the range runs it. One that is run for another device names that device and its calving there. -/
structure Calving where
  part  : Nat
  uid   : Nat
  tag   : Nat
  lo    : Nat
  hi    : Nat
  entry : Word
  devs  : List Nat
  open_ : List Nat
  phase : Nat
  old   : Nat
  origin : Option (Nat × Nat)
deriving DecidableEq, Repr

/-- Registers of the platform (R423-R433). `seed` and `rootKey` stand for the fuses' identity key seed and root public-key hash; `flash` is the
firmware image in flash, none where it does not verify (R424), `image` the one that runs; `mailbox` is open from the end of the boot. -/
structure Platform where
  device    : Nat
  devfeat   : Word
  drvfeat   : Word
  disabled  : BitVec 64
  cecount   : Word
  linkev    : Word
  power     : Word
  plimit    : Word
  temp      : Word
  throttle  : Word
  bootTime  : Nat
  boots     : Nat
  recovery  : Bool
  poweredOff : Bool
  mailbox   : Bool
  seed      : Nat
  rootKey   : Nat
  flash     : Option Nat
  image     : Nat
  lostPairs : List Nat
deriving DecidableEq, Repr

/-- The completion of a host's read that left through a port (R372, R375): its data, or none for Unsupported Request. -/
structure HostAnswer where
  part : Nat
  port : Nat
  bar  : Nat
  addr : Nat
  data : Option (List Byte)
deriving DecidableEq, Repr

/-- A packet on a die's torus, at a stop, bound for a stop (R162, R163): `ring` is the ring direction of which it holds a slot there (0 and 1
along the row, rising and falling, 2 and 3 along the column), none before it has entered a ring. -/
structure Packet where
  id   : Nat
  die  : Nat
  stop : Nat
  dst  : Nat
  ring : Option Nat
deriving DecidableEq, Repr

/-- A strand whose state stands in a saved image: the memory keys of its slot record and of its core's pool in the image,
its producers that are outstanding, the number of its accesses, the barriers at which it waits, whether SEG held a value of the
program's own, and the return addresses of its resident frames, which R331 gives no place (R328, R331, R354, log 29). -/
structure Away where
  key  : Nat
  pool : Nat
  out  : List Outst
  seq  : Nat
  wait : Wait
  held : Tab Wait
  own  : Bool
  rets : Vector Word 4
deriving DecidableEq, Repr

/-- What a saved virtual core has beside its section of the image: the row marks of its tiles by virtual pool offset (R263, R329), its
leases, and its completion log. -/
structure SavedCore where
  marks  : Tab (Nat × Nat)
  leases : Leases
  log    : List LogEntry
deriving DecidableEq, Repr

/-- A walk of page tables under way (R323): its die, the partition, ASID and 64 KiB page, and the cycle in which it ends. -/
structure Walk where
  die  : Nat
  part : Nat
  asid : Nat
  page : Nat
  done : Nat
deriving DecidableEq, Repr

/-- The whole device. `replicas` are keyed by their slice. `saved` is keyed by context, image and virtual core (`savedKey`); `poisons` are the poison marks of registers with place and physical address, `badBytes` the keys of
memory bytes that hold uncorrectable data, with the place that failed (R318). -/
structure State where
  now      : Nat
  tick     : Nat
  cur      : Nat
  snap     : Option Slot
  flow     : Flow
  issued   : List Nat
  agenda   : List Due
  arg      : List Nat
  mem      : Memory
  slots    : Tab Slot
  cores    : Tab Core
  clusters : Tab Cluster
  quads    : Tab Quad
  slices   : Tab Slice
  copies   : Tab Copy
  melts    : List Melt
  partials : List Partial
  replicas : List (Nat × Line)
  walks    : List Walk
  torus    : List Packet
  cmds     : Tab Cmd
  merged   : Tab Merge
  spent    : List SpentSet
  barriers : Tab Barrier
  contexts : Tab Context
  parts    : Tab Partition
  plat     : Platform
  fab      : Fabric
  drift    : Drift
  engine   : Engine
  calves   : Tab Calving
  conts    : Tab ContRead
  host     : List HostAnswer
  owed     : List (Nat × Nat × Word)
  away     : Tab Away
  saved    : Tab SavedCore
  poisons  : List (Nat × Nat × Nat × Word)
  badBytes : List (Nat × Nat)
  nextTag  : Nat
  nextCmd  : Nat
  nextAge  : Nat
deriving DecidableEq, Repr

/-- DEVFEAT as offered: every feature (log 4). -/
def allFeatures : Word := 0x1ff

/-- The device at the end of boot (R423): partitions FREE, no strand, memory scrubbed to zero (R365). -/
def State.reset : State :=
  { now := 0, tick := 0, cur := 0, snap := none, flow := .seq, issued := [], agenda := [], arg := [], mem := [], slots := [],
    cores := [], clusters := [], quads := [], slices := [], copies := [], melts := [], partials := [], replicas := [], walks := [], torus := [],
    cmds := [], merged := [], spent := [], barriers := [], contexts := [], parts := [],
    plat := { device := 0, devfeat := allFeatures, drvfeat := 0, disabled := 0, cecount := 0, linkev := 0, power := 0,
              plimit := 2600000, temp := 0, throttle := 1, bootTime := 0, boots := 0, recovery := false, poweredOff := false,
              mailbox := true, seed := 0, rootKey := 0, flash := some 0, image := 0, lostPairs := [] },
    fab := { routes := [], llink := 0, glink := 0, lanes := [], turns := [], entries := [], used := [], escaped := [], downs := [], waiting := [], sent := [], sources := [],
             dropped := 0, rekeys := 0, lost := 0 },
    drift := { queues := [], ports := [], sent := [], dropped := 0 },
    engine := { peals := [], runs := [], seqs := [], held := [], waits := [], dropped := 0 }, calves := [], conts := [], host := [], owed := [],
    away := [], saved := [], poisons := [], badBytes := [], nextTag := 1, nextCmd := 1, nextAge := 1 }

end Sys2Proof.Machine
end

