-- ==== Sys2Proof/Machine/Ops.lean ====
section
/-! DEFINITION. The named operations over tables, memory and registers, the agenda, and taking a trap. -/

namespace Sys2Proof.Machine

-- ==== tables ====

/-- The value at a key; `d` where the key is absent. -/
def Tab.get {α : Type} (d : α) : Tab α → Nat → α
  | [], _ => d
  | (j, v) :: r, k => if j = k then v else Tab.get d r k

/-- The value at a key, if it is present. -/
def Tab.get? {α : Type} : Tab α → Nat → Option α
  | [], _ => none
  | (j, v) :: r, k => if j = k then some v else Tab.get? r k

/-- The table with a key's value replaced or inserted; keys stay rising. -/
def Tab.set {α : Type} : Tab α → Nat → α → Tab α
  | [], k, v => [(k, v)]
  | (j, w) :: r, k, v => if j = k then (k, v) :: r else if k < j then (k, v) :: (j, w) :: r else (j, w) :: Tab.set r k v

/-- The table without a key. -/
def Tab.del {α : Type} : Tab α → Nat → Tab α
  | [], _ => []
  | (j, w) :: r, k => if j = k then Tab.del r k else (j, w) :: Tab.del r k

/-- Every value of the table changed by `f`. -/
def Tab.map {α : Type} (f : Nat → α → α) : Tab α → Tab α
  | [] => []
  | (j, w) :: r => (j, f j w) :: Tab.map f r

/-- The first key whose value satisfies `p`. -/
def Tab.find {α : Type} (p : Nat → α → Bool) : Tab α → Option (Nat × α)
  | [] => none
  | (j, w) :: r => if p j w then some (j, w) else Tab.find p r

/-- The values of the table that satisfy `p`, with their keys. -/
def Tab.select {α : Type} (p : Nat → α → Bool) : Tab α → List (Nat × α)
  | [] => []
  | (j, w) :: r => if p j w then (j, w) :: Tab.select p r else Tab.select p r

-- ==== memory (log 1) ====

/-- The canonical form: addresses strictly rising from `lo`, no zero byte listed. -/
def Memory.wfFrom : Nat → Memory → Bool
  | _, [] => true
  | lo, (a, b) :: r => decide (lo ≤ a) && b != 0 && Memory.wfFrom (a + 1) r

/-- The canonical form of memory. -/
def Memory.wf (m : Memory) : Bool := Memory.wfFrom 0 m

/-- The byte at an address; one that is not listed reads as zero (R365, R423). -/
def Memory.read : Memory → Nat → Byte
  | [], _ => 0
  | (a, b) :: r, k => if a = k then b else Memory.read r k

/-- Memory without an address. -/
def Memory.erase : Memory → Nat → Memory
  | [], _ => []
  | (a, b) :: r, k => if a = k then r else (a, b) :: Memory.erase r k

/-- Memory with a nonzero byte at an address. -/
def Memory.insert : Memory → Nat → Byte → Memory
  | [], k, v => [(k, v)]
  | (a, b) :: r, k, v => if a = k then (k, v) :: r else if k < a then (k, v) :: (a, b) :: r else (a, b) :: Memory.insert r k v

/-- Memory with one byte written; the canonical form is kept. -/
def Memory.write (m : Memory) (k : Nat) (v : Byte) : Memory := if v = 0 then m.erase k else m.insert k v

/-- Bytes written from an address upward. -/
def Memory.writeBytes : Memory → Nat → List Byte → Memory
  | m, _, [] => m
  | m, k, b :: r => Memory.writeBytes (m.write k b) (k + 1) r

/-- `n` bytes from an address upward. -/
def Memory.readBytes (m : Memory) (k n : Nat) : List Byte := (List.range n).map fun i => m.read (k + i)

/-- Memory whose bytes from `lo` up to below `hi` are zero. -/
def Memory.clear (m : Memory) (lo hi : Nat) : Memory := m.filter fun c => !(decide (lo ≤ c.1) && decide (c.1 < hi))

-- ==== bytes and words (R6) ====

/-- A list with `new` written over its elements from `off` on. -/
def overlay {α : Type} (l : List α) (off : Nat) (new : List α) : List α :=
  l.take off ++ new ++ l.drop (off + new.length)

/-- The number that bytes stand for, the lowest address least significant. -/
def leNat : List Byte → Nat
  | [] => 0
  | b :: r => b.toNat + 256 * leNat r

/-- `n` bytes of a number, the least significant first. -/
def leBytes : Nat → Nat → List Byte
  | 0, _ => []
  | n + 1, x => BitVec.ofNat 8 x :: leBytes n (x / 256)

/-- A word from at most eight bytes, zero-extended. -/
def leWord (l : List Byte) : Word := BitVec.ofNat 64 (leNat l)

/-- The low `n` bytes of a word. -/
def wordBytes (n : Nat) (w : Word) : List Byte := leBytes n w.toNat

/-- sign_extend(v, n) of R60: the low `n` bits as two's complement. -/
def signExtend (n : Nat) (w : Word) : Word := BitVec.ofInt 64 ((BitVec.ofNat n w.toNat).toInt)

/-- Bits [lo+n-1:lo] of a word, as a number. -/
def bitsOf (w : Word) (lo n : Nat) : Nat := (w.toNat / 2 ^ lo) % 2 ^ n

/-- A word with bits [lo+n-1:lo] replaced. -/
def putBits (w : Word) (lo n v : Nat) : Word :=
  BitVec.ofNat 64 (w.toNat - bitsOf w lo n * 2 ^ lo + (v % 2 ^ n) * 2 ^ lo)

/-- Bits [lo+n-1:lo] of a handle image, as a number. -/
def hbits (h : HandleImage) (lo n : Nat) : Nat := (h.toNat / 2 ^ lo) % 2 ^ n

/-- Is an address or number a multiple of `n`? -/
def aligned (x n : Nat) : Bool := x % n == 0

-- ==== the numbers of places (R33) ====

/-- The core of a slot, the slot within the core. -/
def coreOf (slot : Nat) : Nat := slot / 8

def slotNo (slot : Nat) : Nat := slot % 8

/-- The cluster (and quantum, and stop) of a core: die x 16 + cluster. -/
def clusterOf (core : Nat) : Nat := core / 32

/-- CORE: the core within its cluster. -/
def coreNo (core : Nat) : Nat := core % 32

def dieOf (core : Nat) : Nat := core / 512

/-- The quad engine of a core: four cores each, six per cluster. -/
def quadOf (core : Nat) : Nat := clusterOf core * 8 + coreNo core / 4

/-- The core of a cluster by its CORE number. -/
def coreAt (cluster n : Nat) : Nat := cluster * 32 + n

def contextKey (part ctx : Nat) : Nat := part * 65536 + ctx

/-- The key of a strand: partition, CTX and strand number (R106). -/
def strandKey (part ctx : Nat) (n : BitVec 32) : Nat := contextKey part ctx * 2 ^ 32 + n.toNat

-- ==== access to the parts of the state ====

def State.slot (s : State) (i : Nat) : Slot := s.slots.get Slot.empty i

def State.core (s : State) (c : Nat) : Core := s.cores.get Core.empty c

def State.cluster (s : State) (q : Nat) : Cluster := s.clusters.get Cluster.empty q

def State.quad (s : State) (q : Nat) : Quad := s.quads.get Quad.empty q

def State.slice (s : State) (i : Nat) : Slice := s.slices.get Slice.empty i

def State.context (s : State) (k : Nat) : Context := s.contexts.get Context.empty k

def State.part (s : State) (p : Nat) : Partition := s.parts.get Partition.empty p

def State.barrier (s : State) (k : Nat) : Barrier := s.barriers.get Barrier.empty k

def State.setSlot (s : State) (i : Nat) (t : Slot) : State := { s with slots := s.slots.set i t }

def State.modSlot (s : State) (i : Nat) (f : Slot → Slot) : State := s.setSlot i (f (s.slot i))

def State.modCore (s : State) (c : Nat) (f : Core → Core) : State := { s with cores := s.cores.set c (f (s.core c)) }

/-- Every core that the state lists changed by `f`. -/
def State.eachCore (s : State) (f : Nat → Core → Core) : State := { s with cores := s.cores.map f }

def State.modCluster (s : State) (q : Nat) (f : Cluster → Cluster) : State :=
  { s with clusters := s.clusters.set q (f (s.cluster q)) }

def State.modQuad (s : State) (q : Nat) (f : Quad → Quad) : State := { s with quads := s.quads.set q (f (s.quad q)) }

def State.modSlice (s : State) (i : Nat) (f : Slice → Slice) : State :=
  { s with slices := s.slices.set i (f (s.slice i)) }

def State.modContext (s : State) (k : Nat) (f : Context → Context) : State :=
  { s with contexts := s.contexts.set k (f (s.context k)) }

def State.modPart (s : State) (p : Nat) (f : Partition → Partition) : State :=
  { s with parts := s.parts.set p (f (s.part p)) }

def State.modBarrier (s : State) (k : Nat) (f : Barrier → Barrier) : State :=
  { s with barriers := s.barriers.set k (f (s.barrier k)) }

/-- The slot whose bundle issues. -/
def State.me (s : State) : Slot := s.slot s.cur

/-- The slot as its bundle's sources, guards and predicates are read (R25). -/
def State.src (s : State) : Slot :=
  match s.snap with
  | some t => t
  | none => s.me

def State.modMe (s : State) (f : Slot → Slot) : State := s.modSlot s.cur f

/-- The core of the issuing slot. -/
def State.myCore (s : State) : Nat := coreOf s.cur

def State.withFlow (s : State) (f : Flow) : State := { s with flow := f }

/-- The slot not ready: the bundle issues in a later cycle (R113). -/
def State.waits (s : State) : State := s.withFlow .wait

-- ==== free values and the agenda ====

/-- A free number below `n` (log 10). -/
def State.choose (s : State) (n : Nat) : Nat := Config.freeNat s.tick % n

/-- An open yes or no. -/
def State.coin (s : State) : Bool := s.choose 2 == 1

/-- The next free value. -/
def State.bump (s : State) : State := { s with tick := s.tick + 1 }

/-- A step placed in the agenda, `d` cycles from now, with the numbers that it takes. -/
def State.afterArg (s : State) (d : Nat) (e : Instr) (arg : List Nat) : State :=
  { s with agenda := s.agenda ++ [{ due := s.now + d, ev := e, arg := arg }] }

/-- A step placed in the agenda, `d` cycles from now. -/
def State.after (s : State) (d : Nat) (e : Instr) : State := s.afterArg d e []

/-- Number `i` of those that the running step takes. -/
def State.argAt (s : State) (i : Nat) : Nat := s.arg.getD i 0

/-- A step that comes within `bound` cycles. -/
def State.within (s : State) (bound : Nat) (e : Instr) : State := (s.after (1 + s.choose bound) e).bump

/-- The order of tuple requests that reach a home in one cycle (R174): die, stop, core, slot; other devices follow. -/
def arrivalRank : Instr → Option (Nat × Nat)
  | .depositAtHome r | .matchAtHome r | .cancelAtHome r =>
    some (r.home, if r.remote.isSome then 2 ^ 20 else r.core * 8 + r.slot)
  | _ => none

/-- Is `e` to stand before `x` in the agenda of one cycle? -/
def arrivesBefore (due : Nat) (e : Instr) (x : Due) : Bool :=
  match arrivalRank e, arrivalRank x.ev with
  | some (h, a), some (g, b) => x.due == due && h == g && a < b
  | _, _ => false

def insertDue (due : Nat) (e : Instr) : List Due → List Due
  | [] => [{ due := due, ev := e, arg := [] }]
  | x :: r => if arrivesBefore due e x then { due := due, ev := e, arg := [] } :: x :: r else x :: insertDue due e r

/-- A tuple request on its way to its home, `d` cycles from now. -/
def State.arrive (s : State) (d : Nat) (e : Instr) : State := { s with agenda := insertDue (s.now + d) e s.agenda }

/-- A fresh tag for a long producer. -/
def State.newTag (s : State) : State := { s with nextTag := s.nextTag + 1 }

/-- May another port of a core's banks be in use: a strand of another core of the cluster, or a running command of the cluster (R151)? -/
def State.bankShared (s : State) (core : Nat) : Bool :=
  s.slots.any (fun t => decide (t.2.phase = .live) && clusterOf (coreOf t.1) == clusterOf core && coreOf t.1 != core)
    || s.cmds.any fun c => decide (c.2.state = .running) && clusterOf c.2.core == clusterOf core

-- ==== registers (R11-R13, R16, R21) ====

/-- The physical register of s1-s31 at a frame depth: 0-7 are the globals, 8-79 the windowed ones (R12, R13). -/
def physReg (depth : Nat) (n : Reg) : Fin 80 :=
  if h : n.toNat < 8 then ⟨n.toNat, by omega⟩
  else ⟨8 + (16 * depth + (n.toNat - 8)) % 72, by have := Nat.mod_lt (16 * depth + (n.toNat - 8)) (show 0 < 72 by decide); omega⟩

/-- A register by frame and number (R16): 0 none, 1-7 the globals, 8 + 16 x frame + n - 8 the windowed ones. -/
def absReg (depth : Nat) (n : Reg) : Nat := if n.toNat < 8 then n.toNat else 16 * depth + n.toNat

/-- The physical register of a register by frame and number. -/
def physAbs (r : Nat) : Fin 80 :=
  if h : r < 8 then ⟨r, by omega⟩
  else ⟨8 + (r - 8) % 72, by have := Nat.mod_lt (r - 8) (show 0 < 72 by decide); omega⟩

/-- s0 (R11). -/
def RegCell.zero : RegCell := { val := 0, mark := .full, poison := false }

/-- A scalar register with its marks; s0 reads as zero and is FULL (R11). -/
def Slot.reg (t : Slot) (n : Reg) : RegCell := if n = 0 then RegCell.zero else t.regs.get (physReg t.depth n)

/-- A register's value. -/
def Slot.val (t : Slot) (n : Reg) : Word := (t.reg n).val

/-- A scalar register replaced; a write to s0 is discarded (R11). -/
def Slot.putReg (t : Slot) (n : Reg) (c : RegCell) : Slot :=
  if n = 0 then t else { t with regs := t.regs.set (physReg t.depth n) c }

/-- A register by frame and number, replaced in the physical file. -/
def Slot.putAbs (t : Slot) (r : Nat) (c : RegCell) : Slot := if r = 0 then t else { t with regs := t.regs.set (physAbs r) c }

def Slot.absCell (t : Slot) (r : Nat) : RegCell := if r = 0 then RegCell.zero else t.regs.get (physAbs r)

/-- A handle register; h0 reads as zero and is FULL (R18). -/
def Slot.handle (t : Slot) (n : HReg) : HCell :=
  if n = 0 then { val := 0, mark := .full } else t.handles.get ⟨n.toNat, n.isLt⟩

/-- A handle register replaced; writes to h0 are discarded (R18). -/
def Slot.putHandle (t : Slot) (n : HReg) (c : HCell) : Slot :=
  if n = 0 then t else { t with handles := t.handles.set n.toNat c n.isLt }

/-- Predicate p(n); p0 is always true (R19). -/
def Slot.pred (t : Slot) (n : PReg) : Bool := n == 0 || t.pw.getLsbD n.toNat

/-- PW with predicate n written; a write to p0 is ignored (R19). -/
def Slot.putPred (t : Slot) (n : PReg) (b : Bool) : Slot :=
  if n = 0 then t else
  let m : BitVec 8 := 1#8 <<< n.toNat
  { t with pw := if b then t.pw ||| m else t.pw &&& ~~~m }

/-- PW from bits [7:1] of a value; bit 0 stays 1 (R29). -/
def pwOf (v : BitVec 8) : BitVec 8 := v ||| 1

/-- A program-counter value: bits [2:0] and bit 63 are zero (R28). -/
def pcOf (w : Word) : Word := w &&& 0x7ffffffffffffff8

-- ==== names of registers (R22, R188, R195) ====

/-- The device of a name (R187). -/
def nameDevice (n : Word) : Nat := bitsOf n 49 15

/-- The minting core of a name of the own device; none where [46:45] or CORE names no core (R187, R191). -/
def nameCore (n : Word) : Option Nat :=
  if bitsOf n 45 2 ≠ 0 || 23 < bitsOf n 36 5 then none
  else some (bitsOf n 47 2 * 512 + bitsOf n 41 4 * 32 + bitsOf n 36 5)

def nameIndex (n : Word) : Nat := bitsOf n 28 8

/-- A free minting entry of generation 0. -/
def MintEntry.blank : MintEntry := { state := .free, gen := 0, ctx := 0, uid := 0, reg := 0, addr := 0 }

def State.mintEntry (s : State) (core i : Nat) : MintEntry := (s.core core).mint.get MintEntry.blank i

def State.setMint (s : State) (core i : Nat) (e : MintEntry) : State :=
  s.modCore core fun c => { c with mint := c.mint.set i e }

/-- A minting entry becomes FREE; its generation rises (R188). -/
def MintEntry.freed (e : MintEntry) : MintEntry := { e with state := .free, gen := e.gen + 1, uid := 0, reg := 0, addr := 0 }

/-- Minting entries that satisfy `p` become FREE, on every core. -/
def State.freeNames (s : State) (p : MintEntry → Bool) : State :=
  { s with cores := s.cores.map fun _ c => { c with mint := c.mint.map fun _ e => if p e then e.freed else e } }

/-- The name of a strand's register is destroyed as UNMINT destroys it (R22). -/
def State.freeRegName (s : State) (uid reg : Nat) : State :=
  s.freeNames fun e => decide (e.state = .reg) && e.uid == uid && e.reg == reg

/-- A short producer writes a register: FULL, its poison mark cleared, its name destroyed (R22, R318). -/
def State.writeReg (s : State) (n : Reg) (v : Word) : State :=
  let t := s.me
  let s := if (t.reg n).mark = .named then s.freeRegName t.id.uid (absReg t.depth n) else s
  s.modMe fun t => t.putReg n { val := v, mark := .full, poison := false }

/-- A short producer writes a predicate. -/
def State.writePred (s : State) (n : PReg) (b : Bool) : State := s.modMe fun t => t.putPred n b

-- ==== long producers (R22, R16) ====

/-- The destination of a long producer becomes PENDING; one that names s0 marks nothing (R11). The producer stands in the
slot's list under the tag `s.nextTag`. -/
def State.startLong (s : State) (d : Reg) (k : OutKind) : State :=
  (s.modMe fun t =>
    let t := t.putReg d { t.reg d with mark := .pending, poison := false }
    { t with pend := { t.pend with out := t.pend.out ++ [{ tag := s.nextTag, reg := absReg t.depth d, kind := k,
                                                            seq := t.pend.seq }],
                                   seq := t.pend.seq + 1 } }).newTag

-- ==== pools (R17, R332) ====

/-- The memory key of a pool byte. -/
def poolKey (core off : Nat) : Nat := 2 ^ 60 + core * 2 ^ 20 + off

/-- A core's pool bytes written; their 2 KiB blocks count as written (R333). -/
def State.writePool (s : State) (core off : Nat) (l : List Byte) : State :=
  let blocks := (List.range (if l.isEmpty then 0 else (off % 2048 + l.length - 1) / 2048 + 1)).map (off / 2048 + ·)
  ({ s with mem := s.mem.writeBytes (poolKey core off) l
            badBytes := s.badBytes.filter fun k => !(poolKey core off ≤ k.1 && k.1 < poolKey core off + l.length) }).modCore core fun c =>
    { c with written := blocks.foldl (fun w b => if w.contains b then w else b :: w) c.written }

def State.readPool (s : State) (core off n : Nat) : List Byte := s.mem.readBytes (poolKey core off) n

/-- Fields of SEG (R339). -/
def segVslot (w : Word) : Nat := bitsOf w 41 3

def segVcore (w : Word) : Nat := bitsOf w 36 5

/-- Base and limit in 16 KiB units of region `r` (0 scratchpad, 1 window store, 2 accumulators) by SEG (R339). -/
def segRegion (w : Word) : Nat → Nat × Nat
  | 0 => (bitsOf w 18 6, bitsOf w 12 6)
  | 1 => (bitsOf w 30 6, bitsOf w 24 6)
  | _ => (bitsOf w 6 6, bitsOf w 0 6)

/-- The share of a slot's window stack, in bytes (R17, R339). -/
def Slot.share (t : Slot) : Nat := (segRegion t.id.seg 1).2 * 16384 / 8

/-- Local offset of the share's base within the window-store region (R17). -/
def Slot.shareBase (t : Slot) : Nat := segVslot t.id.seg * t.share

/-- Pool offset of the spill image of frame `f` (R15, R17). -/
def Slot.spillAt (t : Slot) (f : Nat) : Nat := (segRegion t.id.seg 1).1 * 16384 + t.shareBase + 144 * f

/-- A register state's code in images (R15). -/
def Mark.code : Mark → Nat | .idle => 0 | .full => 1 | .pending => 2 | .named => 3

def Mark.decode (n : Nat) : Mark := if n % 4 = 0 then .idle else if n % 4 = 1 then .full else if n % 4 = 2 then .pending else .named

/-- The image of frame `f` of a slot (R15): ins, locals, return address, states. -/
def Slot.frameImage (t : Slot) (f : Nat) : List Byte :=
  let cells := (List.range 16).map fun i => t.absCell (8 + 16 * f + i)
  let states := cells.foldr (fun c acc => c.mark.code + 4 * acc) 0
  (cells.map fun c => wordBytes 8 c.val).flatten ++ wordBytes 8 (t.rets.get ⟨f % 4, Nat.mod_lt _ (by decide)⟩)
    ++ leBytes 4 states ++ leBytes 4 0

/-- Frame `f` of a slot loaded from its image; `p` says which of its registers carry a poison mark, for which the image has no place. -/
def Slot.loadFrame (t : Slot) (f : Nat) (l : List Byte) (p : Nat → Bool) : Slot :=
  let states := leNat ((l.drop 136).take 4)
  let t := (List.range 16).foldl (fun t i =>
    t.putAbs (8 + 16 * f + i) { val := leWord ((l.drop (8 * i)).take 8), mark := Mark.decode (states / 4 ^ i),
                                poison := p (8 + 16 * f + i) }) t
  { t with rets := t.rets.set (f % 4) (leWord ((l.drop 128).take 8)) (Nat.mod_lt _ (by decide)) }

/-- Has uncorrectable data reached a register, by frame, of a strand (R318)? -/
def State.marked (s : State) (uid r : Nat) : Bool := s.poisons.any fun p => p.1 == uid && p.2.1 == r

/-- The poison marks of a strand's registers are forgotten where `p` holds. -/
def State.unmark (s : State) (uid : Nat) (p : Nat → Bool) : State :=
  { s with poisons := s.poisons.filter fun x => !(x.1 == uid && p x.2.1) }

/-- A value for a register that is in its strand's slot: into the register, or into its frame's spill image; a register
above the current window is gone (R16). -/
def State.fillHere (s : State) (i : Nat) (r : Nat) (c : RegCell) : State :=
  let t := s.slot i
  if r = 0 then s
  else if r < 8 then s.modSlot i fun t => t.putAbs r c
  else
    let f := (r - 8) / 16
    if f < t.oldest then
      let at_ := t.spillAt f
      let n := (r - 8) % 16
      let states := leNat (s.readPool (coreOf i) (at_ + 136) 4)
      let states' := states - (states / 4 ^ n % 4) * 4 ^ n + c.mark.code * 4 ^ n
      let s := s.unmark t.id.uid fun x => x == r && !c.poison
      (s.writePool (coreOf i) (at_ + 8 * n) (wordBytes 8 c.val)).writePool (coreOf i) (at_ + 136) (leBytes 4 states')
    else if r - 8 < 16 * t.depth + 24 then s.modSlot i fun t => t.putAbs r c
    else s

/-- The slot in which a strand is. -/
def State.slotOf (s : State) (uid : Nat) : Option Nat :=
  (s.slots.find fun _ t => t.id.uid == uid && uid != 0 && decide (t.phase = .live ∨ t.phase = .clearing)).map (·.1)

-- ==== taking a trap (R303, R308) ====

/-- TVEC.BASE with the offset of a class at a level (R301). -/
def trapVector (tvec : Word) (level cls : Nat) : Word :=
  tvec + BitVec.ofNat 64 ((if level = 2 then 0x400 else 0) + 0x40 * cls)

def privCode : Priv → Nat | .u => 0 | .s => 1 | .m => 3

def privOf (n : Nat) : Priv := if n = 0 then .u else if n = 1 then .s else .m

/-- U < S < M (R27). -/
def privGe (p q : Priv) : Bool := privCode q ≤ privCode p

/-- STATUS as a word (R32). -/
def Status.word (st : Status) : Word :=
  BitVec.ofNat 64 ((if st.ui then 32 else 0) + (if st.startclr then 16 else 0) + privCode st.priv * 4 + st.tl % 4)

/-- SID (R33). -/
def Slot.sid (t : Slot) : Word := BitVec.ofNat 64 (t.id.ctx % 65536 * 2 ^ 32 + t.id.strand.toNat)

/-- CID of a core (R33). -/
def State.cidOf (s : State) (core : Nat) : Word := BitVec.ofNat 64 (s.plat.device % 2 ^ 15 * 2 ^ 11 + core % 2 ^ 11)

/-- The kill record of a trap at TL 2 (R308, R309). -/
def State.killOf (s : State) (i : Nat) (code : Nat) (v : Word) : KillRec :=
  let t := s.slot i
  { reason := 1, code := code, tval := v, sid := t.sid, pc := t.pc, cid := s.cidOf (coreOf i), tpc1 := t.bank1.tpc,
    tpc2 := t.bank2.tpc,
    causes := BitVec.ofNat 64 (bitsOf t.bank1.tcause 0 13 + bitsOf t.bank2.tcause 0 13 * 2 ^ 16), cycle := 0 }

/-- The context of a strand is to be killed: no bundle of it issues again, and the kill runs (R308). -/
def State.startKill (s : State) (part ctx : Nat) (k : KillRec) : State :=
  (s.modContext (contextKey part ctx) fun c => { c with dead := true, kill := some k }).after 0 (.ctxkill part ctx)

/-- Entry of the trap level above the current one (R303): the bank, STATUS and the pc of the slot. -/
def Slot.enterTrap (t : Slot) (cls code : Nat) (v : Word) : Slot :=
  let n := t.status.tl + 1
  let b := { (if n = 1 then t.bank1 else t.bank2) with
    tpc := pcOf t.pc
    tcause := BitVec.ofNat 64 ((if t.status.ui then 2 ^ 12 else 0) + privCode t.status.priv * 2 ^ 10 + code)
    tval := v }
  { t with
    bank1 := if n = 1 then b else t.bank1
    bank2 := if n = 1 then t.bank2 else b
    status := { t.status with tl := n, ui := false, priv := if n = 1 && t.status.priv != .m then .s else .m }
    pc := trapVector t.tvec n cls }

/-- A trap of class `cls`, detail `d` and value `v` in slot `i`; at TL 2 it kills the context (R303, R308). The
handler's first bundle is ready 6 cycles later (R306). -/
def State.trapSlot (s : State) (i : Nat) (cls d : Nat) (v : Word) : State :=
  let t := s.slot i
  if t.status.tl = 2 then s.startKill t.id.part t.id.ctx (s.killOf i (cls * 32 + d) v)
  else s.modSlot i fun t =>
    let t := t.enterTrap cls (cls * 32 + d) v
    { t with front := { t.front with readyAt := s.now + 6, fetch := none } }

/-- The issuing bundle traps (R303). -/
def State.takeTrap (s : State) (cls d : Nat) (v : Word) : State := (s.trapSlot s.cur cls d v).withFlow .trap

/-- The issuing bundle traps before it waits for anything (R23, R39, R252). -/
def State.takeTrapNow (s : State) (cls d : Nat) (v : Word) : State := (s.trapSlot s.cur cls d v).withFlow .trapX

/-- Word 0 of the bundle that issues, which a malformed encoding reports (R45). -/
def State.issuedWord (s : State) : Word :=
  match s.me.front.fetch with
  | some f => leWord ((f.bytes.drop (s.me.pc.toNat % 64)).take 4)
  | none => 0

/-- Return from a trap level (R305): the pc, privilege and UI of the level's bank. -/
def Slot.leaveTrap (t : Slot) : Slot :=
  let b := if t.status.tl = 1 then t.bank1 else t.bank2
  { t with
    pc := pcOf b.tpc
    status := { t.status with tl := t.status.tl - 1, priv := privOf (bitsOf b.tcause 10 2),
                              ui := b.tcause.getLsbD 12 } }

end Sys2Proof.Machine
end

