-- ==== Sys2Proof/Machine/Float.lean ====
section
/-! DEFINITION. Floating-point values exactly: the formats of R57 and R256, one exact value with one rounding (R60-R62),
and the payload NaNs of R65-R67. Scalar and engine arithmetic both stand on it. -/

namespace Sys2Proof.Machine

/-- A binary format (R57, R256): exponent and fraction bits, bias, and the code of its largest finite value. -/
structure FFmt where
  e   : Nat
  m   : Nat
  b   : Nat
  top : Nat
  /-- the largest exponent field holds infinities and NaNs (all formats but E4M3) -/
  inf : Bool
deriving DecidableEq, Repr

def fp32 : FFmt := { e := 8, m := 23, b := 127, top := 0x7f7fffff, inf := true }

def bf16 : FFmt := { e := 8, m := 7, b := 127, top := 0x7f7f, inf := true }

def fp16 : FFmt := { e := 5, m := 10, b := 15, top := 0x7bff, inf := true }

def e5m2 : FFmt := { e := 5, m := 2, b := 15, top := 0x7b, inf := true }

def e4m3 : FFmt := { e := 4, m := 3, b := 7, top := 0x7e, inf := false }

/-- The bits of a format below its sign. -/
def FFmt.width (f : FFmt) : Nat := f.e + f.m

/-- An exact finite value: (-1)^neg x num x 2^exp / den. The sign of a zero is kept. -/
structure Exact where
  neg : Bool
  num : Nat
  exp : Int
  den : Nat
deriving DecidableEq, Repr

def Exact.zero (neg : Bool) : Exact := { neg := neg, num := 0, exp := 0, den := 1 }

def Exact.ofNat (n : Nat) : Exact := { neg := false, num := n, exp := 0, den := 1 }

def Exact.ofInt (i : Int) : Exact := { neg := decide (i < 0), num := i.natAbs, exp := 0, den := 1 }

def Exact.isZero (x : Exact) : Bool := x.num == 0

def Exact.negate (x : Exact) : Exact := { x with neg := !x.neg }

/-- A value of a format: a NaN by its code, an infinity, or an exact value (R58). -/
inductive FVal
  | nan (code : Nat)
  | inf (neg : Bool)
  | num (x : Exact)
deriving DecidableEq, Repr

/-- The sign bit of a code. -/
def FFmt.neg (f : FFmt) (code : Nat) : Bool := code / 2 ^ f.width % 2 == 1

/-- The value of a code (R58; R256 for E4M3). -/
def FFmt.value (f : FFmt) (code : Nat) : FVal :=
  let s := f.neg code
  let ex := code / 2 ^ f.m % 2 ^ f.e
  let fr := code % 2 ^ f.m
  let emax := 2 ^ f.e - 1
  if ex = emax ∧ f.inf then (if fr = 0 then .inf s else .nan (code % 2 ^ (f.width + 1)))
  else if ex = emax ∧ fr = 2 ^ f.m - 1 then .nan (code % 2 ^ (f.width + 1))
  else if ex = 0 then .num { neg := s, num := fr, exp := 1 - (f.b : Int) - f.m, den := 1 }
  else .num { neg := s, num := 2 ^ f.m + fr, exp := (ex : Int) - f.b - f.m, den := 1 }

/-- Is the code a denormal? -/
def FFmt.denormal (f : FFmt) (code : Nat) : Bool := code / 2 ^ f.m % 2 ^ f.e == 0 && code % 2 ^ f.m != 0

/-- The code with the given sign. -/
def FFmt.signed (f : FFmt) (neg : Bool) (mag : Nat) : Nat := if neg then mag + 2 ^ f.width else mag

-- ==== exact arithmetic ====

/-- Two values over one exponent and denominator: their signed numerators. -/
def Exact.common (x y : Exact) : Int × Int × Int × Nat :=
  let e := min x.exp y.exp
  let n (v : Exact) (d : Nat) : Int := (if v.neg then -1 else 1) * ((v.num * 2 ^ (v.exp - e).toNat * d : Nat) : Int)
  (n x y.den, n y x.den, e, x.den * y.den)

/-- Exact sum; an exact zero sum of unlike signs is +0, or -0 under RND 2 (R62). -/
def Exact.add (rnd : Nat) (x y : Exact) : Exact :=
  let (a, b, e, d) := x.common y
  let t := a + b
  if t = 0 then Exact.zero (if x.neg == y.neg then x.neg else rnd == 2)
  else { neg := decide (t < 0), num := t.natAbs, exp := e, den := d }

/-- Exact product; its sign is the exclusive OR (R62). -/
def Exact.mul (x y : Exact) : Exact :=
  { neg := x.neg != y.neg, num := x.num * y.num, exp := x.exp + y.exp, den := x.den * y.den }

/-- Exact quotient by a nonzero value. -/
def Exact.div (x y : Exact) : Exact :=
  { neg := x.neg != y.neg, num := x.num * y.den, exp := x.exp - y.exp, den := x.den * y.num }

/-- Is x below y? Zeros are equal whatever their signs. -/
def Exact.lt (x y : Exact) : Bool := let (a, b, _, _) := x.common y; decide (a < b)

def Exact.eq (x y : Exact) : Bool := let (a, b, _, _) := x.common y; decide (a = b)

/-- Floor of the square root, from bit `i` downward. -/
def isqrtFrom (n : Nat) : Nat → Nat → Nat
  | 0, acc => acc
  | i + 1, acc => isqrtFrom n i (if (acc + 2 ^ i) * (acc + 2 ^ i) ≤ n then acc + 2 ^ i else acc)

/-- Floor of the square root. -/
def isqrt (n : Nat) : Nat := isqrtFrom n (n.log2 / 2 + 1) 0

/-- A value that lies strictly between r and r + 1 units of 2^e, or is r: enough for one rounding to fewer bits. -/
def stickyValue (r : Nat) (e : Int) (exact : Bool) : Exact :=
  if exact then { neg := false, num := r, exp := e, den := 1 } else { neg := false, num := 2 * r + 1, exp := e - 1, den := 1 }

/-- The square root of a positive value with denominator 1, to more bits than any format has. -/
def Exact.sqrt (x : Exact) : Exact :=
  let odd := x.exp % 2 != 0
  let n := (if odd then x.num * 2 else x.num) * 2 ^ 128
  let e := (if odd then x.exp - 1 else x.exp) - 128
  let r := isqrt n
  stickyValue r (e / 2) (r * r == n)

/-- The reciprocal of the square root of a positive value with denominator 1. -/
def Exact.rsqrt (x : Exact) : Exact :=
  let odd := x.exp % 2 != 0
  let n := if odd then x.num * 2 else x.num
  let e := if odd then x.exp - 1 else x.exp
  let r := isqrt (2 ^ 256 / n)
  stickyValue r (-128 - e / 2) (r * r * n == 2 ^ 256)

-- ==== rounding (R60-R62) ====

/-- A rounded result: its code, and whether it overflowed, is tiny and inexact, is inexact (R267). -/
structure Rounded where
  code     : Nat
  overflow : Bool
  tiny     : Bool
  inexact  : Bool
deriving DecidableEq, Repr

/-- The whole part of a quotient, and whether the rest rounds it up: `rnd` as FMT.RND (R60). -/
def roundUp (rnd : Nat) (neg : Bool) (q r d : Nat) : Bool :=
  if r = 0 then false
  else match rnd with
    | 0 => decide (d < 2 * r) || (d == 2 * r && q % 2 == 1)
    | 1 => false
    | 2 => neg
    | _ => !neg

/-- Overflow of R61: does it give an infinity (and not the largest finite value)? -/
def overflowInf (rnd : Nat) (neg : Bool) : Bool :=
  match rnd with
  | 0 => true
  | 1 => false
  | 2 => neg
  | _ => !neg

/-- Floor of the base-2 logarithm of n/d, both positive. -/
def log2Ratio (n d : Nat) : Int :=
  let k : Int := (n.log2 : Int) - d.log2
  let ge := if 0 ≤ k then decide (d * 2 ^ k.toNat ≤ n) else decide (d ≤ n * 2 ^ (-k).toNat)
  if ge then k else k - 1

/-- round(x, f, rnd) of R60. The code of an overflow to infinity is the all-ones exponent (for E4M3 its NaN, R266). -/
def FFmt.round (f : FFmt) (rnd : Nat) (x : Exact) : Rounded :=
  if x.num = 0 then { code := f.signed x.neg 0, overflow := false, tiny := false, inexact := false }
  else
    let ex := log2Ratio x.num x.den + x.exp
    let low : Int := 1 - (f.b : Int) - f.m
    let q := max (ex - f.m) low
    let n := if 0 ≤ x.exp - q then x.num * 2 ^ (x.exp - q).toNat else x.num
    let d := if 0 ≤ x.exp - q then x.den else x.den * 2 ^ (q - x.exp).toNat
    let m := n / d + (if roundUp rnd x.neg (n / d) (n % d) d then 1 else 0)
    let mag := (q - low).toNat * 2 ^ f.m + m
    if f.top < mag then
      { code := f.signed x.neg (if overflowInf rnd x.neg then (if f.inf then (2 ^ f.e - 1) * 2 ^ f.m else f.top + 1) else f.top)
        overflow := true, tiny := false, inexact := true }
    else
      { code := f.signed x.neg mag, overflow := false,
        tiny := decide (ex < 1 - (f.b : Int)) && n % d != 0, inexact := n % d != 0 }

/-- The code of an infinity. -/
def FFmt.infCode (f : FFmt) (neg : Bool) : Nat := f.signed neg ((2 ^ f.e - 1) * 2 ^ f.m)

/-- The value rounded to an integer by `rnd`. -/
def Exact.toInt (rnd : Nat) (x : Exact) : Int :=
  let n := if 0 ≤ x.exp then x.num * 2 ^ x.exp.toNat else x.num
  let d := if 0 ≤ x.exp then x.den else x.den * 2 ^ (-x.exp).toNat
  let m := n / d + (if roundUp rnd x.neg (n / d) (n % d) d then 1 else 0)
  if x.neg then -(m : Int) else m

/-- Is the value an integer? -/
def Exact.integral (x : Exact) : Bool :=
  let n := if 0 ≤ x.exp then x.num * 2 ^ x.exp.toNat else x.num
  let d := if 0 ≤ x.exp then x.den else x.den * 2 ^ (-x.exp).toNat
  n % d == 0

-- ==== payload NaNs (R65-R67) ====

/-- The payload NaN of a core and k index (R65). -/
def payloadNaN (core kidx : Nat) : Nat := 0x7fc00000 + core % 2048 * 2048 + kidx % 2048

/-- The new NaN of R66. -/
def newNaN (core : Nat) : Nat := payloadNaN core 0x7ff

/-- CORE and KIDX of a NaN code, as one number ordered as R67 orders them. -/
def nanKey (code : Nat) : Nat := code % 2 ^ 22

/-- A NaN with Q set. -/
def quiet (code : Nat) : Nat := if code / 2 ^ 22 % 2 = 1 then code else code + 2 ^ 22

/-- The chosen NaN among operands in order A, B, D (R67). -/
def nanPick : List FVal → Option Nat
  | [] => none
  | .nan c :: r => match nanPick r with
    | some d => if nanKey d < nanKey c then some d else some (quiet c)
    | none => some (quiet c)
  | _ :: r => nanPick r

-- ==== the operations, as values ====

/-- The value of an operation, or invalid (R66). -/
abbrev FRes := Option FVal

/-- a + b on values that are no NaN. -/
def FVal.add (rnd : Nat) : FVal → FVal → FRes
  | .inf s, .inf t => if s = t then some (.inf s) else none
  | .inf s, _ => some (.inf s)
  | _, .inf t => some (.inf t)
  | .num x, .num y => some (.num (x.add rnd y))
  | x, _ => some x

def FVal.negate : FVal → FVal
  | .inf s => .inf (!s)
  | .num x => .num x.negate
  | v => v

def FVal.sign : FVal → Bool
  | .inf s => s
  | .num x => x.neg
  | .nan _ => false

def FVal.isZero : FVal → Bool
  | .num x => x.isZero
  | _ => false

/-- a x b on values that are no NaN; 0 x infinity is invalid. -/
def FVal.mul (x y : FVal) : FRes :=
  match x, y with
  | .num a, .num b => some (.num (a.mul b))
  | _, _ => if x.isZero || y.isZero then none else some (.inf (x.sign != y.sign))

/-- a / b on values that are no NaN (R62, R64, R66). -/
def FVal.div (x y : FVal) : FRes :=
  match x, y with
  | .inf _, .inf _ => none
  | .inf s, v => some (.inf (s != v.sign))
  | v, .inf t => some (.num (Exact.zero (v.sign != t)))
  | .num a, .num b =>
    if b.isZero then (if a.isZero then none else some (.inf (a.neg != b.neg)))
    else if a.isZero then some (.num (Exact.zero (a.neg != b.neg)))
    else some (.num (a.div b))
  | v, _ => some v

/-- a x b + c (R78). -/
def FVal.fma (rnd : Nat) (x y c : FVal) : FRes := (x.mul y).bind fun p => p.add rnd c

/-- The square root (R62, R66, R78). -/
def FVal.sqrt : FVal → FRes
  | .inf s => if s then none else some (.inf false)
  | .num x => if x.isZero then some (.num x) else if x.neg then none else some (.num x.sqrt)
  | v => some v

/-- 1 / x (R264). -/
def FVal.rcp (x : FVal) : FRes :=
  match x with
  | .inf s => some (.num (Exact.zero s))
  | .num a => if a.isZero then some (.inf a.neg) else some (.num ((Exact.ofNat 1).div a))
  | v => some v

/-- 1 / sqrt x (R264); a scaled operand's denominator is cleared first. -/
def FVal.rsqrt : FVal → FRes
  | .inf s => if s then none else some (.num (Exact.zero false))
  | .num x =>
    if x.isZero then some (.inf x.neg) else if x.neg then none
    else some (.num ({ x with num := x.num * x.den, den := 1 }.rsqrt.mul (Exact.ofNat x.den)))
  | v => some v

/-- Below, with -0 below +0 (R79, R265). -/
def FVal.below : FVal → FVal → Bool
  | .inf s, .inf t => s && !t
  | .inf s, _ => s
  | _, .inf t => !t
  | .num x, .num y => x.lt y || (x.isZero && y.isZero && x.neg && !y.neg)
  | _, _ => false

/-- Less, with the zeros equal (R82). -/
def FVal.less : FVal → FVal → Bool
  | .num x, .num y => x.lt y
  | x, y => x.below y

def FVal.equal : FVal → FVal → Bool
  | .inf s, .inf t => s == t
  | .num x, .num y => x.eq y
  | _, _ => false

/-- A value as an FP32 result under `rnd`; a NaN keeps its code. -/
def FVal.to32 (rnd : Nat) : FVal → Rounded
  | .nan c => { code := c, overflow := false, tiny := false, inexact := false }
  | .inf s => { code := fp32.infCode s, overflow := false, tiny := false, inexact := false }
  | .num x => fp32.round rnd x

-- ==== 2^x and log2 x (R264) ====

/-- 2^(i/2^bits) in fixed point with 128 fraction bits, from the square roots of 2: `root` is 2^(2^-j) for the next bit. -/
def exp2Bits (frac : Nat) : Nat → Nat → Nat → Nat
  | 0, _, acc => acc
  | k + 1, root, acc =>
    exp2Bits frac k (isqrt (root * 2 ^ 128)) (if frac / 2 ^ k % 2 = 1 then acc * root / 2 ^ 128 else acc)

/-- 2^x for a finite x that is no integer and not beyond the exponents of FP32: a value between the two bracketing ones. -/
def Exact.exp2 (x : Exact) : Exact :=
  let shift := 96 + x.exp
  let n := if 0 ≤ shift then x.num * 2 ^ shift.toNat / x.den else x.num / 2 ^ (-shift).toNat / x.den
  let i : Int := if x.neg then -((n : Int) + 1) else n
  let w := i / 2 ^ 96
  let frac := (i % 2 ^ 96).toNat
  stickyValue (exp2Bits frac 96 (isqrt (2 ^ 257)) (2 ^ 128)) (w - 128) false

/-- Fraction bits of log2 m for m in [1, 2) with 256 fraction bits: `k` bits by repeated squaring. -/
def log2Bits : Nat → Nat → Nat → Nat
  | 0, _, acc => acc
  | k + 1, m, acc =>
    let sq := m * m / 2 ^ 256
    if 2 ^ 257 ≤ sq then log2Bits k (sq / 2) (2 * acc + 1) else log2Bits k sq (2 * acc)

/-- log2 x for a positive x that is no power of two: a value between the two bracketing ones. -/
def Exact.log2 (x : Exact) : Exact :=
  let k := log2Ratio x.num x.den
  let m := if 0 ≤ k then x.num * 2 ^ 256 / (x.den * 2 ^ k.toNat) else x.num * 2 ^ (256 + (-k).toNat) / x.den
  let fr := log2Bits 96 m 0
  let t : Int := (k + x.exp) * 2 ^ 96 + fr
  let u := 2 * t + 1
  { neg := decide (u < 0), num := u.natAbs, exp := -97, den := 1 }

/-- One of the two FP32 values that bracket a value which is none (R264): `up` takes the one of greater magnitude. -/
def faithful (up : Bool) (x : Exact) : Rounded :=
  let down := fp32.round 1 x
  if up && down.inexact then fp32.round (if x.neg then 2 else 3) x else down

end Sys2Proof.Machine
end

