-- ==== Sys2Proof/Machine/Flags.lean ====
section
/-! DEFINITION. Conditions and flags: the compares that write predicates (R76, R82), and the flags of an engine command's
completion value (R267). -/

namespace Sys2Proof.Machine

/-- CMP.cc (R76). -/
def condHolds (cc : Cond) (a b : Word) : Bool :=
  match cc with
  | .eq => a == b
  | .ne => a != b
  | .lt => a.slt b
  | .le => !(b.slt a)
  | .gt => b.slt a
  | .ge => !(a.slt b)
  | .ltu => a.ult b
  | .leu => !(b.ult a)
  | .gtu => b.ult a
  | .geu => !(a.ult b)

def FVal.isNaN : FVal → Bool
  | .nan _ => true
  | _ => false

/-- FCMP.cc and VCMP.cc (R82): the pair is unordered when either is a NaN. -/
def fcondHolds (cc : FCond) (a b : FVal) : Bool :=
  let un := a.isNaN || b.isNaN
  match cc with
  | .eq => !un && a.equal b
  | .ne => un || !(a.equal b)
  | .lt => !un && a.less b
  | .le => !un && (a.less b || a.equal b)
  | .gt => !un && b.less a
  | .ge => !un && (b.less a || a.equal b)
  | .un => un
  | .ord => !un

/-- The flags of R267, bits 15-8 of a completion value. -/
structure EFlags where
  invalid   : Bool
  overflow  : Bool
  underflow : Bool
  inexact   : Bool
  nan       : Bool
  saturated : Bool
  outlier   : Bool
  flushed   : Bool
deriving DecidableEq, Repr

def EFlags.none : EFlags :=
  { invalid := false, overflow := false, underflow := false, inexact := false, nan := false, saturated := false,
    outlier := false, flushed := false }

/-- Flags gathered from two steps (R267: OR-merged). -/
def EFlags.or (a b : EFlags) : EFlags :=
  { invalid := a.invalid || b.invalid, overflow := a.overflow || b.overflow, underflow := a.underflow || b.underflow,
    inexact := a.inexact || b.inexact, nan := a.nan || b.nan, saturated := a.saturated || b.saturated,
    outlier := a.outlier || b.outlier, flushed := a.flushed || b.flushed }

/-- The flags of one rounding. -/
def EFlags.ofRounded (r : Rounded) : EFlags :=
  { EFlags.none with overflow := r.overflow, underflow := r.tiny, inexact := r.inexact }

/-- The flags as the byte at bits 15-8 of a completion value: bit 8 invalid up to bit 15 flushed. -/
def EFlags.byte (f : EFlags) : BitVec 8 :=
  BitVec.ofBool f.flushed ++ BitVec.ofBool f.outlier ++ BitVec.ofBool f.saturated ++ BitVec.ofBool f.nan
    ++ BitVec.ofBool f.inexact ++ BitVec.ofBool f.underflow ++ BitVec.ofBool f.overflow ++ BitVec.ofBool f.invalid

end Sys2Proof.Machine
end

