-- ==== Sys2Proof/Machine/Operands.lean ====
section
/-! DEFINITION. The operands of an instruction: guards (R26), full and empty sources with their X-bits (R23, R24), blocked
destinations (R22, R190), poisoned sources (R318), and the two ways a result reaches a register (R20). -/

namespace Sys2Proof.Machine

/-- A source field: a scalar or handle register, its X-bit, and the detail of R24. -/
structure Source where
  handle : Bool
  reg    : Nat
  x      : Bool
  detail : Nat
deriving DecidableEq, Repr

/-- Field A. -/
def srcA (r : Reg) (x : Bool) : Source := { handle := false, reg := r.toNat, x := x, detail := 0 }

/-- Field B. -/
def srcB (r : Reg) (x : Bool) : Source := { handle := false, reg := r.toNat, x := x, detail := 1 }

/-- Field D as store data. -/
def srcD (r : Reg) (x : Bool) : Source := { handle := false, reg := r.toNat, x := x, detail := 2 }

/-- A source without an X-bit (R23). -/
def srcPlain (r : Reg) : Source := { handle := false, reg := r.toNat, x := false, detail := 0 }

/-- Field A as a handle register (R43). -/
def srcH (h : HReg) (x : Bool) : Source := { handle := true, reg := h.toNat, x := x, detail := 0 }

/-- The completion pair of an AE word: both registers under XS (R238); SC = 0 names none. -/
def srcPair (sc : Reg) (x : Bool) : List Source :=
  if sc = 0 then [] else
    [{ handle := false, reg := sc.toNat, x := x, detail := 3 }, { handle := false, reg := (sc + 1).toNat, x := x, detail := 3 }]

/-- Is the source FULL? -/
def Slot.isFull (t : Slot) (o : Source) : Bool :=
  if o.handle then decide ((t.handle (BitVec.ofNat 4 o.reg)).mark = .full) else decide ((t.reg (BitVec.ofNat 5 o.reg)).mark = .full)

/-- TVAL1 of a class 1 trap: the register number, bit 8 for a handle register (R24). -/
def Source.tval (o : Source) : Word := BitVec.ofNat 64 (o.reg + if o.handle then 256 else 0)

/-- Does the source carry a poison mark (R318)? -/
def Slot.isPoisoned (t : Slot) (o : Source) : Bool := !o.handle && (t.reg (BitVec.ofNat 5 o.reg)).poison

/-- Does a destination make the bundle wait: PENDING for any producer, NAMED for a long one or a MINT (R22, R190)? -/
def Slot.blocked (t : Slot) (long : Bool) (d : Reg) : Bool :=
  decide ((t.reg d).mark = .pending) || (long && decide ((t.reg d).mark = .named))

/-- The same for a handle register. -/
def Slot.blockedH (t : Slot) (d : HReg) : Bool := decide ((t.handle d).mark = .pending)

/-- Place and physical address of the uncorrectable data behind a poison mark (R318). -/
def State.poisonOf (s : State) (t : Slot) (o : Source) : Nat × Word :=
  match s.poisons.find? fun p => p.1 == t.id.uid && p.2.1 == absReg t.depth (BitVec.ofNat 5 o.reg) with
  | some p => (p.2.2.1, p.2.2.2)
  | none => (0, 0)

/-- A FAULTED command of a strand whose part-way trap is not yet taken, among those that satisfy `p` (R252, R293). -/
def State.owedFault (s : State) (uid : Nat) (p : Cmd → Bool) : Option Cmd :=
  (s.cmds.find fun _ c => c.uid == uid && c.owed && decide (c.state = .faulted) && p c).map (·.2)

/-- The part-way trap of a command, taken once (R252, R293). -/
def State.takeOwed (s : State) (c : Cmd) : State :=
  ({ s with cmds := s.cmds.set c.id { c with owed := false } } : State).takeTrapNow 7 c.detail c.target

/-- The register, by frame, of a strand that a live name of this device is bound to (R188). -/
def State.boundReg (s : State) (uid : Nat) (n : Word) : Option Nat :=
  match nameCore n with
  | none => none
  | some c =>
    let e := s.mintEntry c (nameIndex n)
    if nameDevice n = s.plat.device ∧ e.state = .reg ∧ e.gen.toNat = bitsOf n 8 20 ∧ e.uid = uid then some e.reg else none

/-- The part-way trap that reading one of some sources takes: the register is bound to the name that a FAULTED command of the
strand has as its target (R252), at TL 0 (R293). -/
def State.owedRead (s : State) (srcs : List Source) : Option Cmd :=
  let t := s.src
  if t.status.tl ≠ 0 then none
  else s.owedFault t.id.uid fun c => c.hasComp && c.control.getLsbD 3 &&
    match s.boundReg t.id.uid c.target with
    | some r => srcs.any fun o => !o.handle && absReg t.depth (BitVec.ofNat 5 o.reg) == r
    | none => false

/-- An instruction without effect, or one that only lets the strand go on. -/
def State.goOn (s : State) : State := s.withFlow .seq

/-- The guard of an instruction (R26): a false guard leaves it without effect. -/
def State.guarded (s : State) (g : PReg) (k : State) : State := if s.src.pred g then k else s.goOn

/-- The checks that a bundle's sources and destinations take before the instruction acts: a source that is bound to the
target of a FAULTED command takes its trap (R252); an empty source with X = 1 traps
with class 1, the lowest detail first; any other empty source and a blocked destination wait; a poisoned source traps
with class 11 (R22-R24, R39, R318). -/
def State.operands (s : State) (srcs : List Source) (dsts : List Reg) (long : Bool) (k : State) : State :=
  let t := s.src
  match s.owedRead srcs with
  | some c => s.takeOwed c
  | none => match srcs.find? fun o => o.x && !t.isFull o with
  | some o => s.takeTrapNow 1 o.detail o.tval
  | none =>
    if !(srcs.all t.isFull) || dsts.any (t.blocked long) then s.waits
    else match srcs.find? t.isPoisoned with
      | some o => let p := s.poisonOf t o; s.takeTrap 11 (p.1 * 8) p.2
      | none => k

/-- The value of a source register. -/
def State.rd (s : State) (n : Reg) : Word := s.src.val n

/-- The image in a source handle register. -/
def State.rdH (s : State) (n : HReg) : HandleImage := (s.src.handle n).val

/-- A short producer's result (R20). -/
def State.short (s : State) (d : Reg) (v : Word) : State := s.goOn.writeReg d v

/-- A long producer that delivers a value known at issue, `n` cycles later (R70). -/
def State.long (s : State) (d : Reg) (k : OutKind) (n : Nat) (v : DelVal) : State :=
  (s.goOn.startLong d k).after n (.deliver s.me.id.uid s.nextTag v)

/-- A long producer that delivers within `bound` cycles. -/
def State.longWithin (s : State) (d : Reg) (k : OutKind) (bound : Nat) (v : DelVal) : State :=
  (s.goOn.startLong d k).within bound (.deliver s.me.id.uid s.nextTag v)

end Sys2Proof.Machine
end

