-- ==== Sys2Proof/Machine/Scalar.lean ====
section
/-! DEFINITION. Integer register operations, compares, predicates and scalar floating point (R72-R83). -/

namespace Sys2Proof.Machine

/-- The outcomes of this machine's meanings: the spec gives every one an effect. -/
abbrev Out := Host.Outcome State Fault Refusal

-- ==== shared operations ====

/-- A two-source short operation on integers (R72). -/
def State.alu2 (s : State) (f : Word → Word → Word) (d a b : Reg) (xa xb : Bool) (g : PReg) : State :=
  s.guarded g (s.operands [srcA a xa, srcB b xb] [d] false (s.short d (f (s.rd a) (s.rd b))))

/-- A one-source short operation. -/
def State.alu1 (s : State) (f : Word → Word) (d a : Reg) (xa : Bool) (g : PReg) : State :=
  s.guarded g (s.operands [srcA a xa] [d] false (s.short d (f (s.rd a))))

/-- The divider is taken for `n` cycles (R71). -/
def State.takeDivider (s : State) (n : Nat) : State := s.modCore s.myCore fun c => { c with divFree := s.now + n }

/-- Is the core's divider busy (R71)? -/
def State.dividerBusy (s : State) : Bool := decide (s.now < (s.core s.myCore).divFree)

/-- A divide-class integer operation: a zero divisor traps at issue, even when the divider is busy or D is s0; otherwise
the result comes after 20 cycles (R56, R70-R72). -/
def State.divide (s : State) (f : Word → Word → Word) (d a b : Reg) (xa xb : Bool) (g : PReg) : State :=
  s.guarded g (s.operands [srcA a xa, srcB b xb] [d] true
    (if s.rd b = 0 then s.takeTrap 2 1 (s.rd a)
     else if s.dividerBusy then s.waits
     else (s.takeDivider 20).long d .arith 20 (.val (f (s.rd a) (s.rd b)))))

/-- Number of leading zero bits among the low `n` bits. -/
def leadingZeros (w : Word) : Nat → Nat
  | 0 => 0
  | n + 1 => if w.getLsbD n then 0 else 1 + leadingZeros w n

/-- Number of one bits among the low `n` bits. -/
def oneBits (w : Word) : Nat → Nat
  | 0 => 0
  | n + 1 => (if w.getLsbD n then 1 else 0) + oneBits w n

/-- The shift count B[5:0] (R55). -/
def shiftCount (b : Word) : Nat := b.toNat % 64

/-- MULH: the high 64 bits of the signed product (R55). -/
def mulHigh (a b : Word) : Word := ((a.signExtend 128 * b.signExtend 128).extractLsb' 64 64)

/-- DIV: truncated toward zero; -2^63 by -1 wraps to -2^63 (R56). -/
def divSigned (a b : Word) : Word := BitVec.ofInt 64 (a.toInt.tdiv b.toInt)

/-- REM: A - DIV(A, B) x B (R72). -/
def remSigned (a b : Word) : Word := a - divSigned a b * b

/-- ADD (R72): A + B mod 2^64. -/
def execAdd (d a b : Reg) (xa xb : Bool) (g : PReg) (s : State) : Out :=
  .next (s.alu2 (fun a b => a + b) d a b xa xb g)

/-- SUB (R72): A - B mod 2^64. -/
def execSub (d a b : Reg) (xa xb : Bool) (g : PReg) (s : State) : Out :=
  .next (s.alu2 (fun a b => a - b) d a b xa xb g)

/-- MUL (R72): (A x B)[63:0]. -/
def execMul (d a b : Reg) (xa xb : Bool) (g : PReg) (s : State) : Out :=
  .next (s.alu2 (fun a b => a * b) d a b xa xb g)

/-- MULH (R72): (signed A x signed B)[127:64]. -/
def execMulh (d a b : Reg) (xa xb : Bool) (g : PReg) (s : State) : Out :=
  .next (s.alu2 (fun a b => mulHigh a b) d a b xa xb g)

/-- DIV (R72): signed quotient. -/
def execDiv (d a b : Reg) (xa xb : Bool) (g : PReg) (s : State) : Out :=
  .next (s.divide (divSigned) d a b xa xb g)

/-- DIVU (R72): unsigned quotient. -/
def execDivu (d a b : Reg) (xa xb : Bool) (g : PReg) (s : State) : Out :=
  .next (s.divide (fun a b => a / b) d a b xa xb g)

/-- REM (R72): remainder with the sign of the dividend. -/
def execRem (d a b : Reg) (xa xb : Bool) (g : PReg) (s : State) : Out :=
  .next (s.divide (remSigned) d a b xa xb g)

/-- REMU (R72): unsigned remainder. -/
def execRemu (d a b : Reg) (xa xb : Bool) (g : PReg) (s : State) : Out :=
  .next (s.divide (fun a b => a % b) d a b xa xb g)

/-- AND (R72): A AND B. -/
def execAnd (d a b : Reg) (xa xb : Bool) (g : PReg) (s : State) : Out :=
  .next (s.alu2 (fun a b => a &&& b) d a b xa xb g)

/-- OR (R72): A OR B. -/
def execOr (d a b : Reg) (xa xb : Bool) (g : PReg) (s : State) : Out :=
  .next (s.alu2 (fun a b => a ||| b) d a b xa xb g)

/-- XOR (R72): A XOR B. -/
def execXor (d a b : Reg) (xa xb : Bool) (g : PReg) (s : State) : Out :=
  .next (s.alu2 (fun a b => a ^^^ b) d a b xa xb g)

/-- ANDN (R72): A AND NOT B. -/
def execAndn (d a b : Reg) (xa xb : Bool) (g : PReg) (s : State) : Out :=
  .next (s.alu2 (fun a b => a &&& ~~~b) d a b xa xb g)

/-- SHL (R72): left by B[5:0], zeros in. -/
def execShl (d a b : Reg) (xa xb : Bool) (g : PReg) (s : State) : Out :=
  .next (s.alu2 (fun a b => a <<< shiftCount b) d a b xa xb g)

/-- SHR (R72): right by B[5:0], zeros in. -/
def execShr (d a b : Reg) (xa xb : Bool) (g : PReg) (s : State) : Out :=
  .next (s.alu2 (fun a b => a >>> shiftCount b) d a b xa xb g)

/-- SAR (R72): right by B[5:0], copies of A[63] in. -/
def execSar (d a b : Reg) (xa xb : Bool) (g : PReg) (s : State) : Out :=
  .next (s.alu2 (fun a b => a.sshiftRight (shiftCount b)) d a b xa xb g)

/-- ROT (R72): rotated left by B[5:0]. -/
def execRot (d a b : Reg) (xa xb : Bool) (g : PReg) (s : State) : Out :=
  .next (s.alu2 (fun a b => a.rotateLeft (shiftCount b)) d a b xa xb g)

/-- CLZ (R72, R74): number of leading zero bits, 64 for zero. -/
def execClz (d a : Reg) (xa : Bool) (g : PReg) (s : State) : Out :=
  .next (s.alu1 (fun a => BitVec.ofNat 64 (leadingZeros a 64)) d a xa g)

/-- POPC (R72, R74): number of one bits. -/
def execPopc (d a : Reg) (xa : Bool) (g : PReg) (s : State) : Out :=
  .next (s.alu1 (fun a => BitVec.ofNat 64 (oneBits a 64)) d a xa g)

/-- MOV (R72, R74): the source. -/
def execMov (d a : Reg) (xa : Bool) (g : PReg) (s : State) : Out :=
  .next (s.alu1 (fun a => a) d a xa g)

/-- MIN (R72): smaller, signed. -/
def execMin (d a b : Reg) (xa xb : Bool) (g : PReg) (s : State) : Out :=
  .next (s.alu2 (fun a b => if b.slt a then b else a) d a b xa xb g)

/-- MAX (R72): larger, signed. -/
def execMax (d a b : Reg) (xa xb : Bool) (g : PReg) (s : State) : Out :=
  .next (s.alu2 (fun a b => if a.slt b then b else a) d a b xa xb g)

/-- MINU (R72): smaller, unsigned. -/
def execMinu (d a b : Reg) (xa xb : Bool) (g : PReg) (s : State) : Out :=
  .next (s.alu2 (fun a b => if b.ult a then b else a) d a b xa xb g)

/-- MAXU (R72): larger, unsigned. -/
def execMaxu (d a b : Reg) (xa xb : Bool) (g : PReg) (s : State) : Out :=
  .next (s.alu2 (fun a b => if a.ult b then b else a) d a b xa xb g)

/-- SEL (R75): A where P[G] is 1, else B; G is no guard. -/
def execSel (d a b : Reg) (xa xb : Bool) (p : PReg) (s : State) : Out :=
  .next (s.operands [srcA a xa, srcB b xb] [d] false (s.short d (if s.src.pred p then s.rd a else s.rd b)))

/-- ADDI (R73): A + sign_extend(IMM15). -/
def execAddi (d a : Reg) (xa : Bool) (imm : BitVec 15) (s : State) : Out :=
  .next (s.alu1 (fun a => a + imm.signExtend 64) d a xa 0)

/-- ANDI (R73): A AND sign_extend(IMM15). -/
def execAndi (d a : Reg) (xa : Bool) (imm : BitVec 15) (s : State) : Out :=
  .next (s.alu1 (fun a => a &&& imm.signExtend 64) d a xa 0)

/-- ORI (R73): A OR sign_extend(IMM15). -/
def execOri (d a : Reg) (xa : Bool) (imm : BitVec 15) (s : State) : Out :=
  .next (s.alu1 (fun a => a ||| imm.signExtend 64) d a xa 0)

/-- SHLI (R73): A left by IMM15[5:0]. -/
def execShli (d a : Reg) (xa : Bool) (n : BitVec 6) (s : State) : Out :=
  .next (s.alu1 (fun a => a <<< n.toNat) d a xa 0)

-- ==== compares and predicates (R76, R77) ====

/-- CMP.cc (R76). -/
def execCmp (d : PReg) (a b : Reg) (xa xb : Bool) (g : PReg) (cc : Cond) (s : State) : Out :=
  .next (s.guarded g (s.operands [srcA a xa, srcB b xb] [] false (s.goOn.writePred d (condHolds cc (s.rd a) (s.rd b)))))

/-- PAND (R77). -/
def execPand (d a b : PReg) (g : PReg) (s : State) : Out :=
  .next (s.guarded g (s.goOn.writePred d (s.src.pred a && s.src.pred b)))

/-- POR (R77). -/
def execPor (d a b : PReg) (g : PReg) (s : State) : Out :=
  .next (s.guarded g (s.goOn.writePred d (s.src.pred a || s.src.pred b)))

/-- PNOT (R77). -/
def execPnot (d a : PReg) (g : PReg) (s : State) : Out :=
  .next (s.guarded g (s.goOn.writePred d (!s.src.pred a)))

-- ==== scalar floating point (R78-R83) ====

/-- FMT.RND (R30). -/
def fmtRnd (f : BitVec 4) : Nat := f.toNat % 4

/-- FMT.SAT. -/
def fmtSat (f : BitVec 4) : Bool := f.getLsbD 2

/-- FMT.DAZ. -/
def fmtDaz (f : BitVec 4) : Bool := f.getLsbD 3

/-- A code with DAZ applied: a denormal reads as a zero of the same sign (R63). -/
def FFmt.dazCode (f : FFmt) (daz : Bool) (code : Nat) : Nat :=
  if daz && f.denormal code then f.signed (f.neg code) 0 else code

/-- fin(v) of R69 as a code. -/
def finCode (fmt : BitVec 4) (v : Word) : Nat := fp32.dazCode (fmtDaz fmt) (v.toNat % 2 ^ 32)

def fin (fmt : BitVec 4) (v : Word) : FVal := fp32.value (finCode fmt v)

/-- The scalar result of an operation: a NaN input wins (R67), an invalid operation makes a new NaN of the core (R66), and
any other result is rounded once (R60). -/
def scalarResult (core : Nat) (fmt : BitVec 4) (ins : List FVal) (r : FRes) : Word :=
  match nanPick ins with
  | some c => BitVec.ofNat 64 c
  | none => match r with
    | none => BitVec.ofNat 64 (newNaN core)
    | some v => BitVec.ofNat 64 (v.to32 (fmtRnd fmt)).code

/-- A two-source scalar operation delivered after `n` cycles (R70, R78). -/
def State.fp2 (s : State) (n : Nat) (f : Nat → FVal → FVal → FRes) (d a b : Reg) (xa xb : Bool) (g : PReg) : State :=
  let m := s.src.fmt
  let x := fin m (s.rd a)
  let y := fin m (s.rd b)
  s.guarded g (s.operands [srcA a xa, srcB b xb] [d] true
    (s.long d .arith n (.val (scalarResult s.myCore m [x, y] (f (fmtRnd m) x y)))))

/-- FADD (R78). -/
def execFadd (d a b : Reg) (xa xb : Bool) (g : PReg) (s : State) : Out :=
  .next (s.fp2 4 (fun r x y => x.add r y) d a b xa xb g)

/-- FSUB (R78). -/
def execFsub (d a b : Reg) (xa xb : Bool) (g : PReg) (s : State) : Out :=
  .next (s.fp2 4 (fun r x y => x.add r y.negate) d a b xa xb g)

/-- FMUL (R78). -/
def execFmul (d a b : Reg) (xa xb : Bool) (g : PReg) (s : State) : Out :=
  .next (s.fp2 4 (fun _ x y => x.mul y) d a b xa xb g)

/-- FDIV (R78): in the divider, 12 cycles (R70, R71). -/
def execFdiv (d a b : Reg) (xa xb : Bool) (g : PReg) (s : State) : Out :=
  let m := s.src.fmt
  let x := fin m (s.rd a)
  let y := fin m (s.rd b)
  .next (s.guarded g (s.operands [srcA a xa, srcB b xb] [d] true
    (if s.dividerBusy then s.waits
     else (s.takeDivider 12).long d .arith 12 (.val (scalarResult s.myCore m [x, y] (x.div y))))))

/-- FSQRT (R78): in the divider, 14 cycles. -/
def execFsqrt (d a : Reg) (xa : Bool) (g : PReg) (s : State) : Out :=
  let m := s.src.fmt
  let x := fin m (s.rd a)
  .next (s.guarded g (s.operands [srcA a xa] [d] true
    (if s.dividerBusy then s.waits
     else (s.takeDivider 14).long d .arith 14 (.val (scalarResult s.myCore m [x] x.sqrt)))))

/-- FFMA (R78): D is the addend and a source without an X-bit; one rounding. -/
def execFfma (d a b : Reg) (xa xb : Bool) (g : PReg) (s : State) : Out :=
  let m := s.src.fmt
  let x := fin m (s.rd a)
  let y := fin m (s.rd b)
  let z := fin m (s.rd d)
  .next (s.guarded g (s.operands [srcA a xa, srcB b xb, srcPlain d] [d] true
    (s.long d .arith 4 (.val (scalarResult s.myCore m [x, y, z] (x.fma (fmtRnd m) y z))))))

/-- The lesser or greater input exactly as fin read it, -0 below +0; a NaN input wins (R79). -/
def fpPick (fmt : BitVec 4) (less : Bool) (a b : Word) : Word :=
  let x := fin fmt a
  let y := fin fmt b
  match nanPick [x, y] with
  | some c => BitVec.ofNat 64 c
  | none =>
    let takeB := if less then y.below x else x.below y
    BitVec.ofNat 64 (finCode fmt (if takeB then b else a))

/-- FMIN (R79). -/
def execFmin (d a b : Reg) (xa xb : Bool) (g : PReg) (s : State) : Out :=
  .next (s.guarded g (s.operands [srcA a xa, srcB b xb] [d] true
    (s.long d .arith 4 (.val (fpPick s.src.fmt true (s.rd a) (s.rd b))))))

/-- FMAX (R79). -/
def execFmax (d a b : Reg) (xa xb : Bool) (g : PReg) (s : State) : Out :=
  .next (s.guarded g (s.operands [srcA a xa, srcB b xb] [d] true
    (s.long d .arith 4 (.val (fpPick s.src.fmt false (s.rd a) (s.rd b))))))

/-- FSGN (R80): the sign of B on the bits of A; 2 cycles. -/
def execFsgn (d a b : Reg) (xa xb : Bool) (g : PReg) (s : State) : Out :=
  .next (s.guarded g (s.operands [srcA a xa, srcB b xb] [d] true
    (s.long d .arith 2 (.val ((BitVec.extractLsb' 31 1 (s.rd b) ++ BitVec.extractLsb' 0 31 (s.rd a)).setWidth 64)))))

/-- The class of a code (R81), as the number of its bit. -/
def fclassBit (code : Nat) : Nat :=
  let s := fp32.neg code
  match fp32.value code with
  | .nan c => if c / 2 ^ 22 % 2 = 1 then 9 else 8
  | .inf _ => if s then 0 else 7
  | .num x => if x.isZero then (if s then 3 else 4)
    else if fp32.denormal code then (if s then 2 else 5) else (if s then 1 else 6)

/-- FCLASS (R81): one bit, without DAZ; 2 cycles. -/
def execFclass (d a : Reg) (xa : Bool) (g : PReg) (s : State) : Out :=
  .next (s.guarded g (s.operands [srcA a xa] [d] true
    (s.long d .arith 2 (.val (BitVec.ofNat 64 (2 ^ fclassBit ((s.rd a).toNat % 2 ^ 32)))))))

/-- FCMP.cc (R82): short; signalling NaNs are treated as quiet ones. -/
def execFcmp (d : PReg) (a b : Reg) (xa xb : Bool) (g : PReg) (cc : FCond) (s : State) : Out :=
  .next (s.guarded g (s.operands [srcA a xa, srcB b xb] [] false
    (s.goOn.writePred d (fcondHolds cc (fin s.src.fmt (s.rd a)) (fin s.src.fmt (s.rd b))))))

/-- A value clamped to [lo, hi]. -/
def clampInt (lo hi v : Int) : Int := if v < lo then lo else if hi < v then hi else v

/-- FP32 to an integer: NaN gives 0, out of range clamps (R68). -/
def fpToInt (rnd : Nat) (lo hi : Int) (v : FVal) : Word :=
  match v with
  | .nan _ => 0
  | .inf n => BitVec.ofInt 64 (if n then lo else hi)
  | .num x => BitVec.ofInt 64 (clampInt lo hi (x.toInt rnd))

/-- The NaN of a narrow format from an FP32 NaN (R68, FCVT 4 and 5). -/
def narrowNaN (f : FFmt) (code : Nat) : Nat :=
  if f.m = 7 then (let c := code / 2 ^ 16 % 2 ^ 16; if c / 64 % 2 = 1 then c else c + 64)
  else f.signed (fp32.neg code) (0x7c00 + 512 + code / 2 ^ 13 % 512)

/-- FP32 to BF16 or FP16 (R68): with SAT, an overflow from a finite input gives the largest finite value. -/
def fpNarrow (f : FFmt) (rnd : Nat) (sat : Bool) (v : FVal) : Nat :=
  match v with
  | .nan c => narrowNaN f c
  | .inf n => f.infCode n
  | .num x => let r := f.round rnd x; if r.overflow && sat then f.signed x.neg f.top else r.code

/-- BF16 or FP16 to FP32, exactly (R68). -/
def fpWiden (f : FFmt) (code : Nat) : Nat :=
  match f.value code with
  | .nan c =>
    if f.m = 7 then (let w := c * 2 ^ 16; if w / 2 ^ 22 % 2 = 1 then w else w + 2 ^ 22)
    else fp32.signed (f.neg c) (0x7f800000 + 2 ^ 22 + c % 512 * 2 ^ 13)
  | .inf n => fp32.infCode n
  | .num x => (fp32.round 0 x).code

/-- The conversion of FCVT by its kind (R68). -/
def fcvtResult (fmt : BitVec 4) (k : FcvtKind) (a : Word) : Word :=
  let r := fmtRnd fmt
  match k with
  | .i32 => fpToInt r (-2 ^ 31) (2 ^ 31 - 1) (fin fmt a)
  | .u32 => fpToInt r 0 (2 ^ 32 - 1) (fin fmt a)
  | .i64 => fpToInt r (-2 ^ 63) (2 ^ 63 - 1) (fin fmt a)
  | .u64 => fpToInt r 0 (2 ^ 64 - 1) (fin fmt a)
  | .bf16 => BitVec.ofNat 64 (fpNarrow bf16 r (fmtSat fmt) (fin fmt a))
  | .fp16 => BitVec.ofNat 64 (fpNarrow fp16 r (fmtSat fmt) (fin fmt a))
  | .fromBf16 => BitVec.ofNat 64 (fpWiden bf16 (bf16.dazCode (fmtDaz fmt) (a.toNat % 2 ^ 16)))
  | .fromFp16 => BitVec.ofNat 64 (fpWiden fp16 (fp16.dazCode (fmtDaz fmt) (a.toNat % 2 ^ 16)))

/-- FCVT (R83): 3 cycles. -/
def execFcvt (d a : Reg) (k : FcvtKind) (xa : Bool) (g : PReg) (s : State) : Out :=
  .next (s.guarded g (s.operands [srcA a xa] [d] true (s.long d .arith 3 (.val (fcvtResult s.src.fmt k (s.rd a))))))

/-- The integer that ICVT converts (R68). -/
def icvtSource (k : IcvtKind) (a : Word) : Int :=
  match k with
  | .i32 => (BitVec.extractLsb' 0 32 a).toInt
  | .u32 => (a.toNat % 2 ^ 32 : Nat)
  | .i64 => a.toInt
  | .u64 => a.toNat

/-- ICVT (R83): 3 cycles. -/
def execIcvt (d a : Reg) (k : IcvtKind) (xa : Bool) (g : PReg) (s : State) : Out :=
  .next (s.guarded g (s.operands [srcA a xa] [d] true
    (s.long d .arith 3 (.val (BitVec.ofNat 64 (fp32.round (fmtRnd s.src.fmt) (Exact.ofInt (icvtSource k (s.rd a)))).code)))))

end Sys2Proof.Machine
end

