-- ==== Sys2Proof/Machine/Access.lean ====
section
/-! DEFINITION. From an address to storage: translation (R319-R325), the physical ranges (R146), the local space (R147,
R148, R339), homes (R160), the caches that a program can observe (R154, R155, R161, R210), and the state U (R213). -/

namespace Sys2Proof.Machine

/-- What a trap reports: class, detail and TVAL. -/
structure TrapInfo where
  cls    : Nat
  detail : Nat
  tval   : Word
deriving DecidableEq, Repr

def State.trapWith (s : State) (e : TrapInfo) : State := s.takeTrap e.cls e.detail e.tval

/-- A checked global access: its physical address, where it leads, and the attributes of its page. -/
structure Acc where
  pa     : Word
  target : Target
  melt   : Bool
  device : Bool
deriving DecidableEq, Repr

/-- On whose behalf an access is made. -/
structure Who where
  core : Nat
  part : Nat
  asid : Nat
  priv : Priv
deriving DecidableEq, Repr

/-- The issuing strand. -/
def State.whoMe (s : State) : Who :=
  { core := s.myCore, part := s.me.id.part, asid := s.me.id.asid, priv := s.me.status.priv }

-- ==== partitions and their memory (R159, R175) ====

/-- Number of quanta of a mask. -/
def popCount (m : BitVec 64) : Nat := ((List.range 64).filter m.getLsbD).length

/-- HBM bytes of a partition: 4 channels of 1.5 GiB for each quantum (R159). -/
def Partition.capacity (p : Partition) : Nat := popCount p.quanta * 6 * 2 ^ 30

/-- The HBM channels of a partition, four for each quantum, in the order of die, stop and channel: 4 x quantum + channel (R159). -/
def Partition.channels (p : Partition) : List Nat :=
  ((List.range 64).filter p.quanta.getLsbD).flatMap fun q => [4 * q, 4 * q + 1, 4 * q + 2, 4 * q + 3]

/-- The channel of a local physical address, and its offset there: 2 KiB pieces go round the partition's channels (R159). -/
def Partition.channelOf (p : Partition) (lpa : Nat) : Nat × Nat :=
  let l := p.channels
  (l.getD (lpa / 2048 % l.length) 0, lpa / 2048 / l.length * 2048 + lpa % 2048)

/-- Is the local physical address in the payload heap (R175)? -/
def Partition.inHeap (p : Partition) (lpa : Nat) : Bool :=
  let base := bitsOf p.fheap 16 33 * 65536
  base ≤ lpa && lpa < base + bitsOf p.fheap 0 16 * 65536

/-- The memory key of an HBM byte. -/
def hbmKey (part lpa : Nat) : Nat := part * 2 ^ 49 + lpa

/-- The memory key of a byte of host memory behind a port. -/
def hostKey (port addr : Nat) : Nat := 2 ^ 65 + port * 2 ^ 64 + addr

/-- The partition that owns a cluster's quantum (R5). -/
def State.ownerOf (s : State) (q : Nat) : Option Nat := (s.parts.find fun _ p => p.quanta.getLsbD q).map (·.1)

/-- Where a physical address leads, or the class 3 reason that refuses it (R146, R175, R370). `typed` says that the page
has TYPE 01. -/
def State.resolve (s : State) (w : Who) (typed : Bool) (pa : Word) : Except Nat Target :=
  let dev := bitsOf pa 49 15
  let lpa := bitsOf pa 0 49
  let p := s.part w.part
  if dev ≠ s.plat.device then
    (if 16416 ≤ dev || !s.plat.drvfeat.getLsbD 3 then .error 2 else .ok (.remote dev lpa))
  else if lpa < p.capacity then (if p.inHeap lpa = true then .error 5 else .ok (.hbm lpa))
  else if lpa < 0x100000000000 then .error 2
  else if lpa < 0x1f0000000000 then
    let off := lpa - 0x100000000000
    if p.hmap.getLsbD 0 && decide (off < bitsOf p.hmap 8 14 * 2 ^ 30) then
      .ok (.host (bitsOf p.hmap 1 1) (bitsOf p.hmap 30 34 * 2 ^ 30 + off))
    else .error 2
  else if lpa < 0x200000000000 then (if w.priv = .u || !typed then .error 3 else .ok (.control lpa))
  else .error 2

-- ==== the local space (R147, R148, R95, R339) ====

/-- Base and limit of a region by the partition word (R149, R332), in 16 KiB units. -/
def poolRegion (pool : Word) : Nat → Nat × Nat
  | 0 => (bitsOf pool 0 6, bitsOf pool 6 6)
  | 1 => (0, bitsOf pool 0 6)
  | _ => (bitsOf pool 0 6 + bitsOf pool 6 6, bitsOf pool 12 6)

/-- The same by an entry of the fold table (R337). -/
def foldRegion (w : Word) : Nat → Nat × Nat
  | 0 => (bitsOf w 40 6, bitsOf w 34 6)
  | 1 => (bitsOf w 52 6, bitsOf w 46 6)
  | _ => (bitsOf w 28 6, bitsOf w 22 6)

/-- Is the cluster folded (R338)? -/
def Cluster.folded (c : Cluster) : Bool := c.fold.any fun e => e.2.getLsbD 63

/-- The SEG of an unfolded slot (R339). -/
def plainSeg (slot : Nat) (pool : Word) : Word :=
  let sh (r k : Nat) := (poolRegion pool r).1 * 2 ^ (k + 6) + (poolRegion pool r).2 * 2 ^ k
  BitVec.ofNat 64 (slotNo slot * 2 ^ 41 + coreNo (coreOf slot) * 2 ^ 36 + sh 1 24 + sh 0 12 + sh 2 0)

/-- The core and the base and limit of a region that an explicit CORE names in a cluster (R147, R339). -/
def State.explicitCore (s : State) (q ctxKey v region : Nat) : Option (Nat × Nat × Nat) :=
  let c := s.cluster q
  if c.folded then
    let e := c.fold.get 0 v
    if e.getLsbD 63 then some (coreAt q (bitsOf e 58 5), (foldRegion e region).1, (foldRegion e region).2) else none
  else
    let p := (s.context ctxKey).pool
    some (coreAt q v, (poolRegion p region).1, (poolRegion p region).2)

/-- A local address checked and resolved to a core and a pool offset (R95, in the order of R93); the reasons are those of
kind 3 of R315. `seg` resolves CORE 31. -/
def State.localAt (s : State) (core ctxKey : Nat) (seg : Word) (priv : Priv) (store : Bool) (size a : Nat) :
    Except Nat (Nat × Nat) :=
  let n := a / 2 ^ 22 % 32
  let region := a / 2 ^ 20 % 4
  let off := a % 2 ^ 20
  if !aligned a size then .error 0
  else if 2 ^ 27 ≤ a || (24 ≤ n && n ≤ 30) || region = 3 then .error 2
  else
    let place := if n = 31 then some (core, (segRegion seg region).1, (segRegion seg region).2)
      else s.explicitCore (clusterOf core) ctxKey n region
    match place with
    | none => .error 3
    | some (c, base, limit) =>
      if limit * 16384 < off + size then .error 3
      else if region = 1 && store && priv = .u then .error 4
      else .ok (c, base * 16384 + off)

/-- A local address of the issuing strand. -/
def State.localMe (s : State) (store : Bool) (size : Nat) (ea : Word) : Except TrapInfo (Nat × Nat) :=
  let t := s.me
  match s.localAt s.myCore (contextKey t.id.part t.id.ctx) t.id.seg t.status.priv store size ea.toNat with
  | .ok p => .ok p
  | .error r => .error { cls := 3, detail := 24 + r, tval := ea }

-- ==== homes (R160) ====

/-- The hash of R160. -/
def sliceHash (a : Nat) : Nat :=
  (a / 2 ^ 11 % 256) ^^^ (a / 2 ^ 19 % 256) ^^^ (a / 2 ^ 27 % 256) ^^^ (a / 2 ^ 35 % 256) ^^^ (a / 2 ^ 43 % 64)

/-- A slice that a table names: one outside the partition is taken as the first slice of the partition, so that no table reaches another
partition's slice (R5, log 132). -/
def Partition.ownSlice (p : Partition) (i : Nat) : Nat :=
  if p.quanta.getLsbD (i / 4) then i else match p.channels with
    | [] => i
    | j :: _ => j

/-- The home slice of a line: die, stop, slice in 8 bits. -/
def State.homeOf (s : State) (part lpa : Nat) : Nat :=
  (s.part part).ownSlice ((s.part part).inSlice.get 0 (sliceHash lpa)).toNat

/-- Is the location homed on another die than the core's? Host memory counts as homed on every die (R215). -/
def State.offDie (s : State) (core part : Nat) : Target → Bool
  | .hbm lpa => s.homeOf part lpa / 64 != dieOf core
  | _ => false

/-- The key of a target: of memory that this device holds or reaches through CXL the memory's key; beyond those, a register's or another
device's place. -/
def targetKey (part : Nat) : Target → Nat
  | .hbm lpa => hbmKey part lpa
  | .host port a => hostKey port a
  | .control lpa => 2 ^ 66 + lpa
  | .remote dev lpa => 2 ^ 67 + dev * 2 ^ 49 + lpa

/-- The key of a buffered store's first byte. -/
def SbEntry.key (e : SbEntry) : Nat := targetKey e.part e.target

-- ==== read-modify-write (R225-R227) ====

/-- An operand of `size` bytes, signed. -/
def signedOf (size : Nat) (w : Word) : Int := (BitVec.ofNat (8 * size) w.toNat).toInt

/-- FADD of RED: FP32, to nearest even, denormals kept; NaNs by R67, and a NaN that is born carries `core` (R227). -/
def redFadd (core : Nat) (a b : Word) : Word :=
  let x := fp32.value (a.toNat % 2 ^ 32)
  let y := fp32.value (b.toNat % 2 ^ 32)
  scalarResult core 0 [x, y] (x.add 0 y)

/-- The update of RED (R227) on values of `size` bytes. -/
def redApply (op : RedOp) (core size : Nat) (old v : Word) : Word :=
  match op with
  | .add => old + v
  | .fadd => redFadd core old v
  | .min => if signedOf size v < signedOf size old then v else old
  | .max => if signedOf size old < signedOf size v then v else old
  | .and => old &&& v
  | .or => old ||| v
  | .xor => old ^^^ v

/-- The update of AMO (R225) on values of `size` bytes. -/
def amoApply (op : AmoOp) (size : Nat) (old v : Word) : Word :=
  match op with
  | .add => old + v
  | .swap => v
  | .and => old &&& v
  | .or => old ||| v
  | .xor => old ^^^ v
  | .min => if signedOf size v < signedOf size old then v else old
  | .max => if signedOf size old < signedOf size v then v else old

/-- The new value that a read-modify-write leaves, if it writes. -/
def rmwNew (r : Rmw) (core size : Nat) (old v : Word) : Option Word :=
  match r with
  | .amo op => some (amoApply op size old v)
  | .cas e => if (BitVec.ofNat (8 * size) old.toNat) = (BitVec.ofNat (8 * size) e.toNat) then some v else none
  | .red op => some (redApply op core size old v)

/-- The value that a read-modify-write delivers: sign-extended for MIN and MAX (R225). -/
def rmwOld (r : Rmw) (size : Nat) (old : Word) : Word :=
  match r with
  | .amo .min | .amo .max => signExtend (8 * size) old
  | _ => old

/-- Do two ranges of bytes meet? -/
def overlaps (a n b m : Nat) : Bool := a < b + m && b < a + n

-- ==== conditions between cores ====

/-- The virtual core on which a strand runs (R340): the core itself where the cluster is not folded or the strand has no slot. -/
def State.vcoreOf (s : State) (core uid : Nat) : Nat :=
  match s.slotOf uid with
  | some i => segVcore (s.slot i).id.seg
  | none => coreNo core

/-- Does the scope instance of strand `u` on core `a` contain strand `v` on core `b` of the device (R120, R340)? Without a strand on one
side, a folded cluster counts as one instance. -/
def State.inScope (s : State) (sc : Scope) (a u b v : Nat) : Bool :=
  let near (f : Nat → Nat) : Bool := clusterOf a == clusterOf b &&
    (((u == 0 || v == 0) && (s.cluster (clusterOf a)).folded) || f (s.vcoreOf a u) == f (s.vcoreOf b v))
  match sc with
  | .core => near id
  | .quad => near (· / 4)
  | .cluster => clusterOf a == clusterOf b
  | .die => dieOf a == dieOf b
  | _ => true

/-- The same for two cores, whatever strands are on them. -/
def State.coresIn (s : State) (sc : Scope) (a b : Nat) : Bool := a == b || s.inScope sc a 0 b 0

-- ==== melt granules at their home (R196) ====

/-- Where the data of a FILLING or LIVE granule stand, apart from what HBM holds under them. -/
def meltKey (key : Nat) : Nat := 2 ^ 61 + key

/-- The FILLING or LIVE granule that meets a range of HBM bytes. -/
def State.meltAt (s : State) (key n : Nat) : Option Melt := s.melts.find? fun m => overlaps m.key 2048 key n

/-- The parts of a range that lie in one granule each: key and length. -/
def granParts (key n : Nat) : List (Nat × Nat) :=
  (List.range ((key + n + 2047) / 2048 - key / 2048)).map fun i =>
    let lo := max key ((key / 2048 + i) * 2048)
    (lo, min (key + n) ((key / 2048 + i + 1) * 2048) - lo)

/-- Bytes as the home holds them: a LIVE granule's data, else HBM. -/
def State.readHome (s : State) (key n : Nat) : List Byte :=
  (granParts key n).flatMap fun p =>
    match s.meltAt p.1 p.2 with
    | some m => if m.live then s.mem.readBytes (meltKey p.1) p.2 else s.mem.readBytes p.1 p.2
    | none => s.mem.readBytes p.1 p.2

-- ==== the L2 slices (R157, R158) ====

/-- The set of a granule in its slice (R157), by its number in the memory's keys. -/
def granSet (gran : Nat) : Nat := (gran % 128) ^^^ (gran / 128 % 128)

/-- The home slice of a granule. -/
def State.homeOfGran (s : State) (gran : Nat) : Nat := s.homeOf (gran / 2 ^ 38) (gran % 2 ^ 38 * 2048)

/-- The FILLING and LIVE granules in the set of a slice that a granule has: each takes one of the 16 ways. -/
def State.meltsOfSet (s : State) (slice gran : Nat) : List Melt :=
  s.melts.filter fun m => s.homeOfGran (m.key / 2048) == slice && granSet (m.key / 2048) == granSet gran

/-- The LIVE granule of a full set that was filled earliest: all 16 ways must hold LIVE granules (R196). -/
def State.meltVictim (s : State) (slice gran : Nat) : Option Melt :=
  let l := s.meltsOfSet slice gran
  if l.length < 16 || l.any fun m => !m.live then none
  else l.foldl (fun a m => match a with
    | none => some m
    | some b => if m.order < b.order then some m else some b) none

/-- Replicas that satisfy `p` go, with their pieces' presence bits (R161). -/
def State.dropReplicas (s : State) (p : Nat × Line → Bool) : State :=
  let gone := s.replicas.filter p
  let s := gone.foldl (fun s r => s.modSlice r.1 fun x => { x with tags := x.tags.map fun t =>
    if t.rep && t.gran == r.2.line / 32 then { t with pres := t.pres &&& ~~~(1#32 <<< (r.2.line % 32)) } else t }) s
  { s with replicas := s.replicas.filter fun r => !p r }

/-- A granule leaves a slice: every L1D copy of its lines in the slice's die is invalidated first (R158); its dirty pieces are HBM's from
then on. A granule of replicas takes them with it (R161). -/
def State.dropTag (s : State) (slice : Nat) (t : GranTag) : State :=
  let s := s.modSlice slice fun x => { x with tags := x.tags.filter fun y => !(y.gran == t.gran && y.rep == t.rep) }
  if t.rep then { s with replicas := s.replicas.filter fun r => !(r.1 == slice && r.2.line / 32 == t.gran) }
  else s.eachCore fun c x =>
    if dieOf c = slice / 64 then { x with l1d := x.l1d.filter fun l => !(l.own && l.line / 32 == t.gran) } else x

/-- A way for a granule in its set: the least recently used granule is evicted where the 16 are taken; where all of them are LIVE melt
granules the earliest filled is to be evicted, and where some are FILLING no way comes free (R157, R196). Is there a way now? -/
def State.makeWay (s : State) (slice gran : Nat) : State × Bool :=
  let mates := (s.slice slice).tags.filter fun t => granSet t.gran == granSet gran
  if mates.length + (s.meltsOfSet slice gran).length < 16 then (s, true)
  else match mates.getLast? with
    | some t => (s.dropTag slice t, true)
    | none => match s.meltVictim slice gran with
      | some m => (s.after 0 (.meltEviction m.key), false)
      | none => (s, false)

/-- Pieces of a granule read or written in a slice: they are present under its tag, which is the last used (R157). -/
def State.touch (s : State) (slice gran : Nat) (rep : Bool) (mask : BitVec 32) (write : Bool) : State :=
  let mine (t : GranTag) : Bool := t.gran == gran && t.rep == rep
  let used (t : GranTag) : GranTag := { t with pres := t.pres ||| mask, dirty := if write then t.dirty ||| mask else t.dirty }
  match (s.slice slice).tags.find? mine with
  | some t => s.modSlice slice fun x => { x with tags := used t :: x.tags.filter fun y => !mine y }
  | none =>
    let w := s.makeWay slice gran
    if w.2 then w.1.modSlice slice fun x => { x with tags := used { gran := gran, rep := rep, pres := 0, dirty := 0 } :: x.tags } else w.1

/-- The pieces of granule `gran` that a range of bytes meets. -/
def pieceMask (gran key n : Nat) : BitVec 32 :=
  let lo := max key (gran * 2048) / 64 - gran * 32
  let hi := (min (key + n) (gran * 2048 + 2048) + 63) / 64 - gran * 32
  BitVec.ofNat 32 (2 ^ hi - 2 ^ lo)

/-- The pieces of a range read or written at their home slices; what is not present there is fetched under its granule's tag (R157). -/
def State.touchHome (s : State) (key n : Nat) (write : Bool) : State :=
  (List.range ((key + n + 2047) / 2048 - key / 2048)).foldl (fun s i =>
    let gran := key / 2048 + i
    if (s.meltAt (gran * 2048) 2048).isSome then s
    else s.touch (s.homeOfGran gran) gran false (pieceMask gran key n) write) s

/-- Is a line present in a slice? -/
def State.linePresent (s : State) (slice line : Nat) (rep : Bool) : Bool :=
  ((s.slice slice).tags.any fun t => t.gran == line / 32 && t.rep == rep && t.pres.getLsbD (line % 32))
    || (!rep && (s.meltAt (line * 64) 64).any fun m => m.live)

/-- The adjacent pair of two dies: 0 for 0-1, 1 for 2-3, 2 for 0-2, 3 for 1-3 (R358). -/
def diePair (a b : Nat) : Nat := if a / 2 = b / 2 then a / 2 else 2 + a % 2

/-- Are two dies as far apart as the diagonal ones: by their places, or because their pair has lost its link (R358, R359)? -/
def State.farDies (s : State) (a b : Nat) : Bool := a + b == 3 || s.plat.lostPairs.contains (diePair a b)

/-- Cycles from a core to a slice that holds the piece (R164, R359). -/
def State.sliceBound (s : State) (core slice : Nat) : Nat :=
  if slice / 64 = dieOf core then (if slice % 64 / 4 = clusterOf core % 16 then 24 else 40)
  else if s.farDies (slice / 64) (dieOf core) then 150 else 110

/-- Cycles of an access at the home (R164): the slice where it holds the line, else the HBM channel. -/
def State.homeBound (s : State) (core part lpa : Nat) : Nat :=
  let home := s.homeOf part lpa
  if s.linePresent home (hbmKey part lpa / 64) false then s.sliceBound core home
  else if home / 64 = dieOf core ∧ ((s.part part).channelOf lpa).1 / 64 = dieOf core then 300 else 420

-- ==== the state U (R213) ====

/-- The partials of `todo`, each merged at the home; which comes next is open. -/
def State.mergeAll (s : State) : Nat → List Partial → State
  | 0, _ => s
  | n + 1, l =>
    let i := s.choose l.length
    match l[i]? with
    | none => s
    | some p =>
      let old := leWord (s.mem.readBytes p.key p.size)
      let new := redApply p.op 0x7ff p.size old p.value
      State.mergeAll ({ s with mem := s.mem.writeBytes p.key (wordBytes p.size new) }.bump) n (l.eraseIdx i)

/-- Every partial of the lines that meet a range merged, before an access that is no RED (R213). -/
def State.mergePartials (s : State) (key n : Nat) : State :=
  let lo := key / 64 * 64
  let hi := (key + n + 63) / 64 * 64
  let hit := s.partials.filter fun p => overlaps p.key p.size lo (hi - lo)
  if hit.isEmpty then s
  else ({ s with partials := s.partials.filter fun p => !overlaps p.key p.size lo (hi - lo) }).mergeAll hit.length hit

/-- Bytes of a range as a read at the home finds them once every partial of its lines is merged and a FILLING granule is LIVE: what a
walk and other readers of whole structures see (R196, R213, R322). -/
def State.readMerged (s : State) (key n : Nat) : State × List Byte :=
  let s := s.mergePartials key n
  (s, (granParts key n).flatMap fun p =>
    match s.meltAt p.1 p.2 with
    | some _ => s.mem.readBytes (meltKey p.1) p.2
    | none => s.mem.readBytes p.1 p.2)

/-- Eight bytes of a partition's HBM as a word, as their home holds them. -/
def State.hbmWord (s : State) (part lpa : Nat) : Word := leWord (s.readMerged (hbmKey part lpa) 8).2

-- ==== drift queue descriptors (R394, R412, R419) ====

/-- The number under which the device itself and its ports write: it names no core and no die. -/
def deviceCore : Nat := 0xfff

/-- The local physical address of a queue's descriptor (R394). -/
def State.descAt (s : State) (part n : Nat) : Nat := bitsOf (s.part part).qbase 18 31 * 2 ^ 18 + 64 * n

def queueKey (part n : Nat) : Nat := part * 4096 + n

def State.dqueue (s : State) (part n : Nat) : DriftQueue := s.drift.queues.get DriftQueue.empty (queueKey part n)

def State.setQueue (s : State) (part n : Nat) (q : DriftQueue) : State :=
  { s with drift := { s.drift with queues := s.drift.queues.set (queueKey part n) q } }

def State.modQueue (s : State) (part n : Nat) (f : DriftQueue → DriftQueue) : State := s.setQueue part n (f (s.dqueue part n))

/-- The queues of whose descriptors a range of a partition's memory holds a byte. -/
def State.descsAt (s : State) (key n : Nat) : List Nat :=
  let part := key / 2 ^ 49
  let lo := part * 2 ^ 49 + s.descAt part 0
  if 2 ^ 55 ≤ key || !(s.part part).qbase.getLsbD 0 || key + n ≤ lo || lo + 2 ^ 18 ≤ key then []
  else
    let first := (key - lo) / 64
    (List.range ((min (key + n) (lo + 2 ^ 18) - lo + 63) / 64 - first)).map (first + ·)

/-- The rewriting of a descriptor lasts at most this long after its first store (DESIGN CHOICE, log 153). -/
def rewriteTime : Nat := 10000

/-- A store of a core to a queue's descriptor: a store of all 64 bytes is a rewrite of its own; one of a part begins a rewrite, until whose end the
queue reads the descriptor that it had (R419). The queue then looks whether its ERROR is cleared (R412). -/
def State.noteDesc (s : State) (core key n part i : Nat) (before : Memory) : State :=
  let at_ := part * 2 ^ 49 + s.descAt part i
  let q := s.dqueue part i
  let old := if key ≤ at_ ∧ at_ + 64 ≤ key + n then none
    else if q.old.isSome ∨ core = deviceCore then q.old else some (core, s.now, before.readBytes at_ 64)
  if core = deviceCore ∧ ¬ (q.error = true) ∧ q.old.isNone then s
  else
    let s := (s.modQueue part i fun q => { q with old := old }).after 0 (.driftTrigger part i)
    if q.old.isNone && old.isSome then s.after rewriteTime (.driftTrigger part i) else s

/-- What a store of a range means to the drift queues whose descriptors it changes. -/
def State.noteDescs (s : State) (core key n : Nat) (before : Memory) : State :=
  (s.descsAt key n).foldl (fun s i => s.noteDesc core key n (key / 2 ^ 49) i before) s

/-- A core's release ends the rewrites of descriptors that it has begun (R419, log 153). -/
def State.endRewrites (s : State) (core : Nat) : State :=
  s.drift.queues.foldl (fun s q =>
    if q.2.old.any fun o => o.1 == core then
      (s.modQueue (q.1 / 4096) (q.1 % 4096) fun q => { q with old := none }).after 0 (.driftTrigger (q.1 / 4096) (q.1 % 4096))
    else s) s

-- ==== writes at the home ====

/-- Bytes [off, off+n) of a line. -/
def Line.get (l : Line) (off n : Nat) : List Byte := (l.bytes.drop off).take n

/-- The bytes of a line that a range meets, as a mask. -/
def lineMask (line key n : Nat) : BitVec 64 :=
  let lo := max key (line * 64) - line * 64
  let hi := min (key + n) (line * 64 + 64) - line * 64
  BitVec.ofNat 64 (2 ^ hi - 2 ^ lo)

/-- A line with the bytes of a range that meet it replaced; `dirty` marks them. -/
def Line.put (l : Line) (key : Nat) (new : List Byte) (dirty : Bool) : Line :=
  let m := lineMask l.line key new.length
  { l with bytes := (List.range 64).map fun i =>
             if m.getLsbD i then new.getD (l.line * 64 + i - key) 0 else l.bytes.getD i 0
           dirty := if dirty then l.dirty ||| m else l.dirty &&& ~~~m }

/-- Does a line meet a range? -/
def Line.meets (l : Line) (key n : Nat) : Bool := overlaps (l.line * 64) 64 key n

/-- A core performs a store or releases: the cycle is noted (log 112). -/
def State.published (s : State) (core : Nat) : State :=
  if 24 ≤ coreNo core then s else s.modCore core fun c => { c with sync := { c.sync with stored := s.now + 1 } }

/-- What follows a write of a range at its home by a core: the directory invalidates the copies of other cores that it keeps coherent
(R158), the replicas of the core's die go (R161), and the copies of its die's other cores become no replica any more (log 111). -/
def State.wrote (s : State) (core key n : Nat) : State :=
  let s := if key < 2 ^ 55 then (s.dropReplicas fun r => r.1 / 64 == dieOf core && r.2.meets key n).touchHome key n true else s
  (s.eachCore fun c x =>
    if c = core then x
    else { x with l1d := (x.l1d.filter fun l => !(l.own && l.meets key n)).map fun l =>
                    if l.meets key n && dieOf c == dieOf core then { l with fresh := false } else l }).published core

/-- Bytes written at the home; the writing core's own copy follows. -/
def State.storeHome (s : State) (core key : Nat) (l : List Byte) : State :=
  let before := s.mem
  let s := { s with mem := s.mem.writeBytes key l, badBytes := s.badBytes.filter fun k => !(key ≤ k.1 && k.1 < key + l.length) }
  ((s.noteDescs core key l.length before).wrote core key l.length).eachCore fun c x =>
    if c = core then { x with l1d := x.l1d.map fun y => if !y.own && y.meets key l.length then y.put key l false else y } else x

/-- The atomics between their load and their store that a store of a core's strand may not divide (R212). -/
def State.splits (s : State) (core uid key n : Nat) : List AtomicReq :=
  s.cores.flatMap fun c => c.2.atomics.filter fun r =>
    r.old.isSome && !r.done && overlaps r.key r.size key n && s.inScope r.scope r.core r.uid core uid

/-- The store of an atomic that has read: it is then done but for its delivery. -/
def State.closeSplit (s : State) (r : AtomicReq) : State :=
  match r.old with
  | none => s
  | some old =>
    let s := match rmwNew r.rmw (r.core % 2 ^ 11) r.size old r.value with
      | none => s
      | some v =>
        let l := wordBytes r.size v
        if 2 ^ 60 ≤ r.key && r.key < 2 ^ 61 then s.writePool ((r.key - 2 ^ 60) / 2 ^ 20) (r.key % 2 ^ 20) l
        else s.storeHome r.core r.key l
    s.modCore r.core fun c => { c with atomics := c.atomics.map fun x => if x.tag = r.tag then { x with done := true } else x }

/-- Every atomic that a store may not divide stores first. -/
def State.closeSplits (s : State) (core uid key n : Nat) : State := (s.splits core uid key n).foldl State.closeSplit s

/-- A store of a core performed at the home. -/
def State.writeHome (s : State) (core key : Nat) (l : List Byte) : State :=
  ((s.closeSplits core 0 key l.length).mergePartials key l.length).storeHome core key l

/-- Bytes that the device itself writes at their home. -/
def State.putHbm (s : State) (part lpa : Nat) (l : List Byte) : State := s.writeHome deviceCore (hbmKey part lpa) l

def State.putHbmWord (s : State) (part lpa : Nat) (w : Word) : State := s.putHbm part lpa (wordBytes 8 w)

/-- Bytes of a pool written by a command, a delivery or another core's store, after the atomics that it may not divide. -/
def State.storePool (s : State) (writer core off : Nat) (l : List Byte) : State :=
  (s.closeSplits writer 0 (poolKey core off) l.length).writePool core off l

-- ==== lines of remote-die homes, and replicas (R154, R161, R210) ====

/-- A core's copy of a line. -/
def State.copyOf (s : State) (core line : Nat) : Option Line := (s.core core).l1d.find? fun l => l.line == line

/-- The dirty bytes of a core's copy written to the home, where that store is then performed (R210). -/
def State.cleanLine (s : State) (core : Nat) (l : Line) : State :=
  if l.dirty = 0 then s
  else
    let s := (s.closeSplits core 0 (l.line * 64) 64).mergePartials (l.line * 64) 64
    let s := { s with mem := (List.range 64).foldl (fun m i =>
      if l.dirty.getLsbD i then m.write (l.line * 64 + i) (l.bytes.getD i 0) else m) s.mem }
    ((s.noteDescs core (l.line * 64) 64 s.mem).wrote core (l.line * 64) 64).modCore core fun c =>
      { c with l1d := c.l1d.map fun x => if x.line = l.line then { x with dirty := 0 } else x }

/-- A core's dirty bytes of remote-die homes written back; the lines stay, clean (R210). -/
def State.writeBack (s : State) (core : Nat) : State :=
  ((s.core core).l1d.foldl (fun s l => s.cleanLine core l) s).modCore core fun c => { c with sync := { c.sync with cleaned := s.now + 1 } }

/-- The self-invalidation of an acquire: the core's lines of remote-die homes, their dirty bytes written back first, and every replica of
its die; what copies the die keeps become no replica any more (R161, R210, log 111). -/
def State.selfInvalidate (s : State) (core : Nat) : State :=
  let s := (s.writeBack core).dropReplicas fun r => r.1 / 64 == dieOf core
  (s.eachCore fun c x =>
    if dieOf c = dieOf core then { x with l1d := x.l1d.map fun l => { l with fresh := l.own } } else x).modCore core fun c =>
    { c with l1d := c.l1d.filter (·.own), sync := { c.sync with dropped := s.now + 1 } }

/-- A core's copy of a line leaves its L1D: dirty bytes go home, and a fresh line of another die's home becomes a replica in slice
a[12:11] of the core's stop (R161). -/
def State.evictLine (s : State) (core line : Nat) : State :=
  match s.copyOf core line with
  | none => s
  | some l =>
    let s := (s.cleanLine core l).modCore core fun c => { c with l1d := c.l1d.filter fun x => x.line != line }
    if l.own || !l.fresh then s
    else
      let slice := clusterOf core * 4 + line / 32 % 4
      let s := s.touch slice (line / 32) true (1#32 <<< (line % 32)) false
      if s.linePresent slice line true then
        { s with replicas := (slice, { l with dirty := 0 }) :: s.replicas.filter fun r => !(r.1 == slice && r.2.line == line) }
      else s

/-- A line admitted to a core's L1D of 256 sets of 20 ways: a full set first loses a line that the machine is free to choose (R154). -/
def State.keepLine (s : State) (core : Nat) (l : Line) : State :=
  let mates := (s.core core).l1d.filter fun x => x.line != l.line && x.line % 256 == l.line % 256
  let s := if mates.length < 20 then s else match mates[s.choose mates.length]? with
    | some v => (s.evictLine core v.line).bump
    | none => s
  s.modCore core fun c => { c with l1d := l :: c.l1d.filter fun x => x.line != l.line }

/-- The lines of host memory behind a line's port that the cores hold. -/
def State.hostLines (s : State) (line : Nat) : List Nat :=
  (s.cores.flatMap fun c => (c.2.l1d.filter fun l => l.line / 2 ^ 58 == line / 2 ^ 58).map (·.line)).eraseDups

/-- The snoop filter of a port has 262,144 lines: one of them leaves before another is admitted (R369). -/
def State.hostRoom (s : State) (line : Nat) : State :=
  let l := if line < 2 ^ 58 then [] else s.hostLines line
  if l.length < 262144 then s
  else match l[s.choose l.length]? with
    | some v => (s.eachCore fun _ c => { c with l1d := c.l1d.filter fun x => x.line != v }).bump
    | none => s

/-- A line that the directories keep coherent comes to a core's L1D. -/
def State.admitOwn (s : State) (core line : Nat) : State :=
  match s.copyOf core line with
  | some _ => s
  | none => (s.hostRoom line).keepLine core { line := line, own := true, fresh := true, bytes := [], dirty := 0 }

/-- A line of a remote-die home read at that home into a core's L1D; bytes that the core holds dirty stay. -/
def State.refill (s : State) (core line : Nat) : State × Line × Nat :=
  let n := s.homeBound core (line / 2 ^ 43) (line % 2 ^ 43 * 64)
  let s := (s.mergePartials (line * 64) 64).touchHome (line * 64) 64 false
  let home := s.readHome (line * 64) 64
  let l : Line := match s.copyOf core line with
    | some x => { x with fresh := true, bytes := (List.range 64).map fun i => (if x.dirty.getLsbD i then x.bytes else home).getD i 0 }
    | none => { line := line, own := false, fresh := true, bytes := home, dirty := 0 }
  (s.keepLine core l, l, n)

/-- A line of a remote-die home as an access of a core finds it (R161, R210), with the cycles of its level (R164): the core's own copy; else,
for a weak access, a replica of the die, or the home. A strong access takes the own copy only while no core of its die has stored to the
line, and the dirty bytes of its die's other cores go home first. -/
def State.remoteLine (s : State) (core line : Nat) (strong : Bool) : State × Line × Nat :=
  let s := if strong then
      s.cores.foldl (fun s c => if c.1 ≠ core ∧ dieOf c.1 = dieOf core then
        match s.copyOf c.1 line with
        | some l => if l.own then s else s.cleanLine c.1 l
        | none => s
      else s) s
    else s
  match s.copyOf core line with
  | some l => if !strong || l.fresh then (s, l, 8) else s.refill core line
  | none =>
    let reps := if strong then [] else s.replicas.filter fun r => r.1 / 64 == dieOf core && r.2.line == line
    match reps[s.choose (reps.length + 1)]? with
    | some r =>
      let s := s.bump.touch r.1 (line / 32) true (1#32 <<< (line % 32)) false
      (s.keepLine core r.2, r.2, if r.1 % 64 / 4 = clusterOf core % 16 then 24 else 40)
    | none => s.bump.refill core line

/-- A core's dirty bytes of a range written back before an access at the home. -/
def State.flushRange (s : State) (core key n : Nat) : State :=
  ((s.core core).l1d.filter fun l => l.meets key n).foldl (fun s l => s.cleanLine core l) s

/-- A read of a range at its home on behalf of a core: the core's dirty bytes and the partials of its lines go there first (R210, R213). -/
def State.homeRead (s : State) (core key n : Nat) : State × List Byte :=
  let s := if key < 2 ^ 55 then ((s.flushRange core key n).mergePartials key n).touchHome key n false else s
  (s, s.readHome key n)

/-- Is a strong access made at the home (R210, R220)? -/
def scopeAtHome (sc : Scope) : Bool := 4 ≤ sc.code

/-- Bytes that a core's store buffer holds for a range, over `l` (R155). -/
def forward (sb : List SbEntry) (key : Nat) (l : List Byte) : List Byte :=
  sb.foldl (fun l e => (List.range e.bytes.length).foldl (fun l i =>
    let a := e.key + i
    if key ≤ a && a < key + l.length then l.set (a - key) (e.bytes.getD i 0) else l) l) l

/-- Does the store buffer hold every byte of a range? -/
def buffered (sb : List SbEntry) (key n : Nat) : Bool :=
  (List.range n).all fun i => sb.any fun e => e.key ≤ key + i && key + i < e.key + e.bytes.length

/-- The host's response time, which no rule bounds (R370). -/
def State.hostTime (s : State) : Nat := Config.freeNat s.tick

/-- A load of `n` bytes by a core, with the cycles of the level that serves it: buffered bytes first, the rest from the level that R210 and
R220 name; a page of TYPE 01 or of melt granules is read at its home, and so is a DEVICE scope. -/
def State.loadBytes (s : State) (core part : Nat) (a : Acc) (n : Nat) (strong : Bool) (sc : Scope) : State × List Byte × Nat :=
  let sb := (s.core core).sb
  let key := targetKey part a.target
  let give (s : State) (l : List Byte) (m : Nat) : State × List Byte × Nat := (s, forward sb key l, if buffered sb key n then 8 else m)
  let cached := !a.melt && !a.device && !(strong && scopeAtHome sc)
  match a.target with
  | .hbm lpa =>
    if cached && s.offDie core part a.target then
      let x := s.remoteLine core (key / 64) strong
      give x.1 (x.2.1.get (key % 64) n) x.2.2
    else
      let m := if cached && (s.copyOf core (key / 64)).isSome then 8 else s.homeBound core part lpa
      let x := s.homeRead core key n
      give (if cached then x.1.admitOwn core (key / 64) else x.1) x.2 m
  | .host _ _ =>
    let m := if cached && (s.copyOf core (key / 64)).isSome then 8 else 350 + s.hostTime
    give (if cached then s.admitOwn core (key / 64) else s) (s.mem.readBytes key n) m
  | _ => give s (List.replicate n 0) 20000

/-- A store of a core is performed (R209, R210): at its home, or, where its line has a home on another die and it is not at DEVICE scope,
it may stay dirty in the L1D, which drops the die's replicas all the same (R161). `direct` says that its page is one of melt granules or of TYPE
01, which no L1D holds (R196, R321). -/
def State.performStore (s : State) (core part : Nat) (t : Target) (direct strong : Bool) (sc : Scope) (l : List Byte) : State :=
  match t with
  | .hbm lpa =>
    let key := hbmKey part lpa
    let cached := !direct && !(strong && scopeAtHome sc)
    if cached && s.offDie core part t then
      let stay := s.coin
      let s := s.bump
      if stay then
        let x := s.remoteLine core (key / 64) false
        let s := (x.1.keepLine core (x.2.1.put key l true)).dropReplicas fun r => r.1 / 64 == dieOf core && r.2.line == key / 64
        (s.eachCore fun c y =>
          if c ≠ core ∧ dieOf c = dieOf core then
            { y with l1d := y.l1d.map fun z => if z.line = key / 64 then { z with fresh := false } else z }
          else y).published core
      else s.writeHome core key l
    else
      let s := (s.flushRange core key l.length).writeHome core key l
      if cached then s.admitOwn core (key / 64) else s
  | .host port x =>
    let s := s.writeHome core (hostKey port x) l
    if direct || (strong && scopeAtHome sc) then s else s.admitOwn core (hostKey port x / 64)
  | _ => s

-- ==== releases and acquires ====

/-- Have all accesses of a strand before its access number `seq` been performed (R434)? -/
def State.performedBefore (s : State) (core uid seq : Nat) : Bool :=
  let c := s.core core
  !(c.sb.any fun e => e.uid == uid && e.seq < seq)
    && !(c.atomics.any fun r => r.uid == uid && r.seq < seq)
    && !(match s.slotOf uid with
      | some i => (s.slot i).pend.out.any fun o => o.seq < seq && decide (o.kind = .load ∨ o.kind = .atomic)
      | none => false)

/-- Is a release's performance still to wait (R434)? -/
def State.relBlocked (s : State) : Option Rel → Bool
  | some r => !s.performedBefore r.core r.uid r.seq
  | none => false

/-- Is a fill ordered toward a core, so that an LD.M there finds it (R203, R214, log 147)? -/
def Melt.knownTo (m : Melt) (core : Nat) : Bool :=
  match m.known with
  | none => true
  | some l => l.contains core

/-- A release of a core, noted with the fills that are ordered toward it. -/
def State.tellFills (s : State) (core : Nat) (sc : Scope) : State :=
  { s with melts := s.melts.map fun m => if m.known.isSome && m.knownTo core then { m with rels := (core, sc) :: m.rels } else m }

/-- An acquire of a core: the fills that precede a release toward it are ordered toward it (R203). -/
def State.learnFills (s : State) (core : Nat) (sc : Scope) : State :=
  { s with melts := s.melts.map fun m => match m.known with
      | some l => if !l.contains core && m.rels.any fun r => s.coresIn r.2 r.1 core && s.coresIn sc core r.1 then { m with known := some (core :: l) } else m
      | none => m }

/-- A release of a core at a scope, its strand's earlier accesses being performed: at DEVICE or wider the core's dirty bytes of remote-die
homes go home (R210); below, they go when an acquire of the scope asks for them (R203, log 112). -/
def State.release (s : State) (core : Nat) (sc : Scope) : State :=
  let s := if scopeAtHome sc then s.writeBack core
    else s.modCore core fun c => { c with sync := { c.sync with rels := c.sync.rels.set sc.code (s.now + 1) } }
  ((s.endRewrites core).tellFills core sc).published core

/-- A release performed. -/
def State.performRel (s : State) : Option Rel → State
  | some r => s.release r.core r.scope
  | none => s

/-- Has core `p` released toward core `q` since it last wrote its dirty bytes back? -/
def State.releasedTo (s : State) (p q : Nat) : Bool :=
  let y := (s.core p).sync
  [Scope.core, .quad, .cluster, .die].any fun sc =>
    match y.rels.get? sc.code with
    | some t => y.cleaned ≤ t && s.coresIn sc p q
    | none => false

/-- The acquire of an event at a scope, for the core on which its strand runs (R203, R209, R210): the cores of its instance that have
released toward it write back; the core self-invalidates at DEVICE or wider, and below where a core of the instance has performed a
store since the last time (log 112). -/
def State.acquire (s : State) (core : Nat) (sc : Scope) : State :=
  let s := s.learnFills core sc
  let inst := (s.cores.filter fun c => c.1 != core && s.coresIn sc core c.1).map (·.1)
  let s := inst.foldl (fun s p => if s.releasedTo p core then s.writeBack p else s) s
  let seen (p : Nat) : Bool := (s.core p).sync.stored != 0 && (s.core core).sync.dropped ≤ (s.core p).sync.stored
  if scopeAtHome sc || inst.any seen then s.selfInvalidate core else s

/-- Every core that has released since it last wrote its dirty bytes back does so: what an acquire for a strand in a saved image asks for, since
the core on which the strand will run is not known yet (R203, R205). -/
def State.writeBackAll (s : State) : State :=
  s.cores.foldl (fun s c => if (s.core c.1).sync.rels.any fun r => (s.core c.1).sync.cleaned ≤ r.2 then s.writeBack c.1 else s) s

/-- Has a core of a scope's instance, the core itself included, performed or issued a store since a cycle? -/
def State.storedSince (s : State) (core : Nat) (sc : Scope) (at_ : Nat) : Bool :=
  s.cores.any fun c => s.coresIn sc core c.1 && (at_ < c.2.sync.stored || at_ < c.2.sync.issued)

/-- The release that the issuing instruction is, at a scope (R201). -/
def State.relMe (s : State) (sc : Scope) : Rel :=
  { uid := s.me.id.uid, core := s.myCore, seq := s.me.pend.seq, scope := sc }

/-- Does an access of the strand meet an atomic of its own that is not yet applied? It then waits, so that the strand's
accesses of one location keep their order (R94, log 14). -/
def State.meetsAtomic (s : State) (part pa n : Nat) : Bool :=
  (s.core s.myCore).atomics.any fun r => r.uid == s.me.id.uid && r.part == part && overlaps r.key r.size pa n

/-- Does a range of memory hold uncorrectable data? A load of it delivers a poison mark, a read of an engine is a machine check
(R252, R318). -/
def State.poisoned (s : State) (key n : Nat) : Bool := s.badBytes.any fun k => key ≤ k.1 && k.1 < key + n

/-- The place of uncorrectable data in a range (R318): 0 a pool, 1 an L1D, 2 an L2 slice, 3 HBM. -/
def State.badPlace (s : State) (key n : Nat) : Option Nat := (s.badBytes.find? fun k => key ≤ k.1 && k.1 < key + n).map (·.2)

-- ==== translation (R319-R324) ====

/-- The kind of an access in the details of classes 3 and 4 (R315). -/
def kindCode : AccKind → Nat
  | .load => 0
  | .store => 1
  | .rmw => 1
  | .fetch => 2

/-- The table index of a level (R319). -/
def levelIndex (va : Word) : Nat → Nat
  | 0 => bitsOf va 39 9
  | 1 => bitsOf va 30 9
  | 2 => bitsOf va 21 9
  | _ => bitsOf va 16 5

/-- Page size of a leaf at a level, as a number of bits. -/
def levelBits : Nat → Nat
  | 1 => 30
  | 2 => 21
  | _ => 16

/-- One table entry at a level: a leaf, the next table, or the reason of class 4 (R321, R322). -/
def readEntry (cap : Nat) (level : Nat) (e : Word) : Except Nat (Option Nat) :=
  if !e.getLsbD 0 then .error (if level ≤ 1 then 2 else 3)
  else if e.getLsbD 1 then
    if level = 0 || bitsOf e 10 6 != 0 || decide (2 ≤ bitsOf e 8 2) then .error 4
    else if bitsOf e 16 (levelBits level - 16) ≠ 0 then .error 5
    else .ok none
  else if level = 3 || bitsOf e 49 15 != 0 || bitsOf e 2 6 != 0 || (decide (level ≤ 1) && bitsOf e 8 4 != 0) then .error 4
  else if cap ≤ bitsOf e 8 41 * 256 then .error 6
  else .ok (some (bitsOf e 8 41 * 256))

/-- What a walk comes to: the leaf and its page size, or a reason of class 4, and the cycles that its reads take at most. -/
structure Walked where
  result : Except Nat (Word × Nat)
  cycles : Nat

/-- A table entry read at its home slice, as LD.S.DEV reads it (R322), with the cycles of the read (R323). -/
def State.walkRead (s : State) (core part lpa : Nat) : State × Word × Nat :=
  let n := s.homeBound core part lpa + 4
  let x := s.readMerged (hbmKey part lpa) 8
  (x.1.touchHome (hbmKey part lpa) 8 false, leWord x.2, n)

/-- The walk from a table of level `4 - n` down (R322). -/
def State.walkFrom (s : State) (core part : Nat) (va : Word) : Nat → Nat → State × Walked
  | 0, _ => (s, { result := .error 4, cycles := 0 })
  | n + 1, table =>
    let level := 3 - n
    let x := s.walkRead core part (table + 8 * levelIndex va level)
    match readEntry (s.part part).capacity level x.2.1 with
    | .error r => (x.1, { result := .error r, cycles := x.2.2 })
    | .ok none => (x.1, { result := .ok (x.2.1, levelBits level), cycles := x.2.2 })
    | .ok (some next) =>
      let y := State.walkFrom x.1 core part va n next
      (y.1, { y.2 with cycles := y.2.cycles + x.2.2 })

/-- A whole walk (R322), for a core. -/
def State.walk (s : State) (core part asid : Nat) (va : Word) : State × Walked :=
  if bitsOf va 48 15 ≠ 0 then (s, { result := .error 0, cycles := 0 })
  else
    let x := s.walkRead core part (bitsOf (s.part part).ptroot 15 34 * 32768 + 8 * (asid % 4096))
    let d := x.2.1
    if !d.getLsbD 0 then (x.1, { result := .error 1, cycles := x.2.2 })
    else if bitsOf d 49 15 ≠ 0 || bitsOf d 1 11 ≠ 0 then (x.1, { result := .error 4, cycles := x.2.2 })
    else
      let y := x.1.walkFrom core part va 4 (bitsOf d 12 37 * 4096)
      (y.1, { y.2 with cycles := y.2.cycles + x.2.2 })

/-- Does a TLB entry translate the address (R323)? A leaf with G ignores the ASID. -/
def TlbEntry.hits (e : TlbEntry) (part asid : Nat) (va : Word) : Bool :=
  e.part == part && (e.leaf.getLsbD 6 || e.asid == asid) && e.page == va.toNat / 2 ^ e.bits

/-- A list with an entry added; a full one first loses an entry that the machine is free to choose. -/
def insertTlb (n pick : Nat) (e : TlbEntry) (l : List TlbEntry) : List TlbEntry :=
  if l.length < n then e :: l else e :: l.eraseIdx (pick % n)

/-- The set of a cluster TLB's entry (log 113). -/
def TlbEntry.set (e : TlbEntry) : Nat := e.page % 256

/-- A cluster TLB of 256 sets of 8 ways with an entry added (R323). -/
def insertSet (pick : Nat) (e : TlbEntry) (l : List TlbEntry) : List TlbEntry :=
  insertTlb 8 pick e (l.filter fun x => x.set == e.set) ++ l.filter fun x => x.set != e.set

/-- A walked entry comes to a core's TLB and to its cluster's, where it is not yet there (R323). -/
def State.fillTlbs (s : State) (core : Nat) (e : TlbEntry) : State :=
  let q := clusterOf core
  let s := if (s.core core).tlb.contains e then s else s.modCore core fun c => { c with tlb := insertTlb 64 (s.choose 64) e c.tlb }
  if (s.cluster q).tlb.contains e then s else s.modCluster q fun c => { c with tlb := insertSet (s.choose 8) e c.tlb }

/-- The leaf for an address: the core TLB, then the cluster TLB, then a walk, whose result both keep (R323); a walk that
faults keeps nothing. -/
def State.translate (s : State) (w : Who) (va : Word) : State × Except Nat (Word × Nat) :=
  match (s.core w.core).tlb.find? fun e => e.hits w.part w.asid va with
  | some e => (s, .ok (e.leaf, e.bits))
  | none =>
    let q := clusterOf w.core
    match (s.cluster q).tlb.find? fun e => e.hits w.part w.asid va with
    | some e => (s.modCore w.core fun c => { c with tlb := insertTlb 64 (s.choose 64) e c.tlb }, .ok (e.leaf, e.bits))
    | none =>
      let x := s.walk w.core w.part w.asid va
      let s := x.1
      match x.2.result with
      | .error r => (s, .error r)
      | .ok (leaf, bits) =>
        let e : TlbEntry := { part := w.part, asid := w.asid, page := va.toNat / 2 ^ bits, bits := bits, leaf := leaf }
        (s.fillTlbs w.core e, .ok (leaf, bits))

/-- The permission bits of a leaf (R322). -/
def permitted (leaf : Word) (priv : Priv) (k : AccKind) : Bool :=
  (priv != .u || leaf.getLsbD 5) && match k with
    | .load => leaf.getLsbD 2
    | .store => leaf.getLsbD 3
    | .rmw => leaf.getLsbD 2 && leaf.getLsbD 3
    | .fetch => leaf.getLsbD 4 && !leaf.getLsbD 7

/-- The checks of a global access in the order of R93: bit 63, alignment, translation, permission, range, heap. -/
def State.access (s : State) (w : Who) (k : AccKind) (size : Nat) (va : Word) : State × Except TrapInfo Acc :=
  let trap (c r : Nat) : Except TrapInfo Acc := .error { cls := c, detail := kindCode k * 8 + r, tval := va }
  if va.getLsbD 63 then (s, trap 3 1)
  else if !aligned va.toNat size then (s, trap 3 0)
  else match s.translate w va with
    | (s, .error r) => (s, trap 4 r)
    | (s, .ok (leaf, bits)) =>
      if !permitted leaf w.priv k then (s, trap 3 4)
      else
        let pa := BitVec.ofNat 64 (leaf.toNat / 2 ^ bits * 2 ^ bits + va.toNat % 2 ^ bits)
        match s.resolve w (bitsOf leaf 8 2 == 1) pa with
        | .error r => (s, trap 3 r)
        | .ok t => (s, .ok { pa := pa, target := t, melt := leaf.getLsbD 7, device := bitsOf leaf 8 2 == 1 })

/-- Does an access of the issuing strand miss its core's TLB, its walk not yet over or over with a fault (R93)? -/
def State.mustWalk (s : State) (size : Nat) (va : Word) : Bool :=
  !va.getLsbD 63 && aligned va.toNat size && !(s.me.front.walked == some va && s.me.front.walkFault.isNone)
    && !(s.core s.myCore).tlb.any fun e => e.hits s.me.id.part s.me.id.asid va

/-- A walk for an address of a partition and ASID on a core's die: the one of the same page that is under way, or a new one where one of the 16
walkers of the die is free (R323), with the cycle in which it ends. -/
def State.walkFor (s : State) (core part asid : Nat) (va : Word) : Option (State × Nat) :=
  let mine := s.walks.filter fun w => w.die == dieOf core
  match mine.find? fun w => w.part == part && w.asid == asid && w.page == va.toNat / 65536 with
  | some w => some (s, w.done)
  | none =>
    if 16 ≤ mine.length then none
    else
      let d := 1 + s.choose ((s.walk core part asid va).2.cycles + 1)
      let w : Walk := { die := dieOf core, part := part, asid := asid, page := va.toNat / 65536, done := s.now + d }
      some ((({ s with walks := s.walks ++ [w] } : State).after d (.tlbWalk core asid va .load)).bump, s.now + d)

/-- The strand is not ready until its walk ends (R93, R323): 6 cycles for a hit in the cluster TLB; a miss that finds no walker free tries again
in the next cycle. -/
def State.awaitWalk (s : State) (va : Word) : State :=
  let t := s.me
  let until_ (s : State) (c : Nat) : State :=
    (s.modMe fun t => { t with front := { t.front with readyAt := max t.front.readyAt c, walked := some va, walkFault := none } }).waits
  if (s.cluster (clusterOf s.myCore)).tlb.any fun e => e.hits t.id.part t.id.asid va then until_ s (s.now + 6)
  else match s.walkFor s.myCore t.id.part t.id.asid va with
    | some (s, done) => until_ s done
    | none => (s.modMe fun t => { t with front := { t.front with readyAt := max t.front.readyAt (s.now + 1) } }).waits

/-- The reason by which the walk that the issuing strand has waited for has failed (R323). -/
def State.walkFailed (s : State) (va : Word) : Option Nat := if s.me.front.walked = some va then s.me.front.walkFault else none

/-- A global access of the issuing strand after its translation and its checks; a fault traps (R93). -/
def State.accessMe (s : State) (k : AccKind) (size : Nat) (va : Word) (f : State → Acc → State) : State :=
  if s.mustWalk size va then
    match s.walkFailed va with
    | some r => s.takeTrap 4 (kindCode k * 8 + r) va
    | none => s.awaitWalk va
  else match s.access s.whoMe k size va with
    | (s, .error e) => s.trapWith e
    | (s, .ok a) => f s a

end Sys2Proof.Machine
end

