-- ==== Sys2Proof/Machine/Net.lean ====
section
/-! DEFINITION. The source side of the fabric: routes (R376, R377, R381, R382), sending under SEQ and EPOCH (R386, R388),
and failures (R389). -/

namespace Sys2Proof.Machine

/-- Group and member of a device (R376). -/
def groupOf (dev : Nat) : Nat := dev / 32

def memberOf (dev : Nat) : Nat := dev % 32

/-- The local port of member `m` toward member `n` (R377). -/
def localPort (m n : Nat) : Nat := if n < m then n else n - 1

/-- The index of the global link from group `g` to group `h` (R377). -/
def globalIdx (g h : Nat) : Nat := if h < g then h else h - 1

/-- The member and the global port at which group `g` reaches group `h`. -/
def globalEnd (g h : Nat) : Nat × Nat := (globalIdx g h / 16, globalIdx g h % 16)

/-- Fields of a route entry (R382). -/
def routeMode (w : Word) : Nat := bitsOf w 61 2

/-- Is a group routable by its entry (R382)? -/
def routeUsable (w : Word) : Bool := w.getLsbD 63 && routeMode w != 3

/-- Is the local link between the device and a member of its group up, as far as the device and that member's link-state flits tell (R383)? -/
def State.localUp (s : State) (n : Nat) : Bool :=
  !s.fab.llink.getLsbD (localPort (memberOf s.plat.device) n) && !s.fab.downs.contains (n, localPort n (memberOf s.plat.device))

/-- Is the local link between two other members up, as far as link-state flits have told (R383)? -/
def State.peerUp (s : State) (m n : Nat) : Bool :=
  !s.fab.downs.contains (m, localPort m n) && !s.fab.downs.contains (n, localPort n m)

/-- The lowest-numbered member through which a local hop detours: both of its links are up (R381). -/
def State.detour (s : State) (n : Nat) : Option Nat :=
  (List.range 32).find? fun k => k != memberOf s.plat.device && k != n && s.localUp k && s.peerUp k n

/-- The first hops of a local move to member `n` of the own group: none if already there. -/
def State.localHops (s : State) (n : Nat) : Option (List Nat) :=
  let g := groupOf s.plat.device
  if n = memberOf s.plat.device then some []
  else if s.localUp n then some [g * 32 + n]
  else (s.detour n).map fun k => [g * 32 + k, g * 32 + n]

/-- The devices of a minimal route to another group's device, from the own device (R381). -/
def State.minimalRoute (s : State) (dev : Nat) : Option (List Nat) :=
  let g := groupOf s.plat.device
  let h := groupOf dev
  let out := globalEnd g h
  let into := globalEnd h g
  (s.localHops out.1).map fun l =>
    l ++ [h * 32 + into.1] ++ (if into.1 = memberOf dev then [] else [dev])

/-- The devices of a Valiant route through a group (R381). -/
def State.valiantRoute (s : State) (via dev : Nat) : Option (List Nat) :=
  let h := groupOf dev
  let a := globalEnd (groupOf s.plat.device) via
  let b := globalEnd via (groupOf s.plat.device)
  let c := globalEnd via h
  let d := globalEnd h via
  (s.localHops a.1).map fun l =>
    l ++ [via * 32 + b.1] ++ (if b.1 = c.1 then [] else [via * 32 + c.1]) ++ [h * 32 + d.1]
      ++ (if d.1 = memberOf dev then [] else [dev])

/-- The own link of the first hop to a device: 0-30 local, 32 + j global. -/
def State.firstLink (s : State) (hop : Nat) : Nat :=
  if groupOf hop = groupOf s.plat.device then localPort (memberOf s.plat.device) (memberOf hop)
  else 32 + (globalEnd (groupOf s.plat.device) (groupOf hop)).2

/-- Is an own link degraded (R384)? -/
def State.degraded (s : State) (link : Nat) : Bool :=
  if link < 32 then s.fab.llink.getLsbD (32 + link) else s.fab.glink.getLsbD (16 + (link - 32))

/-- Flits that wait on a link's channel. -/
def State.waitingOn (s : State) (link : Nat) (vc : BitVec 2) : Nat :=
  (s.fab.waiting.filter fun o => o.link == link && o.flit.vc == vc).length

/-- CAND0 to CAND3 of the entry of a device's group, from the one whose turn it is, each as its number and its group; those that name no other
group, or one whose own entry is invalid or GDOWN, are skipped (R382). -/
def State.candidates (s : State) (dev : Nat) : List (Nat × Nat) :=
  let h := groupOf dev
  let e := s.fab.routes.get 0 h
  ((List.range 4).map fun k => let i := (s.fab.turns.get 0 h + k) % 4; (i, bitsOf e (10 * i) 10)).filter fun c =>
    c.2 ≤ 512 && c.2 != groupOf s.plat.device && c.2 != h && (s.fab.routes.get 0 c.2).getLsbD 63 && !(s.fab.routes.get 0 c.2).getLsbD 60

/-- The routes by which a request may go to a device, in their order of choice (R381, R382, R384): 0 the direct or minimal one, 1 + i the Valiant
one through CANDi, where MODE and GDOWN allow them, an adaptive one not over a degraded link; within the own group 1 is a detour. -/
def State.routesTo (s : State) (dev : Nat) : List (Nat × List Nat) :=
  let g := groupOf s.plat.device
  let e := s.fab.routes.get 0 (groupOf dev)
  if !routeUsable e then []
  else if groupOf dev = g then
    let n := memberOf dev
    (if n = memberOf s.plat.device then [(0, [])] else [])
      ++ (if n ≠ memberOf s.plat.device ∧ s.localUp n = true then [(0, [dev])] else [])
      ++ (match s.detour n with
        | some k => if n = memberOf s.plat.device then [] else [(1, [g * 32 + k, dev])]
        | none => [])
  else
    let mode := routeMode e
    let minimal := if e.getLsbD 60 || mode == 2 then none else s.minimalRoute dev
    let weak (l : List Nat) : Bool := mode == 0 && match l with
      | hop :: _ => s.degraded (s.firstLink hop)
      | [] => false
    let valiant := if mode = 1 && !e.getLsbD 60 then [] else (s.candidates dev).filterMap fun c =>
      match s.valiantRoute c.2 dev with
      | some l => if weak l then none else some (1 + c.1, l)
      | none => none
    (match minimal with
      | some l => [(0, l)]
      | none => []) ++ valiant

/-- Do the flits that wait send an adaptive request from its minimal route to the next Valiant one (R382)? -/
def State.congested (s : State) (vc : BitVec 2) : List (Nat × List Nat) → Bool
  | (0, a :: _) :: (_, b :: _) :: _ => 192 < s.waitingOn (s.firstLink a) vc && s.waitingOn (s.firstLink b) vc < 64
  | _ => false

/-- The route of a request, chosen once at its source, with its number in `State.routesTo` (R381, R382); a resend takes another one than the
`last`, where there is one (R388). -/
def State.routeTo (s : State) (dev : Nat) (vc : BitVec 2) (last : Option Nat) : Option (Nat × List Nat) :=
  let l := s.routesTo dev
  let adaptive := groupOf dev != groupOf s.plat.device && routeMode (s.fab.routes.get 0 (groupOf dev)) == 0
  match last with
  | some k => match l.find? fun r => r.1 != k with
    | some r => some r
    | none => l.head?
  | none => if adaptive && s.congested vc l then (l.drop 1).head? else l.head?

/-- The candidate after a Valiant route's has the next turn (R382). -/
def State.turned (s : State) (dev k : Nat) : State :=
  if k = 0 || groupOf dev == groupOf s.plat.device then s
  else { s with fab := { s.fab with turns := s.fab.turns.set (groupOf dev) (k % 4) } }

/-- Is an own link down (R383)? -/
def State.linkLost (s : State) (link : Nat) : Bool :=
  if link < 32 then s.fab.llink.getLsbD link else s.fab.glink.getLsbD (link - 32)

-- ==== flits on a link (R379, R380, R384) ====

/-- Data flits that follow a control flit (R379): what does not fit into VALUE travels 512 bytes a flit. -/
def flitData (f : Flit) : Nat := if f.data.length ≤ 8 then 0 else (f.data.length + 511) / 512

/-- KIND (R379). -/
def flitCode : FlitKind → Nat
  | .load => 0x01 | .store => 0x02 | .atomic => 0x03 | .red => 0x04 | .tuple => 0x05 | .landing => 0x06 | .ffence => 0x07 | .fetch => 0x08
  | .response => 0x10 | .acknowledge => 0x11 | .refusal => 0x12 | .collective => 0x20 | .credit => 0x30 | .linkState => 0x31
  | .other n => n.toNat

def flitKindOf (n : Nat) : FlitKind :=
  match n with
  | 0x01 => .load | 0x02 => .store | 0x03 => .atomic | 0x04 => .red | 0x05 => .tuple | 0x06 => .landing | 0x07 => .ffence | 0x08 => .fetch
  | 0x10 => .response | 0x11 => .acknowledge | 0x12 => .refusal | 0x20 => .collective | 0x30 => .credit | 0x31 => .linkState
  | _ => .other (BitVec.ofNat 8 n)

/-- The operation of a request, for the OP field: the tuple operation or the read-modify-write, 0 elsewhere. -/
def flitOperation (f : Flit) : Nat :=
  match f.rmw with
  | some (.amo op) => 1 + (match op with | .add => 0 | .swap => 1 | .and => 2 | .or => 3 | .xor => 4 | .min => 5 | .max => 6)
  | some (.cas _) => 8
  | some (.red op) => 9 + (match op with | .add => 0 | .fadd => 1 | .min => 2 | .max => 3 | .and => 4 | .or => 5 | .xor => 6)
  | none => 0

/-- The 32 bytes of a control flit (R379). -/
def flitHeader (f : Flit) : List Byte :=
  leBytes 1 (flitCode f.kind) ++ leBytes 1 (f.vc.toNat * 64 + f.hop.toNat * 8) ++ leBytes 2 (f.src % 2 ^ 15) ++ leBytes 2 (f.dst % 2 ^ 15)
    ++ leBytes 1 f.part ++ leBytes 2 (f.core % 2 ^ 11) ++ leBytes 1 f.epoch.toNat ++ leBytes 2 f.seq.toNat ++ leBytes 2 (flitData f)
    ++ leBytes 2 (Config.flitOp f.size (flitOperation f) f.scope.code).toNat ++ wordBytes 8 f.addr ++ wordBytes 8 f.value

/-- The usable control and data entries at a link's far end: 1,024 and 256 unless some are lost (R380, R384). -/
def State.entriesOf (s : State) (link : Nat) : Nat × Nat := s.fab.entries.get (1024, 256) link

/-- The key of a link's buffers of a channel and class. -/
def pairKey (link vc cls : Nat) : Nat := (link * 4 + vc % 4) * 8 + cls % 8

/-- The entries of a link's far end that flits of a channel and class occupy: control and data. -/
def State.usedOf (s : State) (link vc cls : Nat) : Nat × Nat := s.fab.used.get (0, 0) (pairKey link vc cls)

/-- The channels that share an escape channel (R384): request-escape carries 0, 2 and 3, response-escape 1. -/
def escapeOf (vc : Nat) : List Nat := if vc = 1 then [1] else [0, 2, 3]

/-- The entries of a link that no pair of channel and class holds and none has reserved: each of the 28 pairs keeps one of either kind (R380). -/
def State.sharedFree (s : State) (link : Nat) : Nat × Nat :=
  let l := s.fab.used.select fun k _ => k / 32 == link
  let sum (g : Nat × Nat → Nat) : Nat := l.foldl (fun n e => n + (g e.2 - 1)) 28
  ((s.entriesOf link).1 - sum (·.1), (s.entriesOf link).2 - sum (·.2))

/-- May a flit leave on its link now (R380, R384)? Its pair's own entries serve it, else shared ones; on a degraded link one entry of each kind for
each class of its escape channel, through which its data flits pass one after the other. -/
def State.mayLeave (s : State) (o : OutFlit) : Bool :=
  let vc := o.flit.vc.toNat
  let cls := o.flit.hop.toNat
  let u := s.usedOf o.link vc cls
  let d := flitData o.flit
  !s.linkLost o.link && if s.degraded o.link then (escapeOf vc).all fun v => s.usedOf o.link v cls == (0, 0)
    else (u.1 == 0 || decide (0 < (s.sharedFree o.link).1)) && decide (d ≤ (1 - u.2) + (s.sharedFree o.link).2)

/-- Two queues in turn, flit by flit (R384). -/
def alternate {α : Type} : Nat → List α → List α → List α
  | 0, a, b => a ++ b
  | _ + 1, [], b => b
  | _ + 1, a, [] => a
  | n + 1, x :: a, y :: b => x :: y :: alternate n a b

/-- The flits that wait on a link in the order in which they leave: as they came, or, on a degraded link, requests and
responses in turn, first the channel that the last flit was not of (R384). -/
def State.lineUp (s : State) (link : Nat) : List OutFlit :=
  let l := s.fab.waiting.filter fun o => o.link == link
  let req := l.filter fun o => o.flit.vc != 1
  let resp := l.filter fun o => o.flit.vc == 1
  if !s.degraded link then l else if s.fab.escaped.contains link then alternate l.length req resp else alternate l.length resp req

/-- A flit leaves on its link and takes its entries at the far end. -/
def State.leave (s : State) (o : OutFlit) : State :=
  let vc := o.flit.vc.toNat
  let cls := o.flit.hop.toNat
  let u := s.usedOf o.link vc cls
  let d := if s.degraded o.link then min 1 (flitData o.flit) else flitData o.flit
  let others := s.fab.escaped.filter (· != o.link)
  { s with fab := { s.fab with waiting := s.fab.waiting.erase o, sent := s.fab.sent ++ [o],
                               used := s.fab.used.set (pairKey o.link vc cls) (u.1 + 1, u.2 + d),
                               escaped := if vc = 1 then o.link :: others else others } }

/-- Flits leave a link while its entries allow; one that cannot go holds only those behind it of its own channel and class (R380). -/
def State.launchFrom (s : State) (blocked : List (BitVec 2 × BitVec 3)) : List OutFlit → State
  | [] => s
  | o :: r =>
    let k := (o.flit.vc, o.flit.hop)
    if blocked.contains k || !s.mayLeave o then State.launchFrom s (k :: blocked) r else State.launchFrom (s.leave o) blocked r

def State.launch (s : State) (link : Nat) : State := s.launchFrom [] (s.lineUp link)

/-- A flit put on its route's first link, where it waits for entries; a local hop whose link is down becomes two through another member, within
the seven hops of a route (R380, R381). -/
def State.emit (s : State) (f : Flit) (route : List Nat) : State :=
  let wait (o : OutFlit) : State := ({ s with fab := { s.fab with waiting := s.fab.waiting ++ [o] } } : State).launch o.link
  match route with
  | [] => s
  | hop :: rest =>
    let link := s.firstLink hop
    let away := groupOf hop == groupOf s.plat.device && s.linkLost link && decide (f.hop.toNat + 1 + rest.length ≤ 6)
    match (if away then s.detour (memberOf hop) else none) with
    | some k => wait { link := localPort (memberOf s.plat.device) k, flit := f, route := hop :: rest }
    | none => wait { link := link, flit := f, route := rest }

/-- A response or other answer sent to a device; without a route it is lost. -/
def State.answerTo (s : State) (f : Flit) : State :=
  match s.routeTo f.dst f.vc none with
  | some (k, r) => (s.turned f.dst k).emit f r
  | none => { s with fab := { s.fab with dropped := s.fab.dropped + 1 } }

-- ==== requests in order (R155, R386, R387) ====

/-- Requests of a core to a device that are not acknowledged. -/
def State.openTo (s : State) (core dev : Nat) : List Unacked := (s.core core).unacked.filter fun u => u.flit.dst == dev && !u.acked

/-- May a bundle send one more request of its core to a device (R386)? -/
def State.windowOpen (s : State) (core dev : Nat) : Bool := (s.openTo core dev).length < 256

/-- Has a strand a store before number `id` that is not performed and that a strong store follows (R155), or one to a page of TYPE 01 that another
such store follows (R321)? What goes to `dst` itself keeps its order by SEQ. -/
def State.earlierStore (s : State) (core uid id : Nat) (strong device : Bool) (dst : Option Nat) : Bool :=
  let c := s.core core
  c.sb.any (fun x => x.id < id && x.uid == uid && (strong || (device && x.device)))
    || c.unacked.any fun u => u.flit.kind == .store && !u.acked && u.uid == uid && u.since < id && some u.flit.dst != dst
        && (strong || (device && u.device))

/-- May a request get its SEQ and leave: at most 256 of its core are on their way to its device, none before it waits, and, if it is a store, what
it must follow is performed (R155, R321, R386)? -/
def State.sendable (s : State) (core : Nat) (u : Unacked) : Bool :=
  let l := s.openTo core u.flit.dst
  !u.out && !u.acked && decide ((l.filter (·.out)).length < 256) && !(l.any fun x => !x.out && x.since < u.since)
    && !s.earlierStore core u.uid u.since u.strong u.device (some u.flit.dst)

/-- A failure of a strand's access is owed to it (R389). -/
def State.owe (s : State) (uid kind reason : Nat) (tval : Word) : State :=
  { s with owed := s.owed ++ [(uid, kind * 8 + reason, tval)] }

/-- The marks of requests that no strand waits for, in the place of the kind of R317: an engine command's (R390), a tuple answer
(R391), a run's peal flit (R408), a calving (R392). -/
def engineKind : Nat := 8

def answerKind : Nat := 9

def pealKind : Nat := 10

def calveKind : Nat := 11

/-- A completion word of a control block that another device maps (R312, R322); the read of a continuation record there (R192). -/
def deviceKind : Nat := 12

def contKind : Nat := 13

/-- A piece of a structure that a bundle reads whole at issue (R409). -/
def structKind : Nat := 14

/-- The core number under which the fabric port itself sends requests: it names no core (R379). -/
def portCore : Nat := 0x7ff

/-- The virtual channel of a request (R380): stores, and deposits and landings with data, take channel 2. -/
def flitChannel (f : Flit) : BitVec 2 :=
  match f.kind with
  | .store | .ffence => 2
  | .landing => if f.data.isEmpty then 0 else 2
  | .tuple => if f.data.isEmpty then 0 else 2
  | .collective => 3
  | _ => 0

/-- A .C request, which its interface keeps until a home accepts it (R391). -/
def flitIsCont (f : Flit) : Bool := match f.tup with
  | some r => f.kind == .tuple && r.mode == .c && r.remote.isNone
  | none => false

/-- A core's request gets SEQ and EPOCH of its pair and leaves, with its resend after 50,000 cycles and its end after 10 ms (R386, R388). Without a
route it fails with "no path" (R389): its destination becomes IDLE, an engine command is FAULTED (R390), a .C request waits for a route (R391). -/
def State.sendOut (s : State) (core : Nat) (u : Unacked) : State :=
  let c := s.core core
  let dev := u.flit.dst
  let f := { u.flit with epoch := c.epochs.get 0 dev, seq := c.seqs.get 0 dev }
  let put (s : State) (v : Unacked) : State := s.modCore core fun c => { c with unacked := c.unacked.map fun x => if x.since = u.since then v else x }
  let sent (k : Nat) : State :=
    ((put s { u with flit := f, out := true, sent := s.now, first := s.now, via := k }).modCore core fun c =>
      { c with seqs := c.seqs.set dev (f.seq + 1) }).after 50000 (.fabricResend core dev f.seq)
  let gone : State := s.modCore core fun c => { c with unacked := c.unacked.filter fun x => x.since != u.since }
  match s.routeTo dev f.vc none with
  | some (k, r) => ((((sent k).turned dev k).emit f r)).afterArg 10000000 (.uncertain core dev) [f.seq.toNat, f.epoch.toNat]
  | none =>
    if flitIsCont f then sent 0
    else if u.kind = engineKind then gone.after 1 (.engineFault u.tag 20 u.tval)
    else if u.kind < 8 && u.uid != 0 then (gone.owe u.uid u.kind 1 u.tval).after 1 (.deliver u.uid u.tag .idle)
    else (put s { u with out := true, acked := true }).afterArg 1 (.uncertain core dev) [u.since, 0, 2]

/-- A core's requests that wait for their turn leave as far as they may. -/
def State.pump (s : State) (core : Nat) : State :=
  (s.core core).unacked.foldl (fun s u => if s.sendable core u then s.sendOut core u else s) s

/-- A request of a core, in the order of its requests to the device (R386). -/
def State.sendInOrder (s : State) (core uid tag kind : Nat) (tval : Word) (strong device : Bool) (f : Flit) : State :=
  let u : Unacked := { flit := { f with src := s.plat.device, core := core, vc := flitChannel f }, uid := uid, tag := tag, tval := tval, kind := kind,
                       sent := s.now, since := s.nextTag, acked := false, out := false, strong := strong, device := device, via := 0,
                       first := s.now }
  ((s.modCore core fun c => { c with unacked := c.unacked ++ [u] }).newTag).pump core

/-- A request that waits for no store of its strand. -/
def State.sendRequest (s : State) (core uid tag kind : Nat) (tval : Word) (f : Flit) : State := s.sendInOrder core uid tag kind tval false false f

/-- An empty flit to a device's local physical address. -/
def blankFlit (kind : FlitKind) (dev part : Nat) (addr : Word) : Flit :=
  { kind := kind, vc := 0, hop := 0, src := 0, dst := dev, part := part, core := 0, epoch := 0, seq := 0, size := 0,
    scope := .system, rmw := none, addr := addr, value := 0, data := [], tup := none, peal := none }

/-- Does a strand have a remote access that is not acknowledged (R387)? -/
def State.remoteOpen (s : State) (core uid : Nat) : Bool := (s.core core).unacked.any fun u => u.uid == uid && uid != 0 && !u.acked

/-- Has a strand a memory access at another device that is not acknowledged: what a FENCE waits for at any scope (R221)? -/
def State.remoteMemoryOpen (s : State) (core uid : Nat) : Bool :=
  (s.core core).unacked.any fun u => u.uid == uid && uid != 0 && !u.acked && match u.flit.kind with
    | .load | .store | .atomic | .red => true
    | _ => false

/-- Is FABRIC accepted (R427)? Without it an address that names another device is an unpopulated range. -/
def State.feature (s : State) (bit : Nat) : Bool := s.plat.drvfeat.getLsbD bit

end Sys2Proof.Machine
end

