-- ==== Sys2Proof/Machine/Image.lean ====
section
/-! DEFINITION. Slot records of a context image (R330, R331), and the delivery of a value to a strand wherever it is: in
its slot, in a spilled frame, or in a saved image (R192, R336). -/

namespace Sys2Proof.Machine

/-- A list brought to length `n` with zeros. -/
def padTo (n : Nat) (l : List Byte) : List Byte := (l ++ List.replicate (n - l.length) 0).take n

/-- Eight bytes of an image as a word. -/
def State.imageWord (s : State) (key : Nat) : Word := leWord (s.mem.readBytes key 8)

/-- The offset of a section in an image, and of the pool in a section (R330). -/
def sectionAt (v : Nat) : Nat := 0x2000 + v * 0xd0000

def sectionPool : Nat := 0x10000

-- ==== slot records (R331) ====

/-- The cells of s1-s7 and the 72 windowed registers, in the order of R331. -/
def Slot.cells (t : Slot) : List RegCell := (List.range 79).map fun i => t.regs.get ⟨(i + 1) % 80, Nat.mod_lt _ (by decide)⟩

/-- Marks as 2 bits each, packed from bit 0 up. -/
def packMarks (l : List Mark) : Nat := l.foldr (fun m acc => m.code + 4 * acc) 0

def packBits (l : List Bool) : Nat := l.foldr (fun b acc => (if b then 1 else 0) + 2 * acc) 0

/-- Byte 0x0C0 of a slot record: depth, oldest frame, pending interrupts, dropped mark. -/
def Slot.depthWord (t : Slot) : Word :=
  BitVec.ofNat 64 (t.depth % 65536 + t.oldest % 4 * 2 ^ 16 + t.uint.pending.length % 16 * 2 ^ 20
    + (if t.uint.dropped then 2 ^ 24 else 0))

/-- The slot record of a strand (R331). `t.oldest` has two bits there: the number of resident frames is at most 4, so that
depth and the two bits give it back. -/
def Slot.record (t : Slot) : List Byte :=
  let w (x : Word) := wordBytes 8 x
  let bank (b : Bank) := w b.tpc ++ w b.tcause ++ w b.tval ++ w b.tscr
  let head := w (pcOf t.pc) ++ w (BitVec.ofNat 64 (2 ^ 63 + t.id.place.toNat * 2 ^ 32 + t.id.strand.toNat))
    ++ w (t.pw.setWidth 64) ++ w (t.fmt.setWidth 64) ++ w (t.pri.setWidth 64) ++ w t.status.word ++ w t.id.seg
    ++ w t.msgdst ++ w t.msgsrc ++ w t.tvec ++ w t.uint.uhvec ++ w t.uint.uhpc
  padTo 0x60 head
    ++ bank t.bank1 ++ bank t.bank2
    ++ w t.uint.shadow.s1.val ++ w t.uint.shadow.s2.val ++ w t.uint.shadow.s3.val ++ w (t.uint.shadow.pw.setWidth 64)
    ++ padTo 0x40 (w t.depthWord)
    ++ padTo 0x80 (t.uint.pending.map fun p => w p.1 ++ w p.2).flatten
    ++ (t.cells.map fun c => w c.val).flatten
    ++ padTo 8 []
    ++ ((List.range 16).map fun i => leBytes 32 (t.handle (BitVec.ofNat 4 i)).val.toNat).flatten
    ++ padTo 0x30 (leBytes 0x30 (packMarks (t.cells.map (·.mark) ++ (List.range 15).map fun i => (t.handle (BitVec.ofNat 4 (i + 1))).mark)))
    ++ padTo 0x10 (leBytes 0x10 (packBits (t.cells.map (·.poison))))
    ++ List.replicate 0x1c0 0

/-- A word of a slot record. -/
def recWord (l : List Byte) (off : Nat) : Word := leWord ((l.drop off).take 8)

/-- A register's cell in a slot record; `i` counts s1-s7 and the windowed registers. -/
def recCell (l : List Byte) (i : Nat) : RegCell :=
  { val := recWord l (0x180 + 8 * i)
    mark := Mark.decode (leNat ((l.drop (0x600 + i / 4)).take 1) / 4 ^ (i % 4))
    poison := leNat ((l.drop (0x630 + i / 8)).take 1) / 2 ^ (i % 8) % 2 == 1 }

def recHandle (l : List Byte) (n : Nat) : HCell :=
  if n = 0 then { val := 0, mark := .idle } else
    let i := 79 + n - 1
    { val := BitVec.ofNat 256 (leNat ((l.drop (0x400 + 32 * n)).take 32))
      mark := Mark.decode (leNat ((l.drop (0x600 + i / 4)).take 1) / 4 ^ (i % 4)) }

/-- The oldest resident frame from its two bits and the depth: the greatest number not above the depth that has them. -/
def oldestOf (depth two : Nat) : Nat := depth - (depth + 4 - two) % 4

/-- A slot from its record; identity and SEG are those of the strand's place (R334). -/
def Slot.ofRecord (id : StrandId) (l : List Byte) : Slot :=
  let dw := recWord l 0xc0
  let st := recWord l 0x28
  let bank (off : Nat) : Bank :=
    { tpc := recWord l off, tcause := recWord l (off + 8), tval := recWord l (off + 16), tscr := recWord l (off + 24) }
  let plain (v : Word) : RegCell := { val := v, mark := .full, poison := false }
  { Slot.empty with
    id := id
    regs := Vector.ofFn fun (i : Fin 80) => if i.val = 0 then RegCell.idle else recCell l (i.val - 1)
    handles := Vector.ofFn fun (i : Fin 16) => recHandle l i.val
    depth := bitsOf dw 0 16
    oldest := oldestOf (bitsOf dw 0 16) (bitsOf dw 16 2)
    pc := recWord l 0
    pw := pwOf (BitVec.ofNat 8 (bitsOf (recWord l 0x10) 0 8))
    fmt := BitVec.ofNat 4 (bitsOf (recWord l 0x18) 0 4)
    pri := BitVec.ofNat 4 (bitsOf (recWord l 0x20) 0 4)
    status := { ui := st.getLsbD 5, startclr := st.getLsbD 4, priv := privOf (bitsOf st 2 2), tl := bitsOf st 0 2 }
    msgdst := recWord l 0x38
    msgsrc := recWord l 0x40
    tvec := recWord l 0x48
    bank1 := bank 0x60
    bank2 := bank 0x80
    uint :=
      { uhvec := recWord l 0x50
        uhpc := recWord l 0x58
        shadow := { s1 := plain (recWord l 0xa0), s2 := plain (recWord l 0xa8), s3 := plain (recWord l 0xb0),
                    pw := pwOf (BitVec.ofNat 8 (bitsOf (recWord l 0xb8) 0 8)) }
        pending := (List.range (bitsOf dw 20 4)).map fun i => (recWord l (0x100 + 16 * i), recWord l (0x108 + 16 * i))
        dropped := dw.getLsbD 24 } }

-- ==== a value for a register, wherever its strand is (R16, R192, R336) ====

/-- Two bits at position `i` of packed marks in memory. -/
def State.putMark (s : State) (key i : Nat) (m : Mark) : State :=
  let b := (s.mem.read (key + i / 4)).toNat
  let k := 4 ^ (i % 4)
  { s with mem := s.mem.write (key + i / 4) (BitVec.ofNat 8 (b - b / k % 4 * k + m.code * k)) }

/-- A value for a register of a strand that is in a saved image: into its slot record, or into the spilled frame's image
in the saved pool. -/
def State.fillImage (s : State) (a : Away) (r : Nat) (c : RegCell) : State :=
  let l := s.mem.readBytes a.key 2048
  let depth := bitsOf (recWord l 0xc0) 0 16
  let oldest := oldestOf depth (bitsOf (recWord l 0xc0) 16 2)
  let seg := recWord l 0x30
  let put (i : Nat) : State :=
    ({ s with mem := s.mem.writeBytes (a.key + 0x180 + 8 * i) (wordBytes 8 c.val) }).putMark (a.key + 0x600) i c.mark
  if r = 0 then s
  else if r < 8 then put (r - 1)
  else if (r - 8) / 16 < oldest then
    let t : Slot := { Slot.empty with id := { Slot.empty.id with seg := seg } }
    let at_ := a.pool + t.shareBase + 144 * ((r - 8) / 16)
    let n := (r - 8) % 16
    ({ s with mem := s.mem.writeBytes (at_ + 8 * n) (wordBytes 8 c.val) }).putMark (at_ + 136) n c.mark
  else if r - 8 < 16 * depth + 24 then put (7 + (r - 8) % 72)
  else s

/-- A slot at a wake event (R353): a halted strand is ready again, and a HALT that issues in this cycle does not stop it. -/
def Slot.woke (t : Slot) (now : Nat) : Slot := { t with front := { t.front with halted := false, woken := now + 1 } }

/-- A wake event for the strands in the slots that satisfy `p`. -/
def State.wake (s : State) (p : Nat → Bool) : State := { s with slots := s.slots.map fun i t => if p i then t.woke s.now else t }

/-- A value for a register of a strand; a delivery wakes a halted strand (R353). A strand that is gone gets nothing. -/
def State.fillReg (s : State) (uid r : Nat) (c : RegCell) : State :=
  match s.slotOf uid with
  | some i => (s.fillHere i r c).wake (· == i)
  | none =>
    match s.away.get? uid with
    | some a => s.fillImage a r c
    | none => s

/-- The outstanding producer of a strand under a tag. -/
def State.outOf (s : State) (uid tag : Nat) : Option Outst :=
  match s.slotOf uid with
  | some i => (s.slot i).pend.out.find? fun o => o.tag == tag
  | none => (s.away.get? uid).bind fun a => a.out.find? fun o => o.tag == tag

/-- The producer under a tag is no longer outstanding. -/
def State.dropOut (s : State) (uid tag : Nat) : State :=
  match s.slotOf uid with
  | some i => s.modSlot i fun t => { t with pend := { t.pend with out := t.pend.out.filter fun o => o.tag != tag } }
  | none =>
    match s.away.get? uid with
    | some a => { s with away := s.away.set uid { a with out := a.out.filter fun o => o.tag != tag } }
    | none => s

/-- The core on which a strand is. -/
def State.coreOfStrand (s : State) (uid : Nat) : Nat := coreOf ((s.slotOf uid).getD 0)

/-- The acquire that a delivery is, on the core where the strand runs; for a strand in a saved image what was released goes home now, and the core
on which it is restored drops its stale lines then (R203, R205). -/
def State.acquireFor (s : State) (uid : Nat) (sc : Scope) : State :=
  match s.slotOf uid with
  | some i => s.acquire (coreOf i) sc
  | none => if (s.away.get? uid).isSome then s.writeBackAll else s

/-- What a load of a core reads of memory now: its store buffer's bytes first, else a copy of a remote-die line, or the home (R155, R210). -/
def State.readAgain (s : State) (core key size : Nat) (strong : Bool) : State × List Byte :=
  let sb := (s.core core).sb
  if 2 ^ 55 ≤ key then (s, forward sb key (s.mem.readBytes key size))
  else if s.offDie core (key / 2 ^ 49) (.hbm (key % 2 ^ 49)) then
    let x := s.remoteLine core (key / 64) strong
    (x.1, forward sb key (x.2.1.get (key % 64) size))
  else
    let s := s.mergePartials key size
    (s, forward sb key (s.readHome key size))

/-- The value that a load delivers at whose issue `v` was read: that, or, where the machine is free to read later and no later store or
atomic of its strand has issued, what the core reads now (R94, R207, log 16). `may` says whether the later value is allowed. -/
def State.lateValue (s : State) (uid seq : Nat) (key size : Nat) (strong : Bool) (v : Word) (ext : List Byte → Word)
    (may : Nat → Bool) : State × Word :=
  match s.slotOf uid with
  | none => (s, v)
  | some i =>
    let again := s.coin && decide ((s.slot i).pend.lastStore ≤ seq) && may (coreOf i) && (s.meltAt key size).isNone
    if !again then (s.bump, v)
    else
      let x := s.bump.readAgain (coreOf i) key size strong
      (x.1, ext x.2)

/-- The virtual core of a slot (R339, R340). -/
def State.virtualCore (s : State) (i : Nat) : Nat := coreAt (clusterOf (coreOf i)) (segVcore (s.slot i).id.seg)

/-- The scope at which a message releases and acquires: the smallest one that holds both cores (R126). -/
def msgScope (a b : Nat) : Scope := if clusterOf a = clusterOf b then .cluster else if dieOf a = dieOf b then .die else .device

/-- MSGSRC of an arrival (R123). -/
def State.sourceOf (s : State) (f : MsgFlit) : Word := BitVec.ofNat 64 (f.slot * 2 ^ 26 + (s.cidOf f.core).toNat)

/-- A served MFS of MSGIN takes the oldest arrival of its context for its virtual core and delivers it, an acquire (R125, R126); where none is there, it
waits on, as does one whose strand is in no slot. -/
def State.takeArrival (s : State) (uid tag reg : Nat) : State :=
  match s.slotOf uid with
  | none => s
  | some i =>
    let core := coreOf i
    if !(s.core core).waiters.any fun w => w.tag == tag then s
    else match (s.core core).recvq.find? fun f => f.dst == s.virtualCore i && f.uid / 2 ^ 32 == uid / 2 ^ 32 with
      | none => s.modCore core fun c =>
          { c with waiters := c.waiters.map fun w => if w.tag = tag then { w with served := false } else w }
      | some f =>
        let s := s.modCore core fun c => { c with recvq := c.recvq.erase f, waiters := c.waiters.filter fun w => w.tag != tag }
        let s := (s.dropOut uid tag).modSlot i fun t => { t with msgsrc := s.sourceOf f }
        (s.acquire core (msgScope f.core f.dst)).fillReg uid reg { val := f.value, mark := .full, poison := false }

/-- The request that a strand's bundle waits at another home for has failed: the strand waits no more (R134, R389). -/
def State.waitFailed (s : State) (uid tag : Nat) : State :=
  match s.slotOf uid with
  | some i => s.modSlot i fun t => { t with front := { t.front with wait := if t.front.wait = .melt tag then .none else t.front.wait } }
  | none => s

/-- A long producer delivers (R22): its register becomes FULL, in its slot, in a spill image, or in a saved image. -/
def State.deliverTo (s : State) (uid tag : Nat) (v : DelVal) : State :=
  match s.outOf uid tag with
  | none => s
  | some o =>
    if v = .msg then s.takeArrival uid tag o.reg
    else
    let s := s.dropOut uid tag
    let full (x : Word) : RegCell := { val := x, mark := .full, poison := false }
    match v with
    | .val x => s.fillReg uid o.reg (full x)
    | .acq x sc => (s.acquireFor uid sc).fillReg uid o.reg (full x)
    | .load key size sext x =>
      let ext (l : List Byte) : Word := if sext then signExtend (8 * size) (leWord l) else leWord l
      let y := s.lateValue uid o.seq key size false x ext fun _ => true
      y.1.fillReg uid o.reg (full y.2)
    | .narrow key size x sc at_ =>
      let y := s.lateValue uid o.seq key size true x leWord fun core => !s.storedSince core sc at_
      y.1.fillReg uid o.reg (full y.2)
    | .msg => s
    | .poison x => s.fillReg uid o.reg { val := x, mark := .full, poison := true }
    | .idle => s.fillReg uid o.reg { val := 0, mark := .idle, poison := false }

/-- A tuple request counts no more among its core's 64 (R182). -/
def State.tupleOff (s : State) (uid tag : Nat) : State :=
  { s with cores := s.cores.map fun _ c => { c with tupOut := c.tupOut.filter fun p => p != (uid, tag) } }

/-- DELIVER (R22, R182). -/
def execDeliver (uid tag : Nat) (v : DelVal) (s : State) : Out :=
  .next (((if v = .idle then s.waitFailed uid tag else s).tupleOff uid tag).deliverTo uid tag v)

end Sys2Proof.Machine
end

