-- ==== Sys2Proof/Machine/Regs.lean ====
section
/-! DEFINITION. Device control space: the registers of the partition pages (R360-R362), the FADMIT tables (R385), the fabric
page (R382, R383), the management page (R432) and the attestation pages (R429), with who may read and write them. -/

namespace Sys2Proof.Machine

/-- A register of control space: its page and the offset of its 64-bit word. -/
inductive CReg
  | part (p off : Nat)
  | fadmit (p off : Nat)
  | fabric (off : Nat)
  | manage (off : Nat)
  | attest (p off : Nat)
deriving DecidableEq, Repr

/-- The register at a local physical address; the issuing partition's own page has a second address (R360). -/
def controlReg (own lpa : Nat) : Option CReg :=
  let a := lpa / 8 * 8
  if a < 0x1f0000400000 then some (.part ((a - 0x1f0000000000) / 65536) (a % 65536))
  else if a < 0x1f0000410000 then some (.part own (a % 65536))
  else if 0x1f0001000000 ≤ a && a < 0x1f0001400000 then some (.fadmit ((a - 0x1f0001000000) / 65536) (a % 65536))
  else if 0x1f0002000000 ≤ a && a < 0x1f0002010000 then some (.fabric (a % 65536))
  else if 0x1f0003000000 ≤ a && a < 0x1f0003001000 then some (.manage (a % 4096))
  else if 0x1f0003001000 ≤ a && a < 0x1f0003041000 then some (.attest ((a - 0x1f0003001000) / 4096) ((a - 0x1f0003001000) % 4096))
  else none

def pstateCode : PState → Nat | .free => 0 | .stopped => 1 | .running => 2 | .resizing => 3 | .resetting => 4

/-- Eight bytes of a byte table as a word. -/
def tableWord (t : Tab (BitVec 8)) (i : Nat) : Word := leWord ((List.range 8).map fun k => t.get 0 (i + k))

/-- The quanta of a mask, ascending. -/
def quantaOf (m : BitVec 64) : List Nat := (List.range 64).filter m.getLsbD

/-- The slices of a partition in ascending (die, stop, slice) order. -/
def Partition.slices (p : Partition) : List Nat := (quantaOf p.quanta).flatMap fun q => [4 * q, 4 * q + 1, 4 * q + 2, 4 * q + 3]

/-- The status word of a match engine (R176). -/
def Slice.status (x : Slice) : Word :=
  BitVec.ofNat 64 (min x.waiters.length 2048 * 2 ^ 32 + min x.tuples.length 8192 * 2 ^ 18
    + (if 2048 < x.waiters.length then 2 ^ 17 else 0) + (if 8192 < x.tuples.length then 2 ^ 16 else 0) + min x.fulls 0xffff)

/-- A partition page's word (R360). -/
def State.partWord (s : State) (p off : Nat) : Word :=
  let x := s.part p
  match off with
  | 0x00 => x.quanta
  | 0x08 => BitVec.ofNat 64 (p * 256 + pstateCode x.state)
  | 0x10 => BitVec.ofNat 64 ((if x.done then 2 ^ 16 else 0) + x.result.toNat * 256 + x.cmd.toNat)
  | 0x18 => x.qnew
  | 0x20 => x.ptroot
  | 0x28 => x.fheap
  | 0x38 => x.smgen.setWidth 64
  | 0x40 => x.rtgen.setWidth 64
  | 0x48 => x.hmap
  | 0x50 => x.hdm
  | 0x58 => x.rodep
  | 0x60 => x.hdepdone
  | 0x68 => x.hdeperr
  | 0x70 => x.qbase
  | _ =>
    if 0x100 ≤ off && off < 0x200 then tableWord x.sliceMap (off - 0x100)
    else if 0x200 ≤ off && off < 0x400 then x.rangeTable.get 0 ((off - 0x200) / 8)
    else if 0x400 ≤ off && off < 0x500 then tableWord x.homeTable (off - 0x400)
    else if 0x800 ≤ off && off < 0x1000 then
      match x.slices[(off - 0x800) / 8]? with
      | some i => (s.slice i).status
      | none => 0
    else 0

/-- May a strand reach a partition's page (R360)? -/
def reachesPage (w : Who) (p : Nat) : Bool := w.priv == .m || p == w.part

/-- A measurement of 64 bytes (R429, log 13). -/
def measured (l : List Nat) : List Byte := (List.range 64).map (Config.digest l)

/-- The words of a table by index, as they are measured. -/
def measuredTable {n : Nat} (t : Tab (BitVec n)) : List Nat := t.length :: t.flatMap fun p => [p.1, p.2.toNat]

/-- What the configuration measurement covers: fuses, DEVFEAT, DRVFEAT, route and FADMIT tables (R429). -/
def State.configWords (s : State) : List Nat :=
  [s.plat.seed, s.plat.rootKey, s.plat.disabled.toNat, s.plat.devfeat.toNat, s.plat.drvfeat.toNat] ++ measuredTable s.fab.routes
    ++ s.parts.flatMap fun p => p.1 :: measuredTable p.2.fadmit

/-- What the partition measurement covers: QUANTA, PTROOT, FHEAP, HMAP, HDM, slice map, range and home tables (R429). -/
def Partition.words (p : Partition) : List Nat :=
  [p.quanta.toNat, p.ptroot.toNat, p.fheap.toNat, p.hmap.toNat, p.hdm.toNat] ++ measuredTable p.sliceMap ++ measuredTable p.rangeTable
    ++ measuredTable p.homeTable

/-- The attestation key of the running firmware (R428). -/
def State.attestKey (s : State) : Nat := Config.attestKey s.plat.seed (measured [s.plat.image])

/-- The certificate chain of the attestation key (R428). -/
def State.certChain (s : State) : List Byte := Config.certificate s.plat.seed s.attestKey

/-- Bytes 0-231 of a report over a nonce (R429). -/
def State.reportBody (s : State) (p : Nat) (nonce : List Byte) : List Byte :=
  nonce ++ measured [s.plat.image] ++ measured s.configWords ++ measured (s.part p).words ++ leBytes 8 (s.now - s.plat.bootTime)

/-- A report: the body and its signature under the attestation key (R428, R429). -/
def State.reportBytes (s : State) (p : Nat) (nonce : List Byte) : List Byte :=
  s.reportBody p nonce ++ (List.range 3309).map (Config.signature s.attestKey (s.reportBody p nonce) s.tick)

/-- A read of control space: the word, or the class 3 reason (R360, R429, R432). -/
def State.readControl (s : State) (w : Who) (lpa : Nat) : Except Nat Word :=
  match controlReg w.part lpa with
  | none => .error 3
  | some (.part p off) =>
    if !reachesPage w p then .error 2
    else if (off == 0x10 || off == 0x18) && w.priv != .m then .error 3
    else .ok (s.partWord p off)
  | some (.fadmit p off) => .ok (if off < 72 then (s.part p).fadmit.get 0 (off / 8) else 0)
  | some (.fabric off) =>
    if off < 0x1008 then .ok (s.fab.routes.get 0 (off / 8))
    else if off = 0x2000 then .ok s.fab.llink
    else if off = 0x2008 then .ok s.fab.glink
    else .ok 0
  | some (.manage off) =>
    match off with
    | 0x00 => .ok (BitVec.ofNat 64 (s.now - s.plat.bootTime))
    | 0x08 => .ok s.plat.cecount
    | 0x10 => .ok s.plat.linkev
    | 0x18 => .ok s.plat.power
    | 0x20 => .ok s.plat.temp
    | 0x28 => .ok s.plat.plimit
    | 0x30 => .ok s.plat.throttle
    | _ => .ok 0
  | some (.attest p off) =>
    if !reachesPage w p then .error 2
    else
      let x := s.part p
      if off < 32 then .ok (leWord ((x.nonce.drop off).take 8))
      else if off = 0x48 then .ok (BitVec.ofNat 64 x.attest)
      else if 0x100 ≤ off then .ok (leWord ((x.report.drop (off - 0x100)).take 8))
      else .ok 0

/-- Bytes of a control-space read. -/
def State.readControlBytes (s : State) (w : Who) (lpa size : Nat) : Except Nat Word :=
  (s.readControl w lpa).map fun v => BitVec.ofNat 64 (bitsOf v (lpa % 8 * 8) (8 * size))

/-- The 64-bit value that a write of `size` bytes leaves in a register that held `old` (log 15). -/
def mergeWrite (old : Word) (lpa size : Nat) (v : Word) : Word := putBits old (lpa % 8 * 8) (8 * size) v.toNat

/-- Is the HDM range inside the partition and clear of its heap (R371)? -/
def Partition.hdmOk (p : Partition) (v : Word) : Bool :=
  let lo := bitsOf v 30 19 * 2 ^ 30
  let hi := lo + bitsOf v 1 15 * 2 ^ 30
  let base := bitsOf p.fheap 16 33 * 65536
  let top := base + bitsOf p.fheap 0 16 * 65536
  hi ≤ p.capacity && (top ≤ lo || hi ≤ base || base == top || lo == hi)

/-- Is a write of `v` to a partition page's word allowed to privilege `m` or `s` (R360, R362, R370, R371, R175)? -/
def State.partWriteOk (s : State) (w : Who) (p off : Nat) (v : Word) : Bool :=
  let x := s.part p
  let m := w.priv == .m
  match off with
  | 0x10 => m && bitsOf v 17 47 == 0 && bitsOf v 4 4 == 0
  | 0x18 => m
  | 0x20 => m && bitsOf v 49 15 == 0 && bitsOf v 0 15 == 0
  | 0x28 => m && decide (x.state = .stopped) && bitsOf v 49 15 == 0
  | 0x30 => bitsOf v 16 48 == 0
  | 0x48 => m && bitsOf v 22 8 == 0 && bitsOf v 2 6 == 0 && (!v.getLsbD 0 || s.feature 1)
  | 0x50 => bitsOf v 49 15 == 0 && bitsOf v 16 14 == 0 && (!v.getLsbD 0 || s.feature 2) && x.hdmOk v
  | 0x58 => m && v == 0
  | 0x68 => m && v == 0
  | 0x70 => m && decide (x.state = .stopped) && bitsOf v 49 15 == 0 && bitsOf v 1 17 == 0
  | _ =>
    if 0x100 ≤ off && off < 0x200 || 0x400 ≤ off && off < 0x500 then m
    else if 0x200 ≤ off && off < 0x400 then m && bitsOf v 0 7 == 0
    else v == 0 && 0x500 ≤ off && off < 0x800

/-- A write to control space: allowed, or the class 3 reason (R360, R385, R382, R429, R432). -/
def State.writeControlOk (s : State) (w : Who) (lpa size : Nat) (v : Word) : Except Nat Unit :=
  let old := match s.readControl { w with priv := .m } lpa with
    | .ok o => o
    | .error _ => 0
  let n := mergeWrite old lpa size v
  let m := w.priv == .m
  match controlReg w.part lpa with
  | none => .error 3
  | some (.part p off) =>
    if !reachesPage w p then .error 2 else if s.partWriteOk w p off n then .ok () else .error 3
  | some (.fadmit _ off) =>
    if m && (off < 64 || (off == 64 && bitsOf n 1 63 == 0) || (72 ≤ off && n == 0)) then .ok () else .error 3
  | some (.fabric off) =>
    if m && ((off < 0x1008 && bitsOf n 40 20 == 0) || (0x1008 ≤ off && off != 0x2000 && off != 0x2008 && n == 0)) then .ok ()
    else .error 3
  | some (.manage off) =>
    if m && (((off == 0x08 || off == 0x10) && n == 0) || off == 0x28 || (off == 0x38 && bitsOf n 29 35 == 0)) then .ok ()
    else .error 3
  | some (.attest p off) =>
    if !reachesPage w p then .error 2
    else if off < 32 || (off == 0x40 && (n == 1 || n == 0)) || n == 0 then .ok ()
    else .error 3

/-- The step that an allowed write to control space is: a command, a kill, a wake, or the write of a register that has no
step of its own. -/
def State.controlEvent (s : State) (w : Who) (lpa size : Nat) (v : Word) : Instr × List Nat :=
  let old := match s.readControl { w with priv := .m } lpa with
    | .ok o => o
    | .error _ => 0
  let n := mergeWrite old lpa size v
  let plain : Instr × List Nat := (.controlRegisterWrite w.part w.priv lpa size v, [])
  match controlReg w.part lpa with
  | some (.part p 0x10) =>
    match bitsOf n 0 4 with
    | 1 => (.create p, [])
    | 2 => (.start p, [])
    | 3 => (.stop p, [])
    | 4 => (.resize p, [])
    | 5 => (.reset p, [])
    | 6 => (.destroy p, [])
    | _ => plain
  | some (.part p 0x30) => (.ctxkill p (bitsOf n 0 16), [])
  | some (.manage 0x08) => (.cecountClear, [])
  | some (.manage 0x10) => (.linkevClear, [])
  | some (.manage 0x38) => if bitsOf n 11 15 = s.plat.device then (.wake, [bitsOf n 0 11, bitsOf n 26 3]) else plain
  | some (.attest p 0x40) => if n = 1 then (.attestRequest, [p]) else plain
  | _ => plain

/-- Bytes of a word into a byte table. -/
def putTable (t : Tab (BitVec 8)) (i : Nat) (v : Word) : Tab (BitVec 8) :=
  (List.range 8).foldl (fun t k => t.set (i + k) (BitVec.ofNat 8 (bitsOf v (8 * k) 8))) t

/-- A register of control space takes a value; read-only fields keep theirs. -/
def State.setControl (s : State) (own lpa : Nat) (n : Word) : State :=
  match controlReg own lpa with
  | some (.part p off) =>
    s.modPart p fun x =>
      match off with
      | 0x10 => if x.done then { x with cmd := BitVec.ofNat 4 (bitsOf n 0 4), result := 2 } else { x with result := 1 }
      | 0x18 => { x with qnew := n }
      | 0x20 => { x with ptroot := n }
      | 0x28 => { x with fheap := n }
      | 0x48 => { x with hmap := n }
      | 0x50 => { x with hdm := n }
      | 0x58 => { x with rodep := n }
      | 0x68 => { x with hdeperr := n }
      | 0x70 => { x with qbase := n }
      | _ =>
        if 0x100 ≤ off && off < 0x200 then { x with sliceMap := putTable x.sliceMap (off - 0x100) n }
        else if 0x200 ≤ off && off < 0x400 then { x with rangeTable := x.rangeTable.set ((off - 0x200) / 8) n }
        else if 0x400 ≤ off && off < 0x500 then { x with homeTable := putTable x.homeTable (off - 0x400) n }
        else x
  | some (.fadmit p off) => if off < 72 then s.modPart p fun x => { x with fadmit := x.fadmit.set (off / 8) n } else s
  | some (.fabric off) =>
    if off < 0x1008 then
      let g := (s.fab.routes.get 0 (off / 8)).getLsbD 60
      { s with fab := { s.fab with routes := s.fab.routes.set (off / 8) (putBits n 60 1 (if g then 1 else 0)) } }
    else s
  | some (.manage 0x28) => { s with plat := { s.plat with plimit := n } }
  | some (.attest p off) =>
    if off < 32 then s.modPart p fun x => { x with nonce := overlay (x.nonce ++ List.replicate (32 - x.nonce.length) 0) off (wordBytes 8 n) }
    else s
  | _ => s

/-- CONTROL_REGISTER_WRITE (R360): a write to a register with no row of its own, checked for privilege and value when it
is performed. -/
def execControlRegisterWrite (part : Nat) (priv : Priv) (addr size : Nat) (v : Word) (s : State) : Out :=
  let w : Who := { core := 0, part := part, asid := 0, priv := priv }
  .next (match s.writeControlOk w addr size v, s.readControl { w with priv := .m } addr with
    | .ok _, .ok old => s.setControl part addr (mergeWrite old addr size v)
    | _, _ => s)

end Sys2Proof.Machine
end

