-- ==== Sys2Proof/Machine/Memory.lean ====
section
/-! DEFINITION. Loads, stores, strong accesses, fences, cache operations and atomics (R92-R95, R217-R228), the store buffer
(R155, R209), fetching (R86, R90, R223), the torus (R162, R163) and page-table walks (R322). -/

namespace Sys2Proof.Machine

/-- The effective address of a CM word: base + sign_extend(OFF8) x size (R92). -/
def effective (base : Word) (off : BitVec 8) (size : Nat) : Word := base + off.signExtend 64 * BitVec.ofNat 64 size

-- ==== the torus (R162, R163) ====

/-- The next stop on a ring of four from `a` toward `b`: the shorter way, the rising one at distance 2. -/
def ringNext (a b : Nat) : Nat := if (b + 4 - a) % 4 ≤ 2 then (a + 1) % 4 else (a + 3) % 4

/-- The next stop of a packet: along its row first, then along its column. -/
def torusNext (stop dst : Nat) : Nat :=
  if stop % 4 ≠ dst % 4 then stop / 4 * 4 + ringNext (stop % 4) (dst % 4)
  else ringNext (stop / 4) (dst / 4) * 4 + stop % 4

/-- The ring direction of a hop. -/
def hopDir (a b : Nat) : Nat :=
  if a / 4 = b / 4 then (if b % 4 = (a + 1) % 4 then 0 else 1) else if b / 4 = (a / 4 + 1) % 4 then 2 else 3

/-- Free slots of a ring direction at a stop: the reserved bubble and the slots of Config, less the packets that hold one there (R163). -/
def State.ringFree (s : State) (die stop dir : Nat) : Nat :=
  2 + Config.ringSlots - (s.torus.filter fun p => p.die == die && p.stop == stop && p.ring == some dir).length

/-- Consecutive packets sent from a core's stop to another stop of its die, one for each 64 bytes (R163). -/
def State.inject (s : State) (core slice n : Nat) : State :=
  let a := clusterOf core % 16
  let b := slice % 64 / 4
  if slice / 64 ≠ dieOf core || a = b then s
  else (List.range n).foldl (fun s i =>
    let p : Packet := { id := s.nextTag, die := dieOf core, stop := a, dst := b, ring := none }
    (({ s with torus := s.torus ++ [p] }).after (2 + i) (.torusPacket (dieOf core) s.nextTag)).newTag) s

/-- TORUS_PACKET (R162, R163): a packet on a ring advances into one free slot, one that enters a ring, by injection or by a
turn, needs two; a packet keeps its slot until it moves on, and one at its stop leaves the torus. A hop and a router take 2 cycles each. -/
def execTorusPacket (die packet : Nat) (s : State) : Out :=
  .next (match s.torus.find? fun p => p.die == die && p.id == packet with
    | none => s
    | some p =>
      if p.stop = p.dst then { s with torus := s.torus.filter fun x => x.id != packet }
      else
        let dest := torusNext p.stop p.dst
        let dir := hopDir p.stop dest
        if s.ringFree die dest dir < (if p.ring = some dir then 1 else 2) then s.after 1 (.torusPacket die packet)
        else
          let move (x : Packet) : Packet := if x.id = packet then { x with stop := dest, ring := some dir } else x
          ({ s with torus := s.torus.map move }).after 4 (.torusPacket die packet))

/-- The packets of an access to a home (R162). -/
def State.injectFor (s : State) (core part n : Nat) : Target → State
  | .hbm lpa => s.inject core (s.homeOf part lpa) ((n + 63) / 64)
  | _ => s

-- ==== walks (R322, R323) ====

/-- The cores whose strands and commands wait for a walk of a die: partition, ASID and page (R323). -/
def State.walkWaiters (s : State) (w : Walk) : List Nat :=
  let mine (core part asid : Nat) (a : Option Word) : Bool :=
    dieOf core == w.die && part == w.part && asid == w.asid && a.any fun va => va.toNat / 65536 == w.page
  (s.slots.filterMap fun t => if mine (coreOf t.1) t.2.id.part t.2.id.asid t.2.front.walked then some (coreOf t.1) else none)
    ++ s.cmds.filterMap fun c => if mine c.2.core c.2.part c.2.asid c.2.walked then some c.2.core else none

/-- A walk that has failed, noted where a strand or a command waits for it (R323). -/
def State.walkFails (s : State) (w : Walk) (r : Nat) : State :=
  let mine (core part asid : Nat) (a : Option Word) : Bool :=
    dieOf core == w.die && part == w.part && asid == w.asid && a.any fun va => va.toNat / 65536 == w.page
  { s with
    slots := s.slots.map fun i t => if mine (coreOf i) t.id.part t.id.asid t.front.walked then { t with front := { t.front with walkFault := some r } } else t
    cmds := s.cmds.map fun _ c => if mine c.core c.part c.asid c.walked then { c with walkFault := some r } else c }

/-- A walk that its walker has ended (R322, R323): its result goes to the core that began it and to all that joined it; a success fills their
TLBs and those of their clusters, and a fault keeps nothing. -/
def State.walkEnds (s : State) (w : Walk) (core : Nat) (va : Word) : State :=
  let x := ({ s with walks := s.walks.erase w } : State).walk core w.part w.asid va
  match x.2.result with
  | .error r => x.1.walkFails w r
  | .ok (leaf, bits) =>
    let e : TlbEntry := { part := w.part, asid := w.asid, page := va.toNat / 2 ^ bits, bits := bits, leaf := leaf }
    (core :: x.1.walkWaiters w).foldl (fun s c => s.fillTlbs c e) x.1

/-- The result word of a probe that finds a translation (R348). -/
def probeWord (leaf : Word) (bits : Nat) (va : Word) (hit : Bool) : Word :=
  let pa := leaf.toNat / 2 ^ bits * 2 ^ bits + va.toNat % 2 ^ bits
  BitVec.ofNat 64 (pa / 65536 * 65536 + (if bits = 30 then 2 else if bits = 21 then 1 else 0) * 2 ^ 14
    + bitsOf leaf 8 2 * 2 ^ 10 + (if hit then 256 else 0) + bitsOf leaf 2 6 * 4 + 1)

/-- A probe whose walk has ended delivers the translation, which the TLBs keep, or the reason of the fault (R348). -/
def State.probed (s : State) (core part asid uid tag : Nat) (va : Word) : State :=
  let x := s.walk core part asid va
  match x.2.result with
  | .error r => x.1.after 0 (.deliver uid tag (.val (BitVec.ofNat 64 (r * 256))))
  | .ok (leaf, bits) =>
    (x.1.fillTlbs core { part := part, asid := asid, page := va.toNat / 2 ^ bits, bits := bits, leaf := leaf }).after 0
      (.deliver uid tag (.val (probeWord leaf bits va false)))

/-- TLB_WALK (R322, R323): a walk of a core's die that is under way ends; a probe that waited for it (numbers: partition, strand, tag) delivers
(R348). -/
def execTlbWalk (core asid : Nat) (va : Word) (_kind : AccKind) (s : State) : Out :=
  let s' := match s.walks.find? fun w => w.die == dieOf core && w.asid == asid && w.page == va.toNat / 65536 && decide (w.done ≤ s.now) with
    | some w => s.walkEnds w core va
    | none => s
  .next (match s.arg with
    | [part, uid, tag] => s'.probed core part asid uid tag va
    | _ => s')

-- ==== conditions on the strand's own accesses ====

/-- Entries of a core's store buffer: those for this device, and the stores to other devices until they are acknowledged, which the buffer keeps
among the core's requests (R155, R387). -/
def State.storesHeld (s : State) (core : Nat) : Nat :=
  (s.core core).sb.length + ((s.core core).unacked.filter fun u => u.flit.kind == .store).length

/-- Atomic requests of a core that are outstanding (R228). -/
def State.atomicsHeld (s : State) (core : Nat) : Nat :=
  (s.core core).atomics.length
    + ((s.core core).unacked.filter fun u => u.flit.kind == .atomic || u.flit.kind == .red).length

/-- Has the strand an earlier store to a page of TYPE 01, or an atomic, that is not performed: an access to such a page waits for it (R321)? What
went to device `dst` before it keeps its order by SEQ (R386). -/
def State.deviceOpen (s : State) (dst : Option Nat) : Bool :=
  let c := s.core s.myCore
  let uid := s.me.id.uid
  c.sb.any (fun e => e.uid == uid && e.device) || c.atomics.any (fun r => r.uid == uid)
    || c.unacked.any fun u => u.uid == uid && !u.acked && (u.device || u.flit.kind == .atomic || u.flit.kind == .red) && some u.flit.dst != dst

/-- Is a location between the load and the store of an atomic that is indivisible toward stores of a core's strand (R212)? -/
def State.lockedFor (s : State) (core uid key n : Nat) : Bool := !(s.splits core uid key n).isEmpty

/-- One more access of the strand in its program order; `store` marks one that writes. -/
def State.counted (s : State) (store : Bool) : State :=
  s.modMe fun t => { t with pend := { t.pend with seq := t.pend.seq + 1,
                                                  lastStore := if store then t.pend.seq else t.pend.lastStore } }

/-- Bytes of a load as the register's word (R92). -/
def loaded (size : Nat) (sext : Bool) (l : List Byte) : Word := if sext then signExtend (8 * size) (leWord l) else leWord l

-- ==== loads ====

/-- How strong an access is. -/
inductive Strength | weak | strong (sc : Scope) | sync (sc : Scope)
deriving DecidableEq, Repr

def Strength.isWeak : Strength → Bool | .weak => true | _ => false

def Strength.scope : Strength → Scope | .weak => .core | .strong sc => sc | .sync sc => sc

/-- What a load of global memory delivers, with the value `v` read at issue: a strong one at DEVICE or wider, and one of a page of TYPE 01 or of
melt granules, delivers that value; another may deliver a later one (R207, R208, R321, log 16). -/
def State.delivery (s : State) (st : Strength) (a : Acc) (key size : Nat) (sext : Bool) (v : Word) : DelVal :=
  if a.device || a.melt || scopeAtHome st.scope then .val v
  else match st with
    | .weak => .load key size sext v
    | .strong sc | .sync sc => .narrow key size v sc s.now

/-- The register that a load of uncorrectable data fills, noted with the data's place and address (R318). -/
def State.poisonLoad (s : State) (d : Reg) (place : Nat) (pa : Word) : State :=
  let r := absReg s.me.depth d
  let s := s.unmark s.me.id.uid fun x => x == r
  { s with poisons := s.poisons ++ [(s.me.id.uid, r, place, pa)] }

/-- Bytes of the core's stores to other devices that are not yet acknowledged, in their order (R155). -/
def State.remoteStores (s : State) (core dev lpa n : Nat) : List (Nat × List Byte) :=
  (((s.core core).unacked.filter fun u => u.flit.kind == .store && u.flit.dst == dev).map fun u => (u.flit.addr.toNat, u.flit.data)).filter
    fun x => overlaps x.1 x.2.length lpa n

/-- The acquire that an LD.ACQ of the issuing strand is, once its value is read (R203, R219). -/
def State.acquired (s : State) (st : Strength) : State :=
  match st with
  | .sync sc => s.acquire s.myCore sc
  | _ => s

/-- The cycles that the self-invalidation of an LD.ACQ adds, at most (R220). -/
def acquireCycles : Strength → Nat
  | .sync sc => if scopeAtHome sc then 16 else 0
  | _ => 0

/-- A load from another device (R379): bytes that the core's own stores still hold are taken there; where they hold a part, the load waits
until they are performed (R155, log 114). -/
def State.loadRemote (s : State) (d : Reg) (ea : Word) (size : Nat) (sext : Bool) (st : Strength) (a : Acc) (dev lpa : Nat) : State :=
  let core := s.myCore
  match (s.remoteStores core dev lpa size).getLast? with
  | some x =>
    if x.1 ≤ lpa ∧ lpa + size ≤ x.1 + x.2.length then
      (s.acquired st).longWithin d .load (8 + acquireCycles st) (.val (loaded size sext ((x.2.drop (lpa - x.1)).take size)))
    else s.waits
  | none =>
    if !s.windowOpen core dev || (a.device && s.deviceOpen (some dev)) then s.waits
    else
      let f := { blankFlit .load dev s.me.id.part (BitVec.ofNat 64 lpa) with size := size, scope := st.scope }
      (s.goOn.startLong d .load).sendRequest core s.me.id.uid s.nextTag 0 ea
        { f with value := BitVec.ofNat 64 ((if sext then 1 else 0) + (match st with | .sync _ => 2 | _ => 0)) }

/-- A request that the FILLING granule of a range holds in arrival order (R196). -/
def State.holdAtMelt (s : State) (key size : Nat) (h : MeltHeld) : State :=
  { s with melts := s.melts.map fun m => if overlaps m.key 2048 key size then { m with held := m.held ++ [h] } else m }

/-- A load that meets a FILLING granule (R196): its home holds it in arrival order; the strand of a LD.ACQ, whose later accesses follow the value,
issues nothing meanwhile (R205, log 120). -/
def State.loadFilling (s : State) (d : Reg) (size : Nat) (sext : Bool) (st : Strength) (key : Nat) : State :=
  let tag := s.nextTag
  let acq := match st with
    | .sync sc => some sc
    | _ => none
  let h : MeltHeld := { uid := s.me.id.uid, tag := tag, area := none, key := key, size := size, sext := sext, acq := acq, cmd := none, flit := none }
  let s := (s.goOn.startLong d .load).holdAtMelt key size h
  if acq.isSome then s.modMe fun t => { t with front := { t.front with wait := .melt tag } } else s

/-- The place of uncorrectable data that a core's load of a range reads: bytes that its store buffer holds come from there (R220, R318). -/
def State.badRead (s : State) (core key n : Nat) : Option Nat :=
  (s.badBytes.find? fun k => key ≤ k.1 && k.1 < key + n && !buffered (s.core core).sb k.1 1).map (·.2)

/-- A load of global memory after its checks (R92, R219, R220). A LD.ACQ acquires once its value is read (R203); at DEVICE or wider that
adds at most 16 cycles. -/
def State.loadFrom (s : State) (d : Reg) (ea : Word) (size : Nat) (sext : Bool) (st : Strength) (a : Acc) : State :=
  let core := s.myCore
  let part := s.me.id.part
  let key := targetKey part a.target
  if a.device && s.deviceOpen (match a.target with | .remote dev _ => some dev | _ => none) then s.waits
  else match a.target with
  | .control lpa =>
    match s.readControlBytes s.whoMe lpa size with
    | .error r => s.takeTrap 3 r ea
    | .ok v =>
      (s.acquired st).longWithin d .load (200 + acquireCycles st) (.val (loaded size sext (forward (s.core core).sb key (wordBytes size v))))
  | .remote dev lpa => s.loadRemote d ea size sext st a dev lpa
  | t =>
    if s.meetsAtomic part key size then s.waits
    else if (s.meltAt key size).any fun m => !m.live then s.loadFilling d size sext st key
    else
      let bad := s.badRead core key size
      let x := s.loadBytes core part a size (!st.isWeak) st.scope
      let s := x.1.injectFor core part 64 t
      let v := loaded size sext x.2.1
      let give := s.delivery st a key size sext v
      let s := s.acquired st
      let n := x.2.2 + acquireCycles st
      match bad with
      | some p => (s.poisonLoad d p a.pa).longWithin d .load n (.poison v)
      | none => s.longWithin d .load n give

/-- The part-way trap that a strong load takes whose bytes meet the completion word of a FAULTED command of the strand, at TL 0
(R252, R293). -/
def State.owedWord (s : State) (ea : Word) (size : Nat) (st : Strength) : Option Cmd :=
  if st.isWeak || s.me.status.tl != 0 then none
  else s.owedFault s.me.id.uid fun c => c.hasComp && !c.control.getLsbD 3 && overlaps c.target.toNat 8 ea.toNat size

/-- A load of global memory (R92, R93, R219). -/
def State.loadGlobal (s : State) (d : Reg) (ea : Word) (size : Nat) (sext : Bool) (st : Strength) : State :=
  match s.owedWord ea size st with
  | some c => s.takeOwed c
  | none => s.accessMe .load size ea fun s a => s.loadFrom d ea size sext st a

/-- LD (R92). -/
def execLd (d a : Reg) (off : BitVec 8) (xa : Bool) (se : Bool) (sz : Size) (s : State) : Out :=
  .next (s.operands [srcA a xa] [d] true (s.loadGlobal d (effective (s.rd a) off (Size.bytes sz)) (Size.bytes sz) se .weak))

/-- LD.S (R219). -/
def execLdS (d a : Reg) (off : BitVec 8) (xa : Bool) (sz : WSize) (sc : Scope) (s : State) : Out :=
  .next (s.operands [srcA a xa] [d] true
    (s.loadGlobal d (effective (s.rd a) off (WSize.bytes sz)) (WSize.bytes sz) false (.strong sc)))

/-- LD.ACQ (R219). -/
def execLdAcq (d a : Reg) (off : BitVec 8) (xa : Bool) (sz : WSize) (sc : Scope) (s : State) : Out :=
  .next (s.operands [srcA a xa] [d] true
    (s.loadGlobal d (effective (s.rd a) off (WSize.bytes sz)) (WSize.bytes sz) false (.sync sc)))

/-- Cycles of a local load: the own core's pool, or another core's (R164); what a bank's other ports take is added (R152). -/
def localBound (own target : Nat) : Nat := if own = target then 4 else 12

/-- The delay of a local load by a conflict in its bank: at most 9 cycles, free, and none where no other port is in use (R152, log 115). -/
def State.bankDelay (s : State) (core : Nat) : Nat := if s.bankShared core then s.choose 10 else 0

/-- LDL (R95). -/
def execLdl (d a : Reg) (off : BitVec 8) (xa : Bool) (se : Bool) (sz : Size) (s : State) : Out :=
  let n := Size.bytes sz
  .next (s.operands [srcA a xa] [d] true (match s.localMe false n (effective (s.rd a) off n) with
    | .error e => s.trapWith e
    | .ok (core, at_) =>
      let key := poolKey core at_
      if s.meetsAtomic s.me.id.part key n then s.waits
      else
        let v := loaded n se (s.readPool core at_ n)
        let bound := localBound s.myCore core + s.bankDelay s.myCore
        match s.badPlace key n with
        | some p => (s.poisonLoad d p (effective (s.rd a) off n)).longWithin d .load bound (.poison v)
        | none => s.longWithin d .load bound (.load key n se v)))

-- ==== stores ====

/-- A store in the store buffer, to be performed after a finite time (R155, R209, R210), within 200 cycles where it writes a control
register (R164). -/
def State.bufferStore (s : State) (ea : Word) (a : Acc) (st : Strength) (l : List Byte) : State :=
  let t := s.me
  let e : SbEntry := { id := s.nextTag, uid := t.id.uid, slot := s.cur, seq := t.pend.seq, part := t.id.part,
                       priv := t.status.priv, va := ea, pa := a.pa, target := a.target, bytes := l, strong := !st.isWeak,
                       device := a.device, scope := st.scope }
  let d := match a.target with
    | .control _ => 1 + s.choose 199
    | _ => 1 + Config.freeNat s.tick
  (((s.modCore s.myCore fun c => { c with sb := c.sb ++ [e], sync := { c.sync with issued := s.now + 1 } }).after d
    (.storePerform s.myCore s.nextTag)).newTag.bump).counted true

/-- A store to another device: a fabric request in the order of the core's requests to that device (R155, R386, R387). -/
def State.sendStore (s : State) (ea : Word) (a : Acc) (st : Strength) (dev lpa : Nat) (l : List Byte) : State :=
  let f := { blankFlit .store dev s.me.id.part (BitVec.ofNat 64 lpa) with size := l.length, scope := st.scope, value := leWord l, data := l }
  (((s.modCore s.myCore fun c => { c with sync := { c.sync with issued := s.now + 1 } }).sendInOrder s.myCore s.me.id.uid 0 1 ea (!st.isWeak) a.device
    f).newTag).counted true

/-- A store to a page of melt granules is performed at once: the home accepts it before the next bundle (R196). -/
def State.storeNow (s : State) (a : Acc) (st : Strength) (l : List Byte) : State :=
  (s.performStore s.myCore s.me.id.part a.target true (!st.isWeak) st.scope l).counted true

/-- Are all earlier accesses of the strand performed? A release below GROUP does not wait for other devices, one at GROUP or wider for all that the
strand has asked of them (R387); a FENCE waits at every scope for its strand's memory accesses there (R221). -/
def State.allPerformed (s : State) (fence : Bool) (sc : Scope) : Bool :=
  s.performedBefore s.myCore s.me.id.uid s.me.pend.seq
    && !(5 ≤ sc.code && s.remoteOpen s.myCore s.me.id.uid) && !(fence && s.remoteMemoryOpen s.myCore s.me.id.uid)
    && !(s.melts.any fun m => !m.live && m.uid == s.me.id.uid)

/-- The release that an ST.REL is, its strand's earlier accesses performed (R219). -/
def State.released (s : State) (st : Strength) : State :=
  match st with
  | .sync sc => s.release s.myCore sc
  | _ => s

def State.releaseWaits (s : State) (st : Strength) : Bool :=
  match st with
  | .sync sc => !s.allPerformed false sc
  | _ => false

/-- Does a store to a page of TYPE 01 wait for an atomic of its strand, or for what another device than its own has not yet performed (R321)? Its
strand's buffered stores to such pages come before it by the buffer's order. -/
def State.deviceWaits (s : State) (a : Acc) : Bool :=
  let c := s.core s.myCore
  let dst := match a.target with
    | .remote dev _ => some dev
    | _ => none
  c.atomics.any (fun r => r.uid == s.me.id.uid)
    || c.unacked.any fun u => u.uid == s.me.id.uid && !u.acked && (u.flit.kind == .atomic || u.flit.kind == .red) && some u.flit.dst != dst

/-- Does a store wait before it may enter the buffer: an ST.REL for its strand's earlier accesses (R219), any store for an entry (R155), one to
a page of TYPE 01 for the strand's atomics (R321)? -/
def State.storeWaits (s : State) (st : Strength) (a : Acc) : Bool :=
  s.releaseWaits st || 32 ≤ s.storesHeld s.myCore
    || (a.device && s.deviceWaits a)

/-- Has the strand stores in its core's buffer? -/
def State.storesOpen (s : State) : Bool := (s.core s.myCore).sb.any fun e => e.uid == s.me.id.uid

/-- A store of global memory after its checks (R92, R219). One to a melt page waits for its home (R196), a strong one there for the slot's
earlier entries too (R155). -/
def State.storeTo (s : State) (ea : Word) (size : Nat) (v : Word) (st : Strength) (a : Acc) : State :=
  let core := s.myCore
  let part := s.me.id.part
  let l := wordBytes size v
  match a.target with
  | .control lpa =>
    match s.writeControlOk s.whoMe lpa size v with
    | .error r => s.takeTrap 3 (8 + r) ea
    | .ok _ => if s.storeWaits st a then s.waits else (s.released st).goOn.bufferStore ea a st l
  | .remote dev lpa =>
    if s.storeWaits st a || !s.windowOpen core dev then s.waits else (s.released st).goOn.sendStore ea a st dev lpa l
  | t =>
    let key := targetKey part t
    if (match t with | .hbm _ => (s.meltAt key size).isSome | _ => false) then s.takeTrap 6 6 ea
    else if s.storeWaits st a || s.meetsAtomic part key size then s.waits
    else if a.melt then
      if (!st.isWeak && s.storesOpen) || (s.core core).sb.any fun e => overlaps e.key e.bytes.length key size then s.waits
      else (s.released st).goOn.storeNow a st l
    else ((s.released st).goOn.injectFor core part 64 t).bufferStore ea a st l

/-- A store of global memory (R92, R93, R219). -/
def State.storeGlobal (s : State) (ea : Word) (size : Nat) (v : Word) (st : Strength) : State :=
  s.accessMe .store size ea fun s a => s.storeTo ea size v st a

/-- ST (R92). -/
def execSt (d a : Reg) (xd : Bool) (off : BitVec 8) (xa : Bool) (sz : Size) (s : State) : Out :=
  .next (s.operands [srcA a xa, srcD d xd] [] false
    (s.storeGlobal (effective (s.rd a) off (Size.bytes sz)) (Size.bytes sz) (s.rd d) .weak))

/-- ST.S (R219). -/
def execStS (d a : Reg) (xd : Bool) (off : BitVec 8) (xa : Bool) (sz : WSize) (sc : Scope) (s : State) : Out :=
  .next (s.operands [srcA a xa, srcD d xd] [] false
    (s.storeGlobal (effective (s.rd a) off (WSize.bytes sz)) (WSize.bytes sz) (s.rd d) (.strong sc)))

/-- ST.REL (R219). -/
def execStRel (d a : Reg) (xd : Bool) (off : BitVec 8) (xa : Bool) (sz : WSize) (sc : Scope) (s : State) : Out :=
  .next (s.operands [srcA a xa, srcD d xd] [] false
    (s.storeGlobal (effective (s.rd a) off (WSize.bytes sz)) (WSize.bytes sz) (s.rd d) (.sync sc)))

/-- STL (R95): performed at issue. -/
def execStl (d a : Reg) (xd : Bool) (off : BitVec 8) (xa : Bool) (sz : Size) (s : State) : Out :=
  let n := Size.bytes sz
  .next (s.operands [srcA a xa, srcD d xd] [] false (match s.localMe true n (effective (s.rd a) off n) with
    | .error e => s.trapWith e
    | .ok (core, at_) =>
      if s.meetsAtomic s.me.id.part (poolKey core at_) n || s.lockedFor s.myCore s.me.id.uid (poolKey core at_) n then s.waits
      else ((s.goOn.writePool core at_ (wordBytes n (s.rd d))).published s.myCore).counted true))

/-- Is a buffered store still to wait: for an overlapping earlier entry of its core, for the earlier stores of its strand if it is strong (R155),
for its strand's earlier stores to TYPE 01 pages if its own is one (R321), or for an atomic that it may not divide? -/
def State.storeHeld (s : State) (core : Nat) (e : SbEntry) : Bool :=
  (s.core core).sb.any (fun x => x.id < e.id && overlaps x.key x.bytes.length e.key e.bytes.length)
  || s.earlierStore core e.uid e.id e.strong e.device none
  || s.lockedFor core e.uid e.key e.bytes.length

/-- A buffered store performed; a write of control space becomes its register's step, one to another device a fabric request. -/
def State.performEntry (s : State) (core : Nat) (e : SbEntry) : State :=
  match e.target with
  | .control lpa =>
    let ev := s.controlEvent { core := core, part := e.part, asid := 0, priv := e.priv } lpa e.bytes.length (leWord e.bytes)
    (s.published core).afterArg 0 ev.1 ev.2
  | .remote dev lpa =>
    s.sendRequest core e.uid 0 1 e.va { blankFlit .store dev e.part (BitVec.ofNat 64 lpa) with
      size := e.bytes.length, scope := e.scope, value := leWord e.bytes, data := e.bytes }
  | t => s.performStore core e.part t e.device e.strong e.scope e.bytes

/-- STORE_PERFORM (R155, R209, R219). -/
def execStorePerform (core id : Nat) (s : State) : Out :=
  .next (match (s.core core).sb.find? fun e => e.id == id with
    | none => s
    | some e =>
      if s.storeHeld core e then s.after 1 (.storePerform core id)
      else ((s.modCore core fun c => { c with sb := c.sb.filter fun x => x.id != id }).performEntry core e).pump core)

-- ==== fences and cache operations (R221-R224) ====

/-- FENCE (R204, R221): a release and an acquire of its scope, once every earlier memory access is performed. -/
def execFence (g : PReg) (sc : Scope) (s : State) : Out :=
  .next (s.guarded g (if !s.allPerformed true sc then s.waits else (s.goOn.release s.myCore sc).acquire s.myCore sc))

/-- The fetch blocks of a core's slots and its instruction buffer discarded. -/
def State.dropFetch (s : State) (core : Nat) : State :=
  ({ s with slots := s.slots.map fun i t => if coreOf i = core then { t with front := { t.front with fetch := none } } else t }).modCore
    core fun c => { c with ibuf := [] }

/-- IFENCE (R222). -/
def execIfence (g : PReg) (s : State) : Out := .next (s.guarded g (s.goOn.dropFetch s.myCore))

/-- A core's copy of a line cleaned; it stays. -/
def State.cleanAt (s : State) (core line : Nat) : State := s.flushRange core (line * 64) 64

/-- A core's copy of a line dropped, its dirty bytes written home first. -/
def State.dropAt (s : State) (core line : Nat) : State :=
  (s.cleanAt core line).modCore core fun c => { c with l1d := c.l1d.filter fun x => x.line != line }

/-- The home slice writes a line's dirty piece to HBM and keeps it clean (R224). -/
def State.pieceClean (s : State) (line : Nat) : State :=
  s.modSlice (s.homeOfGran (line / 32)) fun x => { x with tags := x.tags.map fun t =>
    if t.gran = line / 32 ∧ !t.rep then { t with dirty := t.dirty &&& ~~~(1#32 <<< (line % 32)) } else t }

/-- The check and the line of a cache operation (R224): of another device this device holds no copies; a line of a melt page has none. -/
def State.cacheOp (s : State) (a : Reg) (xa : Bool) (g : PReg) (act : State → Nat → State) : State :=
  s.guarded g (s.operands [srcA a xa] [] false (s.accessMe .load 1 (s.rd a) fun s x =>
    match x.target with
    | .hbm lpa => if x.melt then s.goOn else act s.goOn (hbmKey s.me.id.part lpa / 64)
    | .host port y => act s.goOn (hostKey port y / 64)
    | _ => s.goOn))

/-- CFLUSH (R224). -/
def execCflush (a : Reg) (xa : Bool) (g : PReg) (sc : Scope) (s : State) : Out :=
  .next (s.cacheOp a xa g fun s line =>
    if sc = .device then
      (s.cores.foldl (fun s c => s.cleanAt c.1 line) (s.mergePartials (line * 64) 64)).pieceClean line
    else s.cleanAt s.myCore line)

/-- CINV (R224). -/
def execCinv (a : Reg) (xa : Bool) (g : PReg) (sc : Scope) (s : State) : Out :=
  .next (s.cacheOp a xa g fun s line =>
    if sc = .device then
      let die := dieOf s.myCore
      (s.cores.foldl (fun s c => if dieOf c.1 = die then s.dropAt c.1 line else s) s).dropReplicas fun r =>
        r.1 / 64 == die && r.2.line == line
    else s.dropAt s.myCore line)

-- ==== atomics (R212, R217, R225-R228) ====

/-- Cycles of an atomic by its place (R228, R359); a line that its home does not hold adds the time of R164. -/
def State.atomicBound (s : State) (part : Nat) (sc : Scope) (t : Target) : Nat :=
  let core := s.myCore
  match t with
  | .hbm lpa =>
    let home := s.homeOf part lpa
    let line := hbmKey part lpa / 64
    let missing := if s.linePresent home line false then 0 else s.homeBound core part lpa
    if sc.code ≤ 1 && home / 64 == dieOf core then 10 + (if (s.copyOf core line).isSome then 0 else s.homeBound core part lpa)
    else if sc = .cluster then 24 + missing
    else if home / 64 = dieOf core then (if home % 64 / 4 = clusterOf core % 16 then 30 else 50) + missing
    else (if s.farDies (home / 64) (dieOf core) then 170 else 130) + missing
  | _ => 1000

/-- The reply of a request queued with the core's atomics, `bound` cycles at most. -/
def State.queueAtomic (s : State) (r : AtomicReq) (bound : Nat) : State :=
  let r := { r with limit := s.now + bound }
  (s.modCore s.myCore fun c => { c with atomics := c.atomics ++ [r] }).within bound (.atomicExecute r)

/-- An atomic after its checks: on a pool, in HBM, in host memory, or at another device (R212, R225). -/
def State.atomicTo (s : State) (d : Option Reg) (ea : Word) (size : Nat) (rmw : Rmw) (v : Word) (sc : Scope) (a : Acc) : State :=
  let core := s.myCore
  let part := s.me.id.part
  let uid := s.me.id.uid
  let start (s : State) : State := match d with
    | some d => ((s.goOn.counted true).startLong d .atomic)
    | none => (s.goOn.counted true).newTag
  if 32 ≤ s.atomicsHeld core then s.waits
  else match a.target with
  | .control _ => s.takeTrap 3 11 ea
  | .remote dev lpa =>
    if !s.windowOpen core dev || !(s.remoteStores core dev lpa size).isEmpty || (a.device && s.deviceOpen (some dev)) then s.waits
    else
      let f := { blankFlit (if d.isSome then .atomic else .red) dev part (BitVec.ofNat 64 lpa) with
                 size := size, scope := sc, rmw := some rmw, value := v }
      (start s).sendRequest core uid (if d.isSome then s.nextTag else 0) 2 ea f
  | t =>
    let key := targetKey part t
    if (match t with | .hbm _ => (s.meltAt key size).isSome | _ => false) then s.takeTrap 6 6 ea
    else if a.device && s.deviceOpen none then s.waits
    else
      let r : AtomicReq := { uid := uid, tag := s.nextTag, core := core, part := part, key := key, size := size, rmw := rmw,
                             value := v, scope := sc, seq := s.me.pend.seq, old := none, done := false, melt := a.melt || a.device, limit := 0 }
      ((start s).injectFor core part 64 t).queueAtomic r (s.atomicBound part sc t)

/-- An atomic on the local form: the scratchpad bank of the core that the address names (R212, R217). -/
def State.atomicLocal (s : State) (d : Option Reg) (size : Nat) (rmw : Rmw) (v : Word) (sc : Scope) (core at_ : Nat) : State :=
  if 32 ≤ s.atomicsHeld s.myCore then s.waits
  else
    let r : AtomicReq := { uid := s.me.id.uid, tag := s.nextTag, core := s.myCore, part := s.me.id.part,
                           key := poolKey core at_, size := size, rmw := rmw, value := v, scope := sc, seq := s.me.pend.seq,
                           old := none, done := false, melt := false, limit := 0 }
    let s' := match d with
      | some d => ((s.goOn.counted true).startLong d .atomic)
      | none => (s.goOn.counted true).newTag
    s'.queueAtomic r (if core = s.myCore then 6 else if quadOf core = quadOf s.myCore then 14 else 20)

/-- The checks of an atomic's address in the order of R217, then the atomic. -/
def State.atomicAt (s : State) (d : Option Reg) (ea : Word) (size : Nat) (rmw : Rmw) (v : Word) (sc : Scope) : State :=
  if bitsOf ea 32 32 = 0xffffffff then
    if 2 ≤ sc.code then s.takeTrap 3 25 ea
    else match s.localMe true size (BitVec.ofNat 64 (bitsOf ea 0 32)) with
      | .error e => s.trapWith e
      | .ok (core, at_) => s.atomicLocal d size rmw v sc core at_
  else s.accessMe .rmw size ea fun s a => s.atomicTo d ea size rmw v sc a

/-- The AMO family (R225). -/
def State.amo (s : State) (op : AmoOp) (d a b : Reg) (xa xb : Bool) (g : PReg) (sz : WSize) (sc : Scope) : State :=
  s.guarded g (s.operands [srcA a xa, srcB b xb] [d] true
    (s.atomicAt (some d) (s.rd a) (WSize.bytes sz) (.amo op) (s.rd b) sc))

/-- AMO.ADD (R225). -/
def execAmoAdd (d a b : Reg) (xa xb : Bool) (g : PReg) (sz : WSize) (sc : Scope) (s : State) : Out :=
  .next (s.amo .add d a b xa xb g sz sc)

/-- AMO.SWAP (R225). -/
def execAmoSwap (d a b : Reg) (xa xb : Bool) (g : PReg) (sz : WSize) (sc : Scope) (s : State) : Out :=
  .next (s.amo .swap d a b xa xb g sz sc)

/-- AMO.AND (R225). -/
def execAmoAnd (d a b : Reg) (xa xb : Bool) (g : PReg) (sz : WSize) (sc : Scope) (s : State) : Out :=
  .next (s.amo .and d a b xa xb g sz sc)

/-- AMO.OR (R225). -/
def execAmoOr (d a b : Reg) (xa xb : Bool) (g : PReg) (sz : WSize) (sc : Scope) (s : State) : Out :=
  .next (s.amo .or d a b xa xb g sz sc)

/-- AMO.XOR (R225). -/
def execAmoXor (d a b : Reg) (xa xb : Bool) (g : PReg) (sz : WSize) (sc : Scope) (s : State) : Out :=
  .next (s.amo .xor d a b xa xb g sz sc)

/-- AMO.MIN (R225). -/
def execAmoMin (d a b : Reg) (xa xb : Bool) (g : PReg) (sz : WSize) (sc : Scope) (s : State) : Out :=
  .next (s.amo .min d a b xa xb g sz sc)

/-- AMO.MAX (R225). -/
def execAmoMax (d a b : Reg) (xa xb : Bool) (g : PReg) (sz : WSize) (sc : Scope) (s : State) : Out :=
  .next (s.amo .max d a b xa xb g sz sc)

/-- CAS (R226): D is a source without an X-bit and the destination. -/
def execCas (d a b : Reg) (xa xb : Bool) (g : PReg) (sz : WSize) (sc : Scope) (s : State) : Out :=
  .next (s.guarded g (s.operands [srcA a xa, srcB b xb, srcPlain d] [d] true
    (s.atomicAt (some d) (s.rd a) (WSize.bytes sz) (.cas (s.rd d)) (s.rd b) sc)))

/-- RED (R227). -/
def execRed (op : RedOp) (a b : Reg) (xa xb : Bool) (g : PReg) (sz : WSize) (sc : Scope) (s : State) : Out :=
  .next (s.guarded g (s.operands [srcA a xa, srcB b xb] [] false
    (s.atomicAt none (s.rd a) (WSize.bytes sz) (.red op) (s.rd b) sc)))

/-- A RED at DIE or DEVICE scope taken into state U (R213): the line's copies go, partials of another kind merge first, and the operand joins
the partial of its core or of its die, which of the two is open. -/
def State.takeRed (s : State) (r : AtomicReq) (op : RedOp) : State :=
  let s := s.closeSplits r.core r.uid r.key r.size
  let line := r.key / 64
  let other := s.partials.any fun p =>
    overlaps p.key p.size r.key r.size && !(p.key == r.key && p.size == r.size && p.op == op)
  let s := if other then s.mergePartials r.key r.size else s
  let s := ((s.flushRange r.core r.key r.size).wrote r.core (line * 64) 64).modCore r.core fun c =>
    { c with l1d := c.l1d.filter fun l => l.line != line }
  let holder := if s.coin then 4 + r.core else dieOf r.core
  let s := s.bump
  let mine (p : Partial) : Bool := p.key == r.key && p.holder == holder
  if s.partials.any mine then
    { s with partials := s.partials.map fun p =>
        if mine p then { p with value := redApply op (r.core % 2 ^ 11) r.size p.value r.value } else p }
  else { s with partials := s.partials ++ [{ key := r.key, size := r.size, op := op, holder := holder, value := r.value }] }

/-- Is an atomic at a place that makes it indivisible toward every agent (R212, R215): host memory, a home slice at DEVICE scope or wider, or
the home slice of another die's line at CORE or QUAD scope? -/
def State.indivisible (s : State) (r : AtomicReq) : Bool :=
  4 ≤ r.scope.code || 2 ^ 65 ≤ r.key
    || (r.scope.code ≤ 1 && r.key < 2 ^ 55 && s.offDie r.core r.part (.hbm (r.key % 2 ^ 49)))

/-- The request is no longer outstanding; an AMO or CAS delivers the value it read (R225, R228). -/
def State.atomicDone (s : State) (r : AtomicReq) (old : Word) : State :=
  (s.modCore r.core fun c => { c with atomics := c.atomics.filter fun x => x.tag != r.tag }).deliverTo r.uid r.tag
    (.val (rmwOld r.rmw r.size old))

/-- The store of an atomic that has read `old`, unless another store has had to wait for it, and its end. At CORE and QUAD scope the line of
the own die comes to the core's L1D (R212), unless its page has the melt attribute or TYPE 01 (R196, R321). -/
def State.atomicStore (s : State) (r : AtomicReq) (old : Word) : State :=
  let s := if r.done then s else ((s.closeSplits r.core r.uid r.key r.size).closeSplit { r with old := some old }).published r.core
  let s := if !r.melt && r.scope.code ≤ 1 && r.key < 2 ^ 55 && !s.offDie r.core r.part (.hbm (r.key % 2 ^ 49)) then s.admitOwn r.core (r.key / 64) else s
  s.atomicDone r old

/-- Is an atomic to wait: for an earlier overlapping store of its core in the store buffer, whose bytes its strand's loads have been given (R155,
R208), for an earlier atomic of its strand, or for
one that is between its load and its store and that it may not divide (R94, R212)? -/
def State.atomicHeld (s : State) (r : AtomicReq) : Bool :=
  (s.core r.core).sb.any (fun e => e.id < r.tag && overlaps e.key e.bytes.length r.key r.size)
  || s.cores.any (fun c => c.2.atomics.any fun x =>
      x.tag != r.tag && x.old.isSome && !x.done && overlaps x.key x.size r.key r.size
        && s.inScope x.scope x.core x.uid r.core r.uid && s.inScope r.scope r.core r.uid x.core x.uid)
  || (s.core r.core).atomics.any fun x => x.uid == r.uid && x.seq < r.seq && overlaps x.key x.size r.key r.size

/-- A request whose place has not read yet: into state U, or indivisibly at its place; `split` leaves its store for later, within the time of its
delivery (R228). -/
def State.atomicStart (s : State) (r : AtomicReq) (split : Bool) : State :=
  match r.rmw, (r.scope == .die || r.scope == .device) && decide (r.key < 2 ^ 55) with
  | .red op, true => (s.takeRed r op).atomicDone r 0
  | _, _ =>
    let s := if r.key < 2 ^ 55 then ((s.flushRange r.core r.key r.size).mergePartials r.key r.size).touchHome r.key r.size true else s
    let old := leWord (s.mem.readBytes r.key r.size)
    if split && decide (s.now < r.limit) then
      (s.modCore r.core fun c => { c with atomics := c.atomics.map fun x => if x.tag = r.tag then { x with old := some old } else x }).after
        (1 + s.choose (min 4 (r.limit - s.now))) (.atomicExecute r)
    else s.atomicStore r old

/-- ATOMIC_EXECUTE (R212, R213, R225-R228): at its place, indivisibly, or, where its scope is narrower than the device, as a
load and a later store, a choice that is open. -/
def execAtomicExecute (r : AtomicReq) (s : State) : Out :=
  .next (match (s.core r.core).atomics.find? fun x => x.tag == r.tag with
    | none => s
    | some x => match x.old with
      | some old => s.atomicStore x old
      | none =>
        if s.atomicHeld x then s.after 1 (.atomicExecute r)
        else s.bump.atomicStart x (!s.indivisible x && s.coin))

/-- Every earlier access of a strand performed now, as a release needs it (R434): the stores of its core's buffer in their
order, its atomics, after any atomic that is between its load and its store; its loads keep the values that they read. -/
def State.settle (s : State) (core uid : Nat) : State :=
  let halves := s.cores.flatMap fun c => c.2.atomics.filter fun r => r.old.isSome
  let s := halves.foldl (fun s r => match r.old with | some v => s.atomicStore r v | none => s) s
  let sb := (s.core core).sb
  let s := sb.foldl (fun s e => s.performEntry core e) (s.modCore core fun c => { c with sb := [] })
  let mine := (s.core core).atomics.filter fun r => r.uid == uid
  let s := (mine.foldl (fun s r => s.atomicStart r false) s).pump core
  match s.slotOf uid with
  | some i => s.modSlot i fun t => { t with pend := { t.pend with lastStore := t.pend.seq } }
  | none => s

/-- The issuing strand's release at a scope: all its earlier accesses performed, then the release of its core (R210, R434). -/
def State.releaseMe (s : State) (sc : Scope) : State := (s.settle s.myCore s.me.id.uid).release s.myCore sc

-- ==== fetching (R86, R90, R223) ====

/-- The 64 bytes of a fetch block as the instruction buffer gives them: a block that it holds may serve, without limit of
time; else the home slice or a replica fills it. -/
def State.fetchBytes (s : State) (core part : Nat) (pa : Word) (t : Target) : State × List Byte :=
  let line := pa.toNat / 64 * 64
  let k := part * 2 ^ 64 + line
  let use := s.coin
  let s := s.bump
  match (s.core core).ibuf.find? fun b => b.1 == k with
  | some b => if use then (s, b.2) else fill s k
  | none => fill s k
where
  fill (s : State) (k : Nat) : State × List Byte :=
    let key := targetKey part t / 64 * 64
    let s := if key < 2 ^ 55 then (s.flushRange core key 64).mergePartials key 64 else s
    let reps := s.replicas.filter fun r => r.1 / 64 == dieOf core && r.2.line == key / 64
    let l := match reps[s.choose (reps.length + 1)]? with
      | some r => r.2.bytes
      | none => s.readHome key 64
    let s := if key < 2 ^ 55 then s.bump.touchHome key 64 false else s.bump
    (s.modCore core fun c =>
      let rest := c.ibuf.filter fun b => b.1 != k
      { c with ibuf := (k, l) :: rest.take 63 }, l)

/-- Does the core still buffer a store to a fetch block? The fetch waits for it, so that a strand runs what it has stored itself once the
conditions of R223 hold. -/
def State.fetchWaits (s : State) (core part : Nat) (t : Target) : Bool :=
  (s.core core).sb.any fun e => overlaps e.key e.bytes.length (targetKey part t / 64 * 64) 64

/-- The fetch of a slot's next block, with its faults (R90, R315, R318, R322). -/
def State.fetchBlock (s : State) (i : Nat) : State :=
  let s := { s with cur := i }
  let t := s.slot i
  let va := t.pc
  let put (s : State) (l : List Byte) (f : Option (Nat × Nat × Word)) : State :=
    s.modSlot i fun t => { t with front := { t.front with fetch := some { va := BitVec.ofNat 64 (va.toNat / 64 * 64), bytes := l, fault := f } } }
  let w : Who := { core := coreOf i, part := t.id.part, asid := t.id.asid, priv := t.status.priv }
  if s.mustWalk 8 va then
    match s.walkFailed va with
    | some r => put s [] (some (4, 16 + r, va))
    | none => (s.awaitWalk va).withFlow .seq
  else match s.access w .fetch 8 va with
  | (s, .error e) => put s [] (some (e.cls, e.detail, va))
  | (s, .ok a) =>
    match a.target with
    | .control _ => put s [] (some (3, 19, va))
    | .remote _ _ => put s [] (some (3, 18, va))
    | t =>
      if s.fetchWaits (coreOf i) w.part t then s.modSlot i fun t => { t with front := { t.front with readyAt := s.now + 1 } }
      else match s.badPlace (targetKey w.part t / 64 * 64) 64 with
        | some p => put s [] (some (11, p * 8 + 1, a.pa))
        | none =>
          let x := s.fetchBytes (coreOf i) w.part a.pa t
          put x.1 x.2 none

/-- BUNDLE_FETCH (R86, R90). -/
def execBundleFetch (slot : Nat) (s : State) : Out := .next (s.fetchBlock slot)

/-- ILLEGAL_INSTRUCTION (R45): detail W x 16 + reason, TVAL the word. -/
def execIllegalInstruction (detail : BitVec 5) (word : BitVec 32) (s : State) : Out :=
  .next (s.takeTrapNow 0 detail.toNat (word.setWidth 64))

-- ==== requests under an old slice map (R160, R367) ====

/-- The number and the memory key of the request that a step which is due performs at its home: an atomic, a buffered store, a load. -/
def State.requestAt (s : State) : Instr → Option (Nat × Nat)
  | .atomicExecute r => some (r.tag, r.key)
  | .storePerform core id => ((s.core core).sb.find? fun e => e.id == id).map fun e => (id, e.key)
  | .deliver _ tag (.load key _ _ _) => some (tag, key)
  | .deliver _ tag (.narrow key _ _ _ _) => some (tag, key)
  | _ => none

/-- MEMORY_HOMEMOVED (R367): a request for a line that was chosen under the tables before the last installation has reached a home that has moved;
it is hashed again and resent, at most once for an installation, and the program sees a longer latency only (R160). -/
def execMemoryHomemoved (part addr : Nat) (s : State) : Out :=
  let n := 1 + Config.freeNat s.tick
  let mine (x : Due) : Option Nat :=
    (s.requestAt x.ev).bind fun r => if (s.part part).moved.contains r.1 && r.2 / 64 == hbmKey part addr / 64 then some r.1 else none
  let later (x : Due) : Due := if (mine x).isSome then { x with due := x.due + n } else x
  let told := s.agenda.filterMap mine
  .next ((({ s with agenda := s.agenda.map later } : State).modPart part fun p => { p with moved := p.moved.filter fun i => !told.contains i }).bump)

end Sys2Proof.Machine
end

