-- ==== Sys2Proof/Machine/Contexts.lean ====
section
/-! DEFINITION. Contexts: the context control block and its completion words (R312, R313), the live-strand count and the
POOL latch (R118, R149), continuation records and their checks (R102-R104), strand numbers (R106), run queues (R107), and the
choice of a slice holder (R115-R117). -/

namespace Sys2Proof.Machine

-- ==== the context control block (R312, R313) ====

/-- A word of a context's CCB, as its home slice holds it. -/
def State.ccbWord (s : State) (part ctx off : Nat) : Word :=
  leWord (s.readMerged (hbmKey part ((s.context (contextKey part ctx)).ccb.toNat + off)) 8).2

def State.putCcb (s : State) (part ctx off : Nat) (w : Word) : State :=
  s.writeHome deviceCore (hbmKey part ((s.context (contextKey part ctx)).ccb.toNat + off)) (wordBytes 8 w)

/-- CTXW (R313). -/
def State.asidOf (s : State) (part ctx : Nat) : Nat := bitsOf (s.ccbWord part ctx 0) 20 12

/-- Where an address leads under an ASID with the permission of an access at a privilege; none where the address is malformed or refused. -/
def State.placeAs (s : State) (part asid : Nat) (priv : Priv) (k : AccKind) (size : Nat) (va : Word) : State × Option Target :=
  if va.getLsbD 63 || !aligned va.toNat size then (s, none)
  else
    let x := s.walk 0 part asid va
    match x.2.result with
    | .error _ => (x.1, none)
    | .ok (leaf, bits) =>
      let pa := BitVec.ofNat 64 (leaf.toNat / 2 ^ bits * 2 ^ bits + va.toNat % 2 ^ bits)
      if !permitted leaf priv k then (x.1, none)
      else match x.1.resolve { core := 0, part := part, asid := asid, priv := priv } (bitsOf leaf 8 2 == 1) pa with
        | .ok t => (x.1, some t)
        | .error _ => (x.1, none)

/-- A store of a completion word under an ASID with the permission of a store at a privilege, S for a context's own (R312): to memory, to a control register as its
own step, or to another device as a fabric request of the port (R322); where it is refused nothing happens. -/
def State.storeAs (s : State) (part asid : Nat) (priv : Priv) (va : Word) (l : List Byte) : State :=
  let x := s.placeAs part asid priv .store l.length va
  let s := x.1
  match x.2 with
  | some (.hbm lpa) => if (s.meltAt (hbmKey part lpa) l.length).isSome then s else s.writeHome deviceCore (hbmKey part lpa) l
  | some (.host port y) => s.writeHome deviceCore (hostKey port y) l
  | some (.control lpa) =>
    let w : Who := { core := 0, part := part, asid := asid, priv := priv }
    match s.writeControlOk w lpa l.length (leWord l) with
    | .ok _ => let ev := s.controlEvent w lpa l.length (leWord l); s.afterArg 0 ev.1 ev.2
    | .error _ => s
  | some (.remote dev lpa) =>
    s.sendRequest portCore 0 0 deviceKind va { blankFlit .store dev part (BitVec.ofNat 64 lpa) with
      size := l.length, scope := .system, value := leWord l, data := l }
  | none => s

/-- A CCB completion word completes (R312): SEQ rises in its control word, and the value goes to a completion word under the
context's ASID or to a landing name; where it cannot be delivered nothing else happens. -/
def State.completeCcb (s : State) (part ctx off status : Nat) : State :=
  let target := s.ccbWord part ctx off
  let control := s.ccbWord part ctx (off + 8)
  let seq := (bitsOf control 16 48 + 1) % 2 ^ 48
  let value := BitVec.ofNat 64 (seq * 65536 + status)
  let s := s.putCcb part ctx (off + 8) (BitVec.ofNat 64 (seq * 65536 + bitsOf control 0 16))
  if target = 0 then s
  else if control.getLsbD 3 then
    s.after 1 (.landingArrival { name := target, value := value, scope := .device, part := part, src := .ccb, rel := none })
  else s.storeAs part (s.asidOf part ctx) .s target (wordBytes 8 value)

/-- The scheduler exception word (R104): an event that finds VALID set only sets OVERRUN; the exception completion word
completes either way. -/
def State.exceptWord (s : State) (part ctx off : Nat) (w : Word) : State :=
  let old := s.ccbWord part ctx off
  (s.putCcb part ctx off (if old.getLsbD 0 then old ||| 2#64 else w ||| 1#64)).completeCcb part ctx 64 0

/-- A record refused for a reason (R104); one that has no address in memory, of SPAWN, YIELD or a root, reports 0 (log 117). -/
def State.refuseRecord (s : State) (part ctx : Nat) (addr : Word) (reason : Nat) : State :=
  s.exceptWord part ctx 96 (BitVec.ofNat 64 (addr.toNat / 64 * 64 + reason * 4))

/-- A root record refused (R104, REASON 10). -/
def State.refuseRoot (s : State) (part ctx lseq ridx reason : Nat) : State :=
  s.exceptWord part ctx 96 (BitVec.ofNat 64 (lseq * 2 ^ 32 + ridx * 2 ^ 22 + reason * 2 ^ 18 + 40))

-- ==== melt granules that end (R196, R198)

/-- A granule becomes ORDINARY. -/
def State.meltGone (s : State) (key : Nat) : State :=
  { s with melts := s.melts.filter fun m => m.key != key, mem := s.mem.clear (meltKey key) (meltKey key + 2048) }

/-- A granule's pieces written back, and an under-read event for its context (R196, R198). -/
def State.meltEnd (s : State) (m : Melt) (reason : Nat) : State :=
  let l := s.mem.readBytes (meltKey m.key) 2048
  let s := (s.meltGone m.key)
  let s := (s.storeHome deviceCore m.key l).touchHome m.key 2048 false
  s.exceptWord m.part m.ctx 104 (BitVec.ofNat 64 (m.key % 2 ^ 49 / 2048 * 2 ^ 26 + m.count * 2 ^ 18 + reason * 4))

/-- The LIVE granules of a context that ends are written back (R196, R299). -/
def State.endMelts (s : State) (part ctx : Nat) : State :=
  (s.melts.filter fun m => m.part == part && m.ctx == ctx && m.live).foldl (fun s m => s.meltEnd m 2) s

-- ==== live strands (R118, R149) ====

/-- Is a partition word valid (R149)? -/
def poolValid (w : Word) : Bool :=
  decide (1 ≤ bitsOf w 0 6) && bitsOf w 0 6 + bitsOf w 6 6 + bitsOf w 12 6 == 48 && bitsOf w 18 46 == 0

/-- One more live strand; the first latches the POOL word. -/
def State.liveUp (s : State) (part ctx : Nat) : State :=
  let pool := s.ccbWord part ctx 8
  s.modContext (contextKey part ctx) fun c =>
    if c.live = 0 then { c with live := 1, pool := pool, latch := c.latch + 1 } else { c with live := c.live + 1 }

/-- One live strand less; with the last the context ends: its LIVE granules are written back, and the exit completion word
completes (R118, R299). -/
def State.liveDown (s : State) (part ctx : Nat) : State :=
  let n := (s.context (contextKey part ctx)).live - 1
  let s := s.modContext (contextKey part ctx) fun c => { c with live := n }
  if n = 0 then (s.endMelts part ctx).completeCcb part ctx 48 0 else s

/-- The next strand number of a context (R106): the counter holds it, 1 where it is zero; none where the counter would pass 2^32 - 1
(log 33). -/
def State.newNumber (s : State) (part ctx : Nat) : Option (State × BitVec 32) :=
  let n := max 1 (bitsOf (s.ccbWord part ctx 24) 0 32)
  if n = 0xffffffff then none
  else some (s.putCcb part ctx 24 (BitVec.ofNat 64 (n + 1)), BitVec.ofNat 32 n)

-- ==== continuation records (R102-R104) ====

def recPlace (r : Record) : Nat := bitsOf r.ctl 48 16

def recNreg (r : Record) : Nat := bitsOf r.ctl 44 4

def recPri (r : Record) : Nat := bitsOf r.ctl 40 4

def recCtx (r : Record) : Nat := bitsOf r.ctl 0 16

/-- A record from its 64 bytes. -/
def recordOf (l : List Byte) : Record :=
  { pc := leWord (l.take 8), ctl := leWord ((l.drop 8).take 8),
    s := (List.range 6).map fun i => leWord ((l.drop (16 + 8 * i)).take 8) }

/-- The 64 bytes of a record. -/
def recBytes (r : Record) : List Byte :=
  wordBytes 8 r.pc ++ wordBytes 8 r.ctl ++ ((List.range 6).map fun i => wordBytes 8 (r.s.getD i 0)).flatten

/-- The control word of a record. -/
def recordCtl (place nreg pri : Nat) (pw : BitVec 8) (fmt : BitVec 4) (ctx : Nat) : Word :=
  BitVec.ofNat 64 (place * 2 ^ 48 + nreg * 2 ^ 44 + pri * 2 ^ 40 + pw.toNat / 2 * 2 ^ 33 + fmt.toNat * 2 ^ 16 + ctx)

/-- Is a cluster usable by a partition: its quantum owned and not disabled (R4, R5)? -/
def State.usable (s : State) (part q : Nat) : Bool := (s.part part).quanta.getLsbD q && !s.plat.disabled.getLsbD q

def placeAssigned (p : Nat) : Bool := p == 0xffff || p == 0xfffe || (decide (0x8000 ≤ p) && decide (p < 0x8018))

/-- The POOL word that a context has, or would latch now. -/
def State.poolNow (s : State) (part ctx : Nat) : Word :=
  let c := s.context (contextKey part ctx)
  if c.live = 0 then s.ccbWord part ctx 8 else c.pool

/-- The first of R104's reasons 1-8 that a record fails as a record of a context in a cluster; `own` makes reason 6 count. -/
def State.recordReason (s : State) (q part ctx : Nat) (own : Bool) (r : Record) : Option Nat :=
  if 6 < recNreg r then some 1
  else if r.pc.toNat % 8 ≠ 0 || r.pc.getLsbD 63 then some 2
  else if bitsOf r.ctl 20 12 ≠ 0 then some 3
  else if !placeAssigned (recPlace r) then some 4
  else if recPlace r < 0x8018 && !s.usable part q then some 5
  else if own && recCtx r ≠ ctx then some 6
  else if !poolValid (s.poolNow part ctx) then some 7
  else if bitsOf (s.ccbWord part ctx 0) 17 2 = 2 then some 8
  else none

-- ==== run queues (R107) ====

/-- The context of an entry of a cluster's context table (R327). -/
def tableCtx (w : BitVec 256) : Nat := w.toNat % 65536

def tableWeight (w : BitVec 256) : Nat := w.toNat / 2 ^ 16 % 16

def tableRun (w : BitVec 256) : Bool := w.getLsbD 20

def tableCcb (w : BitVec 256) : Nat := w.toNat / 2 ^ 64 % 2 ^ 49

def tableImage (w : BitVec 256) : Nat := w.toNat / 2 ^ 128 % 2 ^ 49

/-- The entry of a context in a cluster's table with a nonzero weight. -/
def Cluster.entryOf (c : Cluster) (ctx : Nat) : Option Nat :=
  (c.ctable.find fun _ w => tableCtx w == ctx && tableWeight w != 0).map (·.1)

/-- The memory key of a record of a context's overflow list: the list stands at the address of the CCB's bytes 32-39, 64 bytes a record
(R107, R312, log 116). -/
def State.listKey (s : State) (k i : Nat) : Nat := hbmKey (k / 65536) (((s.ccbWord (k / 65536) (k % 65536) 32).toNat + 64 * i) % 2 ^ 49)

/-- The records of a context's overflow list that a cluster put there, as memory holds them now. -/
def State.listed (s : State) (q k : Nat) : List QEntry :=
  ((s.context k).overflow.filter fun p => p.1 == q).map fun p =>
    { p.2.2 with record := recordOf (s.readMerged (s.listKey k p.2.1) 64).2 }

/-- Records of a cluster's queue: those in it, and those chosen for a slot that is not loaded, which keep their entries. -/
def State.queued (s : State) (q k : Nat) : Nat :=
  ((s.cluster q).queues.get [] k).length + (s.slots.select fun i t =>
    clusterOf (coreOf i) == q && decide (t.phase = .chosen) && contextKey t.id.part t.id.ctx == k).length

/-- The other clusters of a die look for a record to steal in a cluster's queue (R110). -/
def State.pokeThieves (s : State) (q : Nat) (r : Record) : State :=
  if recPlace r = 0xfffe then
    (List.range 16).foldl (fun s i => if q / 16 * 16 + i = q then s else s.after 1 (.steal (q / 16 * 16 + i))) s
  else s

/-- What a new record in a cluster's queue sets going: the slice, the dispatch, and the thieves of its die. -/
def State.pokeQueue (s : State) (q : Nat) (r : Record) : State :=
  ((s.after 0 (.sliceEarlyEnd q)).after 0 (.dispatchRecord q)).pokeThieves q r

/-- A record put into a cluster's queue of a context. -/
def State.putQueue (s : State) (q k : Nat) (e : QEntry) : State :=
  s.modCluster q fun c => { c with queues := c.queues.set k (c.queues.get [] k ++ [e]) }

/-- A record for a context in a cluster's queue, or in its overflow list in HBM; none when both are full (R107). -/
def State.enqueue (s : State) (part q ctx : Nat) (e : QEntry) : Option State :=
  let k := contextKey part ctx
  let listed := (s.context k).overflow
  if s.queued q k < 4096 then
    some ((s.putQueue q k e).pokeQueue q e.record)
  else match (List.range (listed.length + 1)).find? fun i => !listed.any fun p => p.2.1 == i with
    | some i =>
      if i < (s.ccbWord part ctx 40).toNat then
        some (((s.writeHome deviceCore (s.listKey k i) (recBytes e.record)).modContext k fun c =>
          { c with overflow := listed ++ [(q, i, e)] }).pokeQueue q e.record)
      else none
    | none => none

/-- The first record of the overflow list moves into a queue that has a free entry (R107). -/
def State.drawOverflow (s : State) (q k : Nat) : State :=
  match (s.context k).overflow.find? (fun p => p.1 == q), s.listed q k with
  | some p, e :: _ =>
    if s.queued q k < 4096 then
      ((s.modContext k fun c => { c with overflow := c.overflow.erase p }).putQueue q k e).pokeThieves q e.record
    else s
  | _, _ => s

/-- A record out of its queue or its overflow list; a queue that is empty then counts the cycles until a theft (R110). The overflow list is drawn
from once the entry is free: a record that is chosen for a slot keeps its own (R107). -/
def State.removeRecord (s : State) (q k : Nat) (e : QEntry) : State :=
  let queue := (s.cluster q).queues.get [] k
  let s := if queue.contains e then s.modCluster q fun c => { c with queues := c.queues.set k (queue.erase e) }
    else s.modContext k fun c => { c with overflow := c.overflow.filter fun p => !(p.1 == q && p.2.2.strand == e.strand) }
  if !queue.isEmpty && ((s.cluster q).queues.get [] k).isEmpty then
    (s.modCluster q fun c => { c with emptyFrom := c.emptyFrom.set k s.now }).after 1024 (.steal q)
  else s

-- ==== slices (R115-R117, R327) ====

/-- The context key of a table entry of a cluster. -/
def State.entryKey (s : State) (q entry : Nat) : Nat :=
  contextKey ((s.ownerOf q).getD 0) (tableCtx ((s.cluster q).ctable.get 0 entry))

/-- Records of a context in a cluster: its queue, its overflow list, and those in transit (R115). -/
def State.recordsIn (s : State) (q k : Nat) : Nat :=
  let c := s.cluster q
  (c.queues.get [] k).length + ((s.context k).overflow.filter fun p => p.1 == q).length + c.transit.get 0 k

/-- The slots of a cluster that belong to a context. -/
def State.slotsOf (s : State) (q k : Nat) : List Nat :=
  (s.slots.select fun i t => clusterOf (coreOf i) == q && decide (t.phase ≠ .free) && contextKey t.id.part t.id.ctx == k).map (·.1)

/-- A number of `n` bytes at an offset of an image. -/
def State.imageNat (s : State) (key off n : Nat) : Nat := leNat (s.mem.readBytes (key + off) n)

/-- The slot records of a virtual core that are LIVE. -/
def State.liveRecords (s : State) (key v : Nat) : List Nat :=
  (List.range 8).filter fun n => s.imageNat key (sectionAt v + 2048 * n + 15) 1 / 128 == 1

/-- Does the image of a table entry hold a strand (R116)? -/
def State.imageLive (s : State) (q entry : Nat) : Bool :=
  let key := hbmKey ((s.ownerOf q).getD 0) (tableImage ((s.cluster q).ctable.get 0 entry))
  (List.range (s.imageNat key 2 1)).any fun v => !(s.liveRecords key v).isEmpty

/-- Does a partition run strands: RUNNING, or being resized from there (R363)? -/
def Partition.active (p : Partition) : Bool := decide (p.state = .running) || (decide (p.state = .resizing) && decide (p.back = .running))

/-- Is a table entry's context runnable in a cluster: a record is queued there, or a saved strand is to be placed there (R116, R327)? -/
def State.runnable (s : State) (q entry : Nat) : Bool :=
  let c := s.cluster q
  let w := c.ctable.get 0 entry
  let k := s.entryKey q entry
  tableWeight w != 0 && tableRun w && !(s.context k).dead
    && (0 < s.recordsIn q k - c.transit.get 0 k || (c.imaged.contains entry && s.imageLive q entry))
    && match s.ownerOf q with
      | some p => (s.part p).active
      | none => false

/-- The entry with the largest value, the lowest index among equals. -/
def bestEntry (f : Nat → Int) : List Nat → Option Nat
  | [] => none
  | i :: r => match bestEntry f r with
    | none => some i
    | some j => if f j ≤ f i then some i else some j

/-- The next holder of a cluster, with credits and starve counts charged (R116). -/
def State.chooseHolder (s : State) (q : Nat) : State :=
  let set := (List.range 16).filter (s.runnable q)
  let c := s.cluster q
  let weight (i : Nat) : Nat := tableWeight (c.ctable.get 0 i)
  let total : Int := set.foldl (fun a i => a + weight i) 0
  let credit (i : Nat) : Int := if set.contains i then c.credit.get 0 i + weight i else 0
  let starve (i : Nat) : Nat := if set.contains i then c.starve.get 0 i else 0
  let floor := set.any fun i => 16 - set.length ≤ starve i
  let h := if floor then bestEntry (fun i => (starve i : Int)) set else bestEntry credit set
  s.modCluster q fun c =>
    { c with
      holder := h
      fold := match h with | some e => c.folds.get [] e | none => []
      sliceEnd := s.now + 131072
      credit := (List.range 16).map fun i => (i, if h = some i then credit i - total else credit i)
      starve := (List.range 16).map fun i => (i, if !set.contains i || h = some i then 0 else starve i + 1) }

/-- A slice starts (R115, R334): the holder's image is restored, or its records are dispatched. An entry that is being restored counts as such from
here on (R349). -/
def State.startSlice (s : State) (q : Nat) : State :=
  let s := s.chooseHolder q
  match (s.cluster q).holder with
  | none => s
  | some e =>
    let s := (s.after 131072 (.sliceExpiry q)).after 0 (.steal q)
    if (s.cluster q).imaged.contains e then (s.modCluster q fun c => { c with saving := some e }).after 1 (.contextRestore q e)
    else s.after 0 (.dispatchRecord q)

/-- The key of the context that holds a cluster's slice. -/
def State.holderKey (s : State) (q : Nat) : Option Nat := (s.cluster q).holder.map (s.entryKey q)

end Sys2Proof.Machine
end

