-- ==== Sys2Proof/Machine/Names.lean ====
section
/-! DEFINITION. Landing names (R187-R195): minting, landing, destroying. -/

namespace Sys2Proof.Machine

-- ==== the home hash and the check byte (R170, R188) ====

/-- home_hash of R170, modulo 2^32. -/
def homeHash (f0 f1 : BitVec 32) : BitVec 32 :=
  let x := f0 ^^^ (f1.extractLsb' 0 16 ++ f1.extractLsb' 16 16)
  let x := x * 0x9e3779b1
  let x := x ^^^ (x >>> 16)
  let x := x * 0x85ebca6b
  x ^^^ (x >>> 13)

/-- CHECKKEY of a core: a free value for each draw (R188, log 8). -/
def State.checkKey (s : State) (core : Nat) : Word := Config.freeWord ((s.plat.boots * 2 ^ 32 + (s.core core).key) * 2 ^ 11 + core % 2 ^ 11)

/-- The check byte of a name under a key (R188). -/
def checkByte (key n : Word) : Nat :=
  (homeHash (n.extractLsb' 8 32 ^^^ key.extractLsb' 0 32) ((n.extractLsb' 40 24).setWidth 32 ^^^ key.extractLsb' 32 32)).toNat % 256

/-- A name without its check byte (R187). -/
def nameBody (device core index gen : Nat) : Word :=
  BitVec.ofNat 64 (device * 2 ^ 49 + dieOf core % 4 * 2 ^ 47 + clusterOf core % 16 * 2 ^ 41 + coreNo core * 2 ^ 36
    + index % 256 * 2 ^ 28 + gen % 2 ^ 20 * 2 ^ 8)

/-- The name of a core's entry. -/
def State.nameOf (s : State) (core index : Nat) (gen : BitVec 20) : Word :=
  let b := nameBody s.plat.device core index gen.toNat
  b ||| BitVec.ofNat 64 (checkByte (s.checkKey core) b)

/-- The lowest FREE entry of a core's table. -/
def State.freeMint (s : State) (core : Nat) : Option Nat :=
  (List.range 256).find? fun i => decide ((s.mintEntry core i).state = .free)

-- ==== MINT and MINT.C (R189) ====

/-- A name minted on the issuing core for an entry, into D. -/
def State.mintInto (s : State) (d : Reg) (i : Nat) (e : MintEntry) : State :=
  (s.setMint s.myCore i e).short d (s.nameOf s.myCore i e.gen)

/-- MINT (R189, R190, R22). -/
def execMint (d b : Reg) (g : PReg) (s : State) : Out :=
  let t := s.src
  .next (s.guarded g (s.operands [] [d] true
    (match s.freeMint s.myCore with
      | none => s.takeTrap 6 0 0
      | some i =>
        if decide ((t.reg b).mark = .pending) || decide ((t.reg b).mark = .named) then s.waits
        else
          let e : MintEntry := { state := .reg, gen := (s.mintEntry s.myCore i).gen, ctx := contextKey t.id.part t.id.ctx,
                                 uid := t.id.uid, reg := absReg t.depth b, addr := 0 }
          (s.modMe fun t => t.putReg b { t.reg b with mark := .named, poison := false }).mintInto d i e)))

/-- MINT.C (R189). -/
def execMintC (d a : Reg) (xa : Bool) (g : PReg) (s : State) : Out :=
  let t := s.src
  .next (s.guarded g (s.operands [srcA a xa] [d] false
    (match s.freeMint s.myCore with
      | none => s.takeTrap 6 0 0
      | some i =>
        let v := s.rd a
        if v.toNat % 64 ≠ 0 || v.getLsbD 63 then s.takeTrap 6 1 v
        else s.mintInto d i { state := .cont, gen := (s.mintEntry s.myCore i).gen, ctx := contextKey t.id.part t.id.ctx,
                              uid := t.id.uid, reg := 0, addr := v })))

-- ==== the minting table (R191, R192, R194) ====

/-- What a table finds for a name: the core and index of a live entry, or the status 1 (not live) or 2 (bad name). -/
def State.findName (s : State) (part : Nat) (n : Word) : Except Nat (Nat × Nat) :=
  match nameCore n with
  | none => .error 2
  | some c =>
    if !(s.part part).quanta.getLsbD (clusterOf c) then .error 2
    else if checkByte (s.checkKey c) n ≠ bitsOf n 0 8 then .error 2
    else
      let e := s.mintEntry c (nameIndex n)
      if e.state = .free || e.gen.toNat ≠ bitsOf n 8 20 then .error 1 else .ok (c, nameIndex n)

/-- A record with its s8 replaced (R192): an NREG of 0 reads as 1. -/
def withS8 (r : Record) (v : Word) : Record :=
  { r with ctl := if recNreg r = 0 then putBits r.ctl 44 4 1 else r.ctl, s := r.s.set 0 v }

/-- A continuation's record, read, enters the minting core's cluster's queue as a new strand, or is refused with REASON 9 or 12 (R104, R192). -/
def State.queueCont (s : State) (c : ContRead) (r : Record) : State :=
  match s.newNumber c.part c.ctx with
  | none => s.refuseRecord c.part c.ctx c.addr 9
  | some (s', n) =>
    match (s'.liveUp c.part c.ctx).enqueue c.part (clusterOf c.core) c.ctx
        { record := withS8 r c.value, strand := n, enq := s.now, addr := c.addr, acq := some c.scope } with
    | some t => t
    | none => s.refuseRecord c.part c.ctx c.addr 12

/-- A landing on a continuation name (R192): its record is read at its home, an acquire at DEVICE scope, under its context's ASID with the
permission of a load at S; in another device's memory by a request of the port (R146). A refused read refuses the record with REASON 11. -/
def State.resumeRecord (s : State) (c : ContRead) : State :=
  let x := s.placeAs c.part (s.asidOf c.part c.ctx) .s .load 64 c.addr
  match x.2 with
  | some (.hbm lpa) =>
    let y := x.1.readMerged (hbmKey c.part lpa) 64
    (y.1.touchHome (hbmKey c.part lpa) 64 false).queueCont c (recordOf y.2)
  | some (.host port a) => x.1.queueCont c (recordOf (x.1.mem.readBytes (hostKey port a) 64))
  | some (.remote dev lpa) =>
    let s := { x.1 with conts := x.1.conts.set x.1.nextTag c }
    (s.sendRequest portCore 0 s.nextTag contKind c.addr
      { blankFlit .fetch dev c.part (BitVec.ofNat 64 lpa) with size := 64, scope := .system }).newTag
  | _ => x.1.refuseRecord c.part c.ctx c.addr 11

/-- The read of a continuation's record in another device's memory ends, with its bytes or without (R192). -/
def State.contAnswer (s : State) (tag : Nat) (l : Option (List Byte)) : State :=
  match s.conts.get? tag with
  | none => s
  | some c =>
    let s := { s with conts := s.conts.del tag }
    match l with
    | some l => s.queueCont c (recordOf l)
    | none => s.refuseRecord c.part c.ctx c.addr 11

/-- A value on a live name (R192): the entry becomes FREE, and the register is filled or the record queued. -/
def State.landOn (s : State) (core i : Nat) (v : Word) (sc : Scope) : State :=
  let e := s.mintEntry core i
  let s := s.setMint core i e.freed
  match e.state with
  | .reg => (s.acquireFor e.uid sc).fillReg e.uid e.reg { val := v, mark := .full, poison := false }
  | .cont => s.resumeRecord { core := core, part := e.ctx / 65536, ctx := e.ctx % 65536, addr := e.addr, value := v, scope := sc }
  | .free => s

/-- A landing at the minting table (R191): the state and the status, 0 LANDED, 1 SECONDUSE, 2 BADNAME. -/
def State.landAt (s : State) (part : Nat) (n v : Word) (sc : Scope) : State × Nat :=
  match s.findName part n with
  | .error st => (s, st)
  | .ok (c, i) => (s.landOn c i v sc, 0)

-- ==== LAND (R191) ====

/-- Does the scope instance of the issuing core contain the name's core (R120, R191)? On a folded cluster CORE and QUAD are those of virtual
cores: the name's core stands there for the strand that its entry is bound to (R340, log 118). -/
def State.scopeHasName (s : State) (sc : Scope) (n : Word) : Bool :=
  let own := nameDevice n == s.plat.device
  let mine := s.myCore
  let die := bitsOf n 47 2 == dieOf mine
  let cluster := die && bitsOf n 41 6 == clusterOf mine % 16
  let bound := if (s.cluster (clusterOf mine)).folded then
      s.vcoreOf (coreAt (clusterOf mine) (bitsOf n 36 5)) (s.mintEntry (coreAt (clusterOf mine) (bitsOf n 36 5)) (nameIndex n)).uid
    else bitsOf n 36 5
  let vcore := segVcore s.me.id.seg
  match sc with
  | .core => own && cluster && bound == vcore
  | .quad => own && cluster && bound / 4 == vcore / 4
  | .cluster => own && cluster
  | .die => own && die
  | .device => own
  | .group => groupOf (nameDevice n) == groupOf s.plat.device
  | _ => true

/-- Cycles from a core to the minting core of a name, at most, and from there back (R193): the register is FULL within the first, and the
status comes within the sum. -/
def nameTimes (core : Nat) (n : Word) : Nat × Nat :=
  match nameCore n with
  | none => (130, 120)
  | some c => if c = core then (4, 4) else if clusterOf c = clusterOf core then (12, 8) else if dieOf c = dieOf core then (40, 30) else (130, 120)

/-- What the way from the minting core to a slot on another core adds (R341). -/
def State.forwardTime (s : State) (part : Nat) (n : Word) : Nat :=
  match s.findName part n with
  | .error _ => 0
  | .ok (c, i) =>
    match s.slotOf (s.mintEntry c i).uid with
    | some k => if (s.mintEntry c i).state = .reg ∧ coreOf k ≠ c then 12 else 0
    | none => 0

/-- Must a release at a scope wait for what its strand has asked of other devices (R387)? -/
def State.awaitsRemote (s : State) (sc : Scope) : Bool := 5 ≤ sc.code && s.remoteOpen s.myCore s.me.id.uid

/-- LAND (R191, R193, R341, R387). -/
def execLand (d a b : Reg) (xa xb : Bool) (g : PReg) (sc : Scope) (s : State) : Out :=
  .next (s.guarded g (s.operands [srcA a xa, srcB b xb] [d] true
    (let n := s.rd a
     let v := s.rd b
     let t := s.me
     if !s.scopeHasName sc n then s.takeTrap 6 2 n
     else if s.awaitsRemote sc then s.waits
     else if nameDevice n = s.plat.device then
       let l : Landing := { name := n, value := v, scope := sc, part := t.id.part, src := .strand t.id.uid s.nextTag,
                            rel := some (s.relMe sc) }
       (s.goOn.startLong d .land).within ((nameTimes s.myCore n).1 + s.forwardTime t.id.part n) (.landingArrival l)
     else if !s.windowOpen s.myCore (nameDevice n) then s.waits
     else
       let f := { blankFlit .landing (nameDevice n) t.id.part n with value := v, scope := sc }
       ((s.releaseMe sc).goOn.startLong d .land).sendRequest s.myCore t.id.uid s.nextTag 3 n f)))

-- ==== UNMINT (R194) ====

/-- UNMINT (R194): a name of another device answers NOTOWNER at once. -/
def execUnmint (d a : Reg) (xa : Bool) (g : PReg) (s : State) : Out :=
  .next (s.guarded g (s.operands [srcA a xa] [d] true
    (let n := s.rd a
     let t := s.me
     if nameDevice n ≠ s.plat.device then s.longWithin d .land 8 (.val 3)
     else (s.goOn.startLong d .land).within ((nameTimes s.myCore n).1 + (nameTimes s.myCore n).2) (.unmintAtTable t.id.uid s.nextTag n t.id.part t.id.ctx))))

/-- An entry destroyed by UNMINT: FREE, and its bound register IDLE (R194). -/
def State.destroyName (s : State) (core i : Nat) : State :=
  let e := s.mintEntry core i
  let s := s.setMint core i e.freed
  if e.state = .reg then s.fillReg e.uid e.reg { val := 0, mark := .idle, poison := false } else s

/-- UNMINT_AT_TABLE (R194): DESTROYED, SECONDUSE, BADNAME or NOTOWNER, in arrival order. -/
def execUnmintAtTable (uid tag : Nat) (name : Word) (part ctx : Nat) (s : State) : Out :=
  .next (match s.findName part name with
    | .error st => s.deliverTo uid tag (.val (BitVec.ofNat 64 st))
    | .ok (c, i) =>
      let e := s.mintEntry c i
      let mine := match e.state with
        | .reg => e.uid == uid
        | _ => e.ctx == contextKey part ctx
      if mine then (s.destroyName c i).deliverTo uid tag (.val 0) else s.deliverTo uid tag (.val 3))

end Sys2Proof.Machine
end

