-- ==== Sys2Proof/Machine/Tuples.lean ====
section
/-! DEFINITION. The Firn (R166-R186, R229-R231): homes, the tuple and waiter entries of the match engines, the three modes,
and what a strand leaves behind when it leaves its slot. -/

namespace Sys2Proof.Machine

-- ==== leaving a slot (R111, R133, R134, R178) ====

/-- A slot becomes free in the next cycle (R134), in which its cluster may load another record, steal one (R110), or end its slice. -/
def State.freeSlot (s : State) (i : Nat) : State :=
  let q := clusterOf (coreOf i)
  let t : Slot := { Slot.empty with front := { Slot.empty.front with readyAt := s.now + 1 } }
  (((s.setSlot i t).after 1 (.dispatchRecord q)).after 1 (.steal q)).after 1 (.sliceEarlyEnd q)

/-- The issuing strand leaves its slot. -/
def State.leaveSlot (s : State) : State := (s.freeSlot s.cur).withFlow .retired

-- ==== homes (R170, R171, R185, R186) ====

/-- A place for a key: the device and the slice (die, stop, slice in 8 bits). -/
structure Home where
  device : Nat
  slice  : Nat
deriving DecidableEq, Repr

/-- The valid range-table entry with the largest LO not above `h` (R171). -/
def rangeEntry (t : Tab Word) (h : Nat) : Option Word :=
  (((List.range 64).map fun i => t.get 0 i).filter fun e => e.getLsbD 31 && decide (bitsOf e 32 32 ≤ h)).foldl
    (fun a e => match a with
      | none => some e
      | some b => if bitsOf b 32 32 ≤ bitsOf e 32 32 then some e else some b) none

/-- The hash at which the range that holds `h` ends: the next entry's LO (R171). -/
def rangeEnd (t : Tab Word) (h : Nat) : Nat :=
  ((List.range 64).map fun i => t.get 0 i).foldl
    (fun a e => if e.getLsbD 31 && decide (h < bitsOf e 32 32) && decide (bitsOf e 32 32 < a) then bitsOf e 32 32 else a) (2 ^ 32)

/-- A home of a partition: on this device its slice is one of the partition's (log 132). -/
def State.homeAt (s : State) (part device slice : Nat) : Home :=
  { device := device, slice := if device = s.plat.device then (s.part part).ownSlice slice else slice }

/-- home(f0, f1) of R171. -/
def State.homeFor (s : State) (part : Nat) (f0 f1 : BitVec 32) : Home :=
  let p := s.part part
  let h := homeHash f0 f1
  let own := s.homeAt part s.plat.device (p.inHome.get 0 (h.toNat / 2 ^ 24)).toNat
  match rangeEntry p.inRange h.toNat with
  | none => own
  | some e => if e.getLsbD 30 then own else s.homeAt part (bitsOf e 15 15) (bitsOf e 7 8)

/-- The home as the interface of a stop chooses it: its forward cache outranks the range table (R392). An entry of the cache is
the partition, the hash at which its range ends, and the range-table entry of the new home. -/
def State.homeVia (s : State) (q part : Nat) (f0 f1 : BitVec 32) : Home :=
  let h := (homeHash f0 f1).toNat
  match (s.cluster q).fwd.find? fun p => p.1 == part && decide (bitsOf p.2.2 32 32 ≤ h ∧ h < p.2.1) with
  | some p => { device := bitsOf p.2.2 15 15, slice := bitsOf p.2.2 7 8 }
  | none => s.homeFor part f0 f1

/-- Does a partition span more than one die (R185)? -/
def Partition.spans (p : Partition) : Bool :=
  match quantaOf p.quanta with
  | [] => false
  | q :: r => r.any fun x => x / 16 != q / 16

/-- The smallest of GROUP and DOMAIN, or SYSTEM, that holds two devices (R120, R376). -/
def remoteScope (a b : Nat) : Scope :=
  if groupOf a = groupOf b then .group else if a / 16416 = b / 16416 then .domain else .system

/-- The home scope of a request (R185). -/
def State.homeScope (s : State) (part device : Nat) : Scope :=
  if device ≠ s.plat.device then remoteScope s.plat.device device
  else if (s.part part).spans then .device else .die

/-- Hops of the torus between two stops (R162). -/
def torusHops (a b : Nat) : Nat :=
  let d (x y : Nat) : Nat := min ((x + 4 - y) % 4) ((y + 4 - x) % 4)
  d (a % 4) (b % 4) + d (a / 4) (b / 4)

/-- Cycles from the issue of a request to its arrival at a home slice (R186). -/
def State.arriveIn (s : State) (core slice : Nat) : Nat :=
  if slice / 64 = dieOf core then 4 + 4 * torusHops (clusterOf core % 16) (slice % 64 / 4)
  else if s.farDies (slice / 64) (dieOf core) then 70 else 50

/-- Cycles within which a result follows its request's arrival at the home: what the arrival leaves of R186's times. -/
def State.answerIn (s : State) (core slice len64 : Nat) : Nat :=
  (if slice / 64 = dieOf core then (if clusterOf core % 16 = slice % 64 / 4 then 40 else 60)
   else if s.farDies (slice / 64) (dieOf core) then 190 else 150) - s.arriveIn core slice + 2 * len64

/-- What the HBM read of a payload adds (R186): 300 cycles, 420 where its channel may lie on another die. -/
def State.payloadRead (s : State) (part len64 : Nat) : Nat := if len64 = 0 then 0 else if (s.part part).spans then 420 else 300

-- ==== results (R177, R178, R182) ====

def matchStatus : Nat := 0
def nomatchStatus : Nat := 1
def fullStatus : Nat := 2
def cancelledStatus : Nat := 3
def toolongStatus : Nat := 4
def movedStatus : Nat := 5

/-- The result word (R177). -/
def tupleWord (status len64 : Nat) : Word := BitVec.ofNat 64 (len64 * 256 + status)

/-- The request no longer counts among its core's 64 (R182). -/
def State.tupleOver (s : State) (r : TupReq) : State :=
  s.modCore r.core fun c => { c with tupOut := c.tupOut.filter fun p => p != (r.uid, r.tag) }

/-- The answer to another device's request, a remote landing of the port (R173, R391); `copy` is the payload transfer whose
selection waits for its acknowledgement, 0 for none. -/
def State.tupleReply (s : State) (r : TupReq) (dev copy : Nat) (w : Word) (data : List Byte) : State :=
  s.sendRequest portCore 0 copy answerKind 0 { blankFlit .landing dev r.part r.name with value := w, data := data, tup := some r }

/-- The mark, in the place of a size, of an answer that says that the home's partition has been reset (R389). -/
def resetMark : Nat := 3

/-- What another device still awaits of a request ends: the partition was reset while it was outstanding (R389). -/
def State.resetReply (s : State) (r : TupReq) : State :=
  match r.remote with
  | none => s
  | some (dev, _, _) =>
    s.sendRequest portCore 0 0 answerKind 0 { blankFlit .landing dev r.part r.name with size := resetMark, tup := some r }

/-- Units of a partition's payload heap (R175); none where it has no Firn. -/
def Partition.heapUnits (p : Partition) : Nat := bitsOf p.fheap 0 16 * 1024

/-- A 64-bit counter that saturates (R374). -/
def satUp (n : BitVec 64) : BitVec 64 := if n.toNat = 2 ^ 64 - 1 then n else n + 1

/-- A host record has acted, or ends without acting: its place is free, a relaxed one is performed, and the accesses that wait behind an ordered one go
on (R373, R375). -/
def State.hostActed (s : State) (r : TupReq) (port : Nat) : State :=
  let s := s.modPart r.part fun p => { p with records := p.records - 1, hostOpen := p.hostOpen.filter fun w => w != (port, r.tag) }
  if r.tag = 0 then s.afterArg 0 (.hostDepositRecord r.part port false 0 []) [2] else s

/-- A result without a payload: to the register, by landing on the continuation name, to another device, or, for a host
record, to its counter: it has acted at MATCH, and until then it is sent again (R177-R179, R373, log 28); where the partition has no Firn
nothing is sent again, and the record ends without acting (R175, log 122). -/
def State.tupleAnswer (s : State) (r : TupReq) (status len64 : Nat) : State :=
  let w := tupleWord status len64
  match r.host, r.remote with
  | _, some (dev, _, _) => s.tupleReply r dev 0 w []
  | some port, none =>
    if status = matchStatus then (s.modPart r.part fun p => { p with hdepdone := satUp p.hdepdone }).hostActed r port
    else if (s.part r.part).heapUnits = 0 then s.hostActed r port
    else s.after 1024 (.depositResend r)
  | none, none =>
    if r.mode = .c then
      (s.tupleOver r).within (s.answerIn r.core r.home 0) (.landingArrival
        { name := r.name, value := w, scope := s.homeScope r.part s.plat.device, part := r.part, src := .ccb, rel := none })
    else s.within (s.answerIn r.core r.home 0) (.deliver r.uid r.tag (.val w))

-- ==== the store (R168, R175, R183, R184) ====

/-- Does a tuple match a template (R168)? -/
def TupleEntry.meets (t : TupleEntry) (r : TupReq) : Bool :=
  t.part == r.part && t.f0 == r.f0 && t.f1 == r.f1 && (r.w2 || t.f2 == r.f2) && (r.w3 || t.f3 == r.f3)

/-- Heap units of a partition in use: payloads, and one unit for each spilled entry (R175). -/
def State.heapUsed (s : State) (part : Nat) : Nat :=
  ((s.part part).slices.map fun i =>
    let x := s.slice i
    x.tuples.foldl (fun n t => n + t.payload.length / 64) 0 + (x.tuples.length - 8192) + (x.waiters.length - 2048)).foldl (· + ·) 0

/-- The header piece of a delivery (R180). -/
def TupleEntry.header (t : TupleEntry) : List Byte :=
  padTo 64 (leBytes 4 t.f0.toNat ++ leBytes 4 t.f1.toNat ++ leBytes 4 t.f2.toNat ++ leBytes 4 t.f3.toNat
    ++ leBytes 2 (t.payload.length / 64) ++ List.replicate 6 0 ++ wordBytes 8 t.sid ++ wordBytes 8 t.cid)

/-- The entries of a slice changed at one age. -/
def State.modTuple (s : State) (h age : Nat) (f : TupleEntry → TupleEntry) : State :=
  s.modSlice h fun x => { x with tuples := x.tuples.map fun t => if t.age = age then f t else t }

def State.tupleAt (s : State) (h age : Nat) : Option TupleEntry := (s.slice h).tuples.find? fun t => t.age == age

/-- An age that no entry of any device has: the order of this device's acceptances, then the device (R168, R392). -/
def State.freshAge (s : State) : Nat := s.nextAge * 2 ^ 15 + s.plat.device

def State.newAge (s : State) : State := { s with nextAge := s.nextAge + 1 }

/-- A delivery of a tuple to a request begins: a take makes it TAKEN, a read adds a copy in progress (R183). -/
def State.startCopy (s : State) (h : Nat) (t : TupleEntry) (r : TupReq) (waiter : Option Nat) : State :=
  let n := t.payload.length / 64
  let s := s.modTuple h t.age fun t => if r.op = .take then { t with taken := true } else { t with copies := t.copies + 1 }
  let id := s.nextTag
  (({ s with copies := s.copies.set id { req := r, slice := h, age := t.age, waiter := waiter } }).newTag).within
    (s.answerIn r.core h n + s.payloadRead r.part n) (.tupleDeliveryDone id)

/-- A waiter leaves the waiters of a slice. -/
def State.dropWaiter (s : State) (h age : Nat) : State :=
  s.modSlice h fun x => { x with waiters := x.waiters.filter fun w => w.age != age }

/-- A waiter that a deposit selects: TOOLONG, or SERVING while the tuple is delivered to it (R179, R184). -/
def State.serveWaiter (s : State) (h : Nat) (t : TupleEntry) (w : WaiterEntry) : State :=
  let n := t.payload.length / 64
  if w.req.len64 < n then (s.dropWaiter h w.age).tupleAnswer w.req toolongStatus n
  else
    let s := s.modSlice h fun x => { x with waiters := x.waiters.map fun y => if y.age = w.age then { y with serving := true } else y }
    s.startCopy h t w.req (some w.age)

/-- The waiting takers, oldest first, until one fits (R179). -/
def State.serveTakers (s : State) (h : Nat) (t : TupleEntry) : List WaiterEntry → State
  | [] => s
  | w :: r => if w.req.len64 < t.payload.length / 64 then (s.serveWaiter h t w).serveTakers h t r else s.serveWaiter h t w

/-- The WAITING entries of a slice that a tuple matches, the oldest first. -/
def State.waitersFor (s : State) (h : Nat) (t : TupleEntry) : List WaiterEntry :=
  (s.slice h).waiters.filter fun w => !w.serving && t.meets w.req

/-- A LIVE tuple offered to the waiters at its home: every matching reader, then the oldest taker that fits (R179, R183). -/
def State.offer (s : State) (h : Nat) (t : TupleEntry) : State :=
  let hit := s.waitersFor h t
  let s := (hit.filter fun w => decide (w.req.op = .rd)).foldl (fun s w => s.serveWaiter h t w) s
  s.serveTakers h t (hit.filter fun w => decide (w.req.op = .take))

/-- A tuple whose take is over and that no copy uses is FREE (R183). -/
def State.reapTuple (s : State) (h age : Nat) (takeOver : Bool) : State :=
  match s.tupleAt h age with
  | none => s
  | some t =>
    let pending := s.copies.any fun c => c.2.slice == h && c.2.age == age && decide (c.2.req.op = .take)
    if t.taken && t.copies == 0 && (takeOver || !pending) then
      s.modSlice h fun x => { x with tuples := x.tuples.filter fun t => t.age != age }
    else s

/-- A withdrawn take: its tuple is LIVE again with its age, and offered at once (R133, R183). -/
def State.restoreTuple (s : State) (h age : Nat) : State :=
  match s.tupleAt h age with
  | none => s
  | some t => (s.modTuple h age fun t => { t with taken := false }).offer h { t with taken := false }

-- ==== requests at a home (R172, R179-R181) ====

/-- Does the home still own the request's key (R172)? A range that a calving has moved belongs to the home to which it went, whatever this
device's range table says (R392). -/
def State.ownsKey (s : State) (r : TupReq) : Bool :=
  let h := (homeHash r.f0 r.f1).toNat
  match (s.part r.part).given.find? fun g => g.1 ≤ h && h < g.2.1 with
  | some g => g.2.2 == some r.home
  | none => s.homeFor r.part r.f0 r.f1 == { device := s.plat.device, slice := r.home }

/-- Is the key's range being moved to another device, so that its old home queues requests (R392)? -/
def State.rangeHeld (s : State) (r : TupReq) : Bool :=
  s.calves.any fun c => c.2.phase == 1 && c.2.part == r.part && decide (c.2.lo ≤ (homeHash r.f0 r.f1).toNat) && decide ((homeHash r.f0 r.f1).toNat < c.2.hi)

def State.countFull (s : State) (h : Nat) : State := s.modSlice h fun x => { x with fulls := x.fulls + 1 }

/-- The tuple that a deposit leaves. -/
def State.tupleOf (s : State) (r : TupReq) : TupleEntry :=
  { age := s.freshAge, part := r.part, f0 := r.f0, f1 := r.f1, f2 := r.f2, f3 := r.f3, payload := r.payload, sid := r.sid, cid := r.cid,
    taken := false, copies := 0 }

/-- A deposit accepted by its home (R179). -/
def State.insertTuple (s : State) (r : TupReq) : State :=
  let t := s.tupleOf r
  let s := s.newAge.modSlice r.home fun x => { x with tuples := x.tuples ++ [t] }
  (s.offer r.home t).tupleAnswer r matchStatus (r.payload.length / 64)

/-- The pool place of a tuple request's area: its explicit core, by the fold table or the POOL word at the time, with the bytes from there to
the region's end (R169, R339). -/
def State.areaAt (s : State) (core ctxKey : Nat) (area : BitVec 32) : Option (Nat × Nat × Nat) :=
  let a := area.toNat
  (s.explicitCore (clusterOf core) ctxKey (a / 2 ^ 22 % 32) 0).map fun p => (p.1, p.2.1 * 16384 + a % 2 ^ 20, p.2.2 * 16384 - a % 2 ^ 20)

/-- Does a request's context hold its cluster now, so that its area and register can be written (R230)? A .P delivery, for which a pre-emption
waits, goes on while the context is being saved (R328). -/
def State.holdsFor (s : State) (r : TupReq) : Bool :=
  let q := clusterOf r.core
  s.holderKey q == some (contextKey r.part r.ctx) && (decide (r.mode = .p) || (s.cluster q).saving.isNone)

/-- Does a context hold its cluster now, in whole? -/
def State.holds (s : State) (core ctxKey : Nat) : Bool :=
  let q := clusterOf core
  s.holderKey q == some ctxKey && (s.cluster q).saving.isNone

/-- The payload of a deposit that comes to its home: what its strand's source area held at issue, or, piece by piece and open, what it holds
now; it stays as it is from then on (R179). -/
def State.fixPayload (s : State) (r : TupReq) : State × TupReq :=
  let key := contextKey r.part r.ctx
  if r.rel.isNone then (s, r)
  else
    let now := if r.remote.isNone && s.holds r.core key then match s.areaAt r.core key r.area with
        | some (c, off, room) => if r.payload.length ≤ room then s.readPool c off r.payload.length else r.payload
        | none => r.payload
      else r.payload
    let piece (i : Nat) : List Byte := ((if Config.freeNat (s.tick + i) % 2 = 0 then r.payload else now).drop (64 * i)).take 64
    ({ s with tick := s.tick + r.len64 }, { r with payload := (List.range r.len64).flatMap piece, rel := none })

/-- Units of the heap that a deposit needs beside its payload's: one where its entry would stand in the overflow list; one that a waiting taker
takes at once needs none (R175, log 123). -/
def State.spillUnits (s : State) (r : TupReq) : Nat :=
  let taker := (s.waitersFor r.home (s.tupleOf r)).any fun w => decide (w.req.op = .take) && r.payload.length / 64 ≤ w.req.len64
  if 8192 ≤ (s.slice r.home).tuples.length && !taker then 1 else 0

/-- DEPOSIT_AT_HOME (R172, R175, R179, R185). -/
def execDepositAtHome (r : TupReq) (s : State) : Out :=
  .next (if s.relBlocked r.rel then s.arrive 1 (.depositAtHome r)
    else
      let p := s.part r.part
      let x := (s.performRel r.rel).fixPayload r
      let s := x.1
      let r := x.2
      if p.heapUnits = 0 then (s.countFull r.home).tupleAnswer r fullStatus 0
      else if !s.ownsKey r then s.after 1 (.homemoved r)
      else if s.rangeHeld r then s.arrive 1 (.depositAtHome r)
      else if p.heapUnits < s.heapUsed r.part + r.payload.length / 64 + s.spillUnits r then
        (if r.mode = .p && r.host.isNone then (s.countFull r.home).tupleAnswer r fullStatus 0
         else s.after 1024 (.depositResend r))
      else s.insertTuple r)

/-- DEPOSIT_RESEND (R179): the depositor's interface sends the deposit again; the answer that it had ends a row of HOMEMOVED ones (R172). -/
def execDepositResend (r : TupReq) (s : State) : Out :=
  .next (s.arrive (s.arriveIn r.core r.home) (.depositAtHome { r with tries := 0 }))

/-- MATCH_AT_HOME (R175, R180, R182). -/
def execMatchAtHome (r : TupReq) (s : State) : Out :=
  let p := s.part r.part
  let ended (s : State) : State := if r.mode = .c && r.remote.isNone then s.tupleOver r else s
  .next (if p.heapUnits = 0 then
      (if r.mode = .p then s.tupleAnswer r nomatchStatus 0 else ((ended s).countFull r.home).tupleAnswer r fullStatus 0)
    else if !s.ownsKey r then s.after 1 (.homemoved r)
    else if s.rangeHeld r then s.arrive 1 (.matchAtHome r)
    else
      let s := ended s
      match (s.slice r.home).tuples.find? fun t => !t.taken && t.meets r with
      | some t =>
        let n := t.payload.length / 64
        if r.len64 < n then s.tupleAnswer r toolongStatus n else s.startCopy r.home t r none
      | none =>
        if r.mode = .p then s.tupleAnswer r nomatchStatus 0
        else if 2048 ≤ (s.slice r.home).waiters.length && p.heapUnits < s.heapUsed r.part + 1 then
          (s.countFull r.home).tupleAnswer r fullStatus 0
        else s.newAge.modSlice r.home fun x =>
          { x with waiters := x.waiters ++ [{ age := s.freshAge, req := r, serving := false }] })

/-- Is a waiter the one that a TCANCEL withdraws (R181)? -/
def WaiterEntry.cancelledBy (w : WaiterEntry) (r : TupReq) : Bool :=
  let q := w.req
  !w.serving && q.part == r.part && q.remote.map (·.1) == r.remote.map (·.1) && q.f0 == r.f0 && q.f1 == r.f1 && q.f2 == r.f2 && q.f3 == r.f3 && q.w2 == r.w2 && q.w3 == r.w3
    && ((q.mode == .w && q.uid == r.uid) || (q.mode == .c && q.ctx == r.ctx))

/-- CANCEL_AT_HOME (R175, R181). -/
def execCancelAtHome (r : TupReq) (s : State) : Out :=
  .next (if (s.part r.part).heapUnits = 0 then s.tupleAnswer r nomatchStatus 0
    else if !s.ownsKey r then s.after 1 (.homemoved r)
    else if s.rangeHeld r then s.arrive 1 (.cancelAtHome r)
    else match (s.slice r.home).waiters.find? fun w => w.cancelledBy r with
      | none => s.tupleAnswer r nomatchStatus 0
      | some w => ((s.dropWaiter r.home w.age).tupleAnswer w.req cancelledStatus 0).tupleAnswer r cancelledStatus 0)

/-- The forward that a HOMEMOVED answer carries (R392): the range entry that now holds the hash, the hash at which it ends, and
the generation. -/
def State.forwardFor (s : State) (r : TupReq) : List Byte :=
  let p := s.part r.part
  let h := (homeHash r.f0 r.f1).toNat
  match rangeEntry p.inRange h with
  | none => []
  | some e => wordBytes 8 e ++ wordBytes 8 (BitVec.ofNat 64 (rangeEnd p.inRange h)) ++ wordBytes 8 (p.rtgen.setWidth 64)

/-- The step of a request at its home. -/
def atHome (r : TupReq) : Instr :=
  match r.op with
  | .dep => .depositAtHome r
  | .cancel => .cancelAtHome r
  | _ => .matchAtHome r

/-- The core number of a TCANCEL by which the port withdraws a strand's request: no strand awaits its answer (R133). -/
def isWithdrawal (r : TupReq) : Bool := r.core == portCore

/-- Is a deposit that goes to another device, a release at its home's scope, to wait for its strand's earlier accesses, those at other devices
included (R185, R387, R434)? -/
def State.sendBlocked (s : State) (r : TupReq) : Bool :=
  s.relBlocked r.rel || (r.rel.isSome && (s.core r.core).unacked.any fun u => u.uid == r.uid && u.uid != 0 && !u.acked && u.since < r.tag)

/-- HOMEMOVED (R172): the interface reloads the tables and resends the request to its home, under their generation; the sixteenth such answer
in a row is delivered to the program. A request of another device goes back to its own interface, with the forward (R392). -/
def execHomemoved (r : TupReq) (s : State) : Out :=
  .next (match r.remote with
    | some (dev, _, _) => s.tupleReply r dev 0 (tupleWord movedStatus 0) (s.forwardFor r)
    | none =>
      if 15 ≤ r.tries then s.tupleAnswer r movedStatus 0
      else
        let h := s.homeVia (clusterOf r.core) r.part r.f0 r.f1
        let moved := r
        let r := { r with tries := r.tries + 1, home := h.slice, gen := (s.part r.part).rtgen }
        if h.device = s.plat.device then s.arrive (s.arriveIn r.core h.slice) (atHome r)
        else if s.sendBlocked r then s.after 1 (.homemoved moved)
        else
          let x := (s.performRel r.rel).fixPayload r
          let s := x.1
          let r := x.2
          let f := { blankFlit .tuple h.device r.part 0 with tup := some r, data := r.payload }
          if isWithdrawal r then s.sendRequest portCore 0 0 answerKind 0 f
          else s.sendRequest r.core r.uid (if r.mode = .c then 0 else r.tag) 3 (r.f0.setWidth 64) f)

-- ==== deliveries (R183, R184, R230) ====

/-- A header and a payload written into a delivery area: nothing where its core has no place, and nothing past its region's end (log 124). -/
def State.writeArea (s : State) (r : TupReq) (l : List Byte) : State :=
  match s.areaAt r.core (contextKey r.part r.ctx) r.area with
  | some (core, off, room) => s.storePool deviceCore core off (l.take room)
  | none => s

/-- The result of a delivery that is complete: into the register as an acquire, or by landing; false if a landing was refused
as second use. -/
def State.deliverMatch (s : State) (r : TupReq) (n : Nat) : State × Bool :=
  let w := tupleWord matchStatus n
  let sc := s.homeScope r.part s.plat.device
  if r.mode = .c then
    let x := s.landAt r.part r.name w sc
    (x.1, x.2 == 0)
  else ((s.tupleOver r).deliverTo r.uid r.tag (.acq w sc), true)

/-- A payload transfer is over: the waiter that it served is FREE; a take that was delivered removes its tuple, one that was refused restores
it; a read gives its copy back (R183, R184). -/
def State.finishCopy (s : State) (copy : Nat) (ok : Bool) : State :=
  match s.copies.get? copy with
  | none => s
  | some c =>
    let s := { s with copies := s.copies.del copy }
    let s := match c.waiter with
      | some age => s.dropWaiter c.slice age
      | none => s
    if c.req.op = .take then (if ok then s.reapTuple c.slice c.age true else s.restoreTuple c.slice c.age)
    else (s.modTuple c.slice c.age fun t => { t with copies := t.copies - 1 }).reapTuple c.slice c.age false

/-- TUPLE_DELIVERY_DONE (R178, R183, R184, R230): the header and the payload are written and the result delivered; while the
requester's context does not hold its core, the home keeps the selection. A selection for another device stays until the answer
is acknowledged (R391). -/
def execTupleDeliveryDone (copy : Nat) (s : State) : Out :=
  .next (match s.copies.get? copy with
    | none => s
    | some c =>
      match s.tupleAt c.slice c.age with
      | none => { s with copies := s.copies.del copy }
      | some t =>
        let r := c.req
        let n := t.payload.length / 64
        match r.remote with
        | some (dev, _, _) => s.tupleReply r dev copy (tupleWord matchStatus n) (t.header ++ t.payload)
        | none =>
          if !s.holdsFor r then s.after 64 (.tupleDeliveryDone copy)
          else
            let x := (s.writeArea r (t.header ++ t.payload)).deliverMatch r n
            x.1.finishCopy copy x.2)

/-- A wait at another device's home withdrawn: the port sends a TCANCEL, whose answer nobody awaits but one that says HOMEMOVED, and awaits the request's own answer no
more, so that a take which comes after all returns to its place (R133, R173, R391). -/
def State.withdrawRemote (s : State) (core : Nat) (u : Unacked) : State :=
  let s := s.modCore core fun c => { c with unacked := c.unacked.erase u }
  match u.flit.tup with
  | some r => s.sendRequest portCore 0 0 answerKind 0 { blankFlit .tuple u.flit.dst r.part 0 with tup := some { r with op := .cancel, core := portCore, tries := 0 } }
  | none => s

/-- Everything that a strand waits for in the Firn withdrawn: its waiters and requests on their way, its takes in
delivery, whose tuples return, and its waits at other devices (R133, R184); `cont` takes the .C requests along, as a kill does (R308). -/
def State.withdrawTuples (s : State) (cont : Bool) (mine : TupReq → Bool) : State :=
  let gone (r : TupReq) : Bool := mine r && (cont || r.mode != .c) && r.op != .dep && r.remote.isNone
  let keep (d : Due) : Bool := match d.ev with
    | .matchAtHome r => !gone r
    | .cancelAtHome r => !gone r
    | .homemoved r => !gone r
    | _ => true
  let hit := s.copies.filter fun c => gone c.2.req
  let waiting := s.slices.flatMap fun x => x.2.waiters.map fun w => w.req
  let coming := s.agenda.filterMap fun d => match d.ev with
    | .matchAtHome r | .cancelAtHome r | .homemoved r => some r
    | _ => none
  let away := s.cores.flatMap fun c => (c.2.unacked.filter fun u => u.acked && u.flit.kind == .tuple && u.flit.tup.any gone).map fun u => (c.1, u)
  let s := (((hit.map fun c => c.2.req) ++ waiting ++ coming).filter gone).foldl (fun s r => s.tupleOff r.uid r.tag) s
  let clear (_ : Nat) (x : Slice) : Slice := { x with waiters := x.waiters.filter fun w => !gone w.req }
  let s := { s with agenda := s.agenda.filter keep, slices := s.slices.map clear,
                    copies := s.copies.filter fun c => !gone c.2.req }
  let s := away.foldl (fun s x => s.withdrawRemote x.1 x.2) s
  hit.foldl (fun s c =>
    if c.2.req.op = .take then s.restoreTuple c.2.slice c.2.age
    else (s.modTuple c.2.slice c.2.age fun t => { t with copies := t.copies - 1 }).reapTuple c.2.slice c.2.age false) s

-- ==== at issue (R169, R229, R231) ====

/-- Fields of the TUPLE handle (R167). -/
def tupleKeyOk (h : HandleImage) : Bool := hbits h 192 64 == 0 && hbits h 10 6 == 0 && hbits h 4 4 == 0

/-- LADDR with CORE 31 replaced by the strand's virtual core (R169). -/
def Slot.captured (t : Slot) (a : Nat) : Nat :=
  if a / 2 ^ 22 % 32 = 31 then a / 2 ^ 27 * 2 ^ 27 + segVcore t.id.seg * 2 ^ 22 + a % 2 ^ 22 else a

/-- Is a local area malformed: [31:27] nonzero, CORE 24-30, a region other than 00, or not 64-byte aligned (R169)? -/
def areaMalformed (a : Nat) : Bool :=
  decide (2 ^ 27 ≤ a) || (decide (24 ≤ a / 2 ^ 22 % 32) && decide (a / 2 ^ 22 % 32 ≤ 30)) || a / 2 ^ 20 % 4 != 0 || a % 64 != 0

/-- The core and pool offset of `n` bytes in a scratchpad region; none where they reach past it (R149, R339). -/
def State.padAt (s : State) (t : Slot) (core : Nat) (a n : Nat) : Option (Nat × Nat) :=
  let place := if a / 2 ^ 22 % 32 = 31 then some (core, (segRegion t.id.seg 0).1, (segRegion t.id.seg 0).2)
    else s.explicitCore (clusterOf core) (contextKey t.id.part t.id.ctx) (a / 2 ^ 22 % 32) 0
  match place with
  | none => none
  | some (c, base, limit) => if limit * 16384 < a % 2 ^ 20 + n then none else some (c, base * 16384 + a % 2 ^ 20)

/-- The detail of R169 that a tuple operation fails, with its TVAL. -/
def State.tupleFault (s : State) (op : TupOp) (m : TMode) (hn : HReg) (h : HandleImage) (b : Word) : Option (Nat × Word) :=
  let t := s.src
  let la := hbits h 16 32
  let len := hbits h 48 16
  let area := if op = .dep then len * 64 else 64 + len * 64
  let r : Word := hn.setWidth 64
  let name := match s.findName t.id.part b with
    | .ok (c, i) => c == s.myCore && decide ((s.mintEntry c i).state = .cont) && nameDevice b == s.plat.device
    | .error _ => false
  if hbits h 0 4 ≠ 6 then some (0, r)
  else if !tupleKeyOk h then some (1, r)
  else if op = .cancel then none
  else if op = .dep && (h.getLsbD 8 || h.getLsbD 9) then some (2, r)
  else if 1024 < len then some (3, r)
  else if areaMalformed la then some (4, r)
  else if area ≠ 0 && (s.padAt t s.myCore la area).isNone then some (5, r)
  else if m ≠ .c then none
  else if !name then some (6, b)
  else if t.depth ≠ 0 then some (7, b)
  else if s.cores.any (fun c => c.2.mint.any fun e => decide (e.2.state = .reg) && e.2.uid == t.id.uid) then some (8, b)
  else if !t.pend.out.isEmpty then some (9, b)
  else if t.status.ui then some (10, b)
  else none

/-- The request of the issuing strand. -/
def State.tupleRequest (s : State) (op : TupOp) (m : TMode) (h : HandleImage) (name : Word) : TupReq :=
  let t := s.src
  let f (i : Nat) : BitVec 32 := BitVec.ofNat 32 (hbits h i 32)
  let la := hbits h 16 32
  let len := hbits h 48 16
  let home := s.homeVia (clusterOf s.myCore) t.id.part (f 64) (f 96)
  let payload := if op = .dep then match s.padAt t s.myCore la (len * 64) with
      | some (c, off) => s.readPool c off (len * 64)
      | none => []
    else []
  { op := op, mode := m, part := t.id.part, ctx := t.id.ctx, uid := t.id.uid, core := s.myCore, slot := slotNo s.cur, tag := s.nextTag, name := name,
    f0 := f 64, f1 := f 96, f2 := f 128, f3 := f 160, w2 := h.getLsbD 8, w3 := h.getLsbD 9, len64 := len,
    area := BitVec.ofNat 32 (t.captured la), payload := payload, sid := t.sid, cid := s.cidOf s.myCore, host := none,
    remote := none, home := home.slice, gen := (s.part t.id.part).rtgen, tries := 0,
    rel := if op = .dep then some (s.relMe (s.homeScope t.id.part home.device)) else none }

/-- A request sent to its home, on this device or another (R173, R186). -/
def State.sendTuple (s : State) (r : TupReq) (device : Nat) : State :=
  let s := s.modCore r.core fun c => { c with tupOut := c.tupOut ++ [(r.uid, r.tag)] }
  if device = s.plat.device then
    s.arrive (s.arriveIn r.core r.home) (atHome r)
  else s.sendRequest r.core r.uid (if r.mode = .c then 0 else r.tag) 3 (r.f0.setWidth 64)
    { blankFlit .tuple device r.part 0 with tup := some r, data := r.payload, scope := s.homeScope r.part device }

/-- A TDEP's payload is read after its release (R229): an atomic of the strand that is still to change the source area is performed first. -/
def State.settleSource (s : State) (op : TupOp) (h : HandleImage) : State :=
  if op ≠ .dep then s
  else match s.padAt s.src s.myCore (hbits h 16 32) (hbits h 48 16 * 64) with
    | some (c, off) => if s.meetsAtomic s.me.id.part (poolKey c off) (hbits h 48 16 * 64) then s.settle s.myCore s.me.id.uid else s
    | none => s

/-- TDEP, TRD, TTAKE and TCANCEL at issue (R169, R178, R182, R229, R231, R128). The retirement of a .C request may complete the exit word,
which is a release at DEVICE scope (R118). -/
def State.tupleOp (s : State) (op : TupOp) (m : TMode) (d : Reg) (hn : HReg) (b : Reg) (xa xb : Bool) (g : PReg) : State :=
  let srcs := if m = .c then [srcH hn xa, srcB b xb] else [srcH hn xa]
  s.guarded g (s.operands srcs (if m = .c then [] else [d]) true
    (let h := s.rdH hn
     let f0 := hbits h 64 32
     match s.tupleFault op m hn h (s.rd b) with
     | some (det, v) => s.takeTrap 5 det v
     | none =>
       if 0xffffff00 ≤ f0 && s.me.status.priv = .u then s.takeTrap 9 3 (BitVec.ofNat 64 f0)
       else
         let home := s.homeVia (clusterOf s.myCore) s.me.id.part (BitVec.ofNat 32 f0) (BitVec.ofNat 32 (hbits h 96 32))
         let remote := home.device != s.plat.device
         if 64 ≤ (s.core s.myCore).tupOut.length then s.waits
         else if remote && (!s.windowOpen s.myCore home.device
             || (decide (op = .dep) && s.remoteOpen s.myCore s.me.id.uid)) then s.waits
         else
           let s := if remote && decide (op = .dep) then s.releaseMe .group else s.settleSource op h
           let s := if m = .c then s.releaseMe .device else s
           let r := s.tupleRequest op m h (s.rd b)
           if m = .c then
             (((s.newTag).sendTuple r home.device).liveDown r.part r.ctx).leaveSlot
           else ((s.goOn.startLong d (if m = .w then .tuple else .other)).sendTuple r home.device)))

/-- TDEP (R229). -/
def execTdep (d : Reg) (h : HReg) (b : Reg) (xa xb : Bool) (g : PReg) (m : TMode) (s : State) : Out :=
  .next (s.tupleOp .dep m d h b xa xb g)

/-- TRD (R229). -/
def execTrd (d : Reg) (h : HReg) (b : Reg) (xa xb : Bool) (g : PReg) (m : TMode) (s : State) : Out :=
  .next (s.tupleOp .rd m d h b xa xb g)

/-- TTAKE (R229). -/
def execTtake (d : Reg) (h : HReg) (b : Reg) (xa xb : Bool) (g : PReg) (m : TMode) (s : State) : Out :=
  .next (s.tupleOp .take m d h b xa xb g)

/-- TCANCEL (R231). -/
def execTcancel (d : Reg) (h : HReg) (xa : Bool) (g : PReg) (s : State) : Out :=
  .next (s.tupleOp .cancel .p d h 0 xa false g)

end Sys2Proof.Machine
end

