-- ==== Sys2Proof/Machine/Melt.lean ====
section
/-! DEFINITION. Landings on their way (R191-R193) and melt granules (R196-R198). -/

namespace Sys2Proof.Machine

-- ==== landings ====

/-- The sender of a landing learns its status, `bound` cycles after the landing at most (R191, R193, R246); a landing acts one cycle after its own,
behind the bundles of that cycle (R190). -/
def State.landStatus (s : State) (src : LandFrom) (bound status : Nat) : State :=
  match src with
  | .strand uid tag => (s.after (s.choose bound) (.deliver uid tag (.val (BitVec.ofNat 64 status)))).bump
  | .engine core cmd =>
    s.modCore core fun c => { c with log := c.log.map fun e => if e.id = cmd then { e with result := status } else e }
  | .ccb => s

/-- LANDING_ARRIVAL (R190-R193, R434): a release lands only after the sender's earlier accesses; a name of another device
goes out through the fabric port. -/
def execLandingArrival (l : Landing) (s : State) : Out :=
  .next (if s.relBlocked l.rel then s.after 1 (.landingArrival l)
    else
      let s := s.performRel l.rel
      if nameDevice l.name ≠ s.plat.device then
        let core := match l.src with
          | .engine c _ => c
          | _ => 0
        s.sendRequest core 0 0 3 l.name
          { blankFlit .landing (nameDevice l.name) l.part l.name with value := l.value, scope := l.scope }
      else
        let x := s.landAt l.part l.name l.value l.scope
        x.1.landStatus l.src (match l.rel with | some r => (nameTimes r.core l.name).2 | none => 120) x.2)

-- ==== melt granules at their home (R196) ====

/-- The copies of a granule's lines in L1Ds and replicas go, dirty bytes home first (R196). -/
def State.dropLines (s : State) (key n : Nat) : State :=
  let s := s.cores.foldl (fun s c => ((s.core c.1).l1d.filter fun l => l.meets key n).foldl (fun s l => s.dropAt c.1 l.line) s) s
  s.dropReplicas fun r => r.2.meets key n

/-- Makes a granule's fill room in its home slice (R157, R196)? Its own tag gives way to it, else a way of its set must come free. -/
def State.fillRoom (s : State) (key : Nat) : State × Bool :=
  let gran := key / 2048
  let home := s.homeOfGran gran
  match (s.slice home).tags.find? fun t => t.gran == gran && !t.rep with
  | some t => (s.dropTag home t, true)
  | none => s.makeWay home gran

/-- A fill accepted by the home (R196): FILLING, its old contents written back and every copy of its lines dropped; the last piece is written
within the time of a write to the home. `src` is the source area of a FILLM, which is sampled now or when the fill is done (log 119). Granules are numbered in the order of acceptance,
from which the one filled earliest is told (DESIGN CHOICE, log 141). -/
def State.fillAtHome (s : State) (key : Nat) (count : BitVec 8) (data : List Byte) (part ctx uid : Nat) (src : Option Nat) : State :=
  let s := (s.mergePartials key 2048).dropLines key 2048
  let m : Melt := { key := key, live := false, count := count.toNat, order := s.nextAge, part := part, ctx := ctx, uid := uid, src := src,
                    held := [], known := src.map fun _ => [s.myCore], rels := [] }
  let s := { s with mem := s.mem.writeBytes (meltKey key) data, melts := s.melts ++ [m], nextAge := s.nextAge + 1 }
  s.within 420 (.meltFillDone key)

/-- FILLM_AT_HOME (R196): a fill that meets a FILLING or LIVE granule is refused and changes nothing; one that finds no way waits. -/
def execFillmAtHome (key : Nat) (count : BitVec 8) (data : List Byte) (part ctx : Nat) (s : State) : Out :=
  .next (if (s.meltAt key 2048).isSome then s
    else
      let x := s.fillRoom key
      if x.2 then x.1.fillAtHome key count data part ctx 0 none else x.1.after 1 (.fillmAtHome key count data part ctx))

/-- MELT_EVICTION (R196): only a LIVE granule of a set whose 16 ways are LIVE, the earliest filled. -/
def execMeltEviction (key : Nat) (s : State) : Out :=
  .next (match s.meltVictim (s.homeOfGran (key / 2048)) (key / 2048) with
    | some m => if m.key = key then s.meltEnd m 1 else s
    | none => s)

-- ==== consuming reads (R196, R197) ====

/-- A strand that waits at a home goes on with its bundle. -/
def State.answerMelt (s : State) (uid tag : Nat) (w : Wait) : State :=
  match s.slotOf uid with
  | some i =>
    if (s.slot i).front.wait = .melt tag then s.modSlot i fun t => { t with front := { t.front with wait := w } } else s
  | none => s

/-- A LIVE granule serves one LD.M: the data go to the area, the count falls, and at zero the granule is dropped without
write-back (R196, R197). `area` is core x 2^20 + pool offset. -/
def State.serveMelt (s : State) (m : Melt) (uid tag : Nat) (area : BitVec 32) : State :=
  let l := s.mem.readBytes (meltKey m.key) 2048
  let n := m.count - 1
  let s := s.storePool (s.coreOfStrand uid) (area.toNat / 2 ^ 20) (area.toNat % 2 ^ 20) l
  let s := if n = 0 then s.meltGone m.key
    else { s with melts := s.melts.map fun x => if x.key = m.key then { x with count := n } else x }
  s.answerMelt uid tag (.served (BitVec.ofNat 64 (n * 256)))

/-- An LD.M at the home (R196, R197): an ORDINARY granule refuses, a FILLING one holds, a LIVE one serves. -/
def State.ldmServe (s : State) (uid tag key : Nat) (area : BitVec 32) : State :=
  match s.melts.find? fun m => m.key == key with
  | none => s.answerMelt uid tag .refused
  | some m =>
    if m.live then s.serveMelt m uid tag area
    else s.holdAtMelt key 2048
      { uid := uid, tag := tag, area := some area, key := key, size := 2048, sext := false, acq := none, cmd := none, flit := none }

/-- An LD.M that reaches its home (R196, R197, R214): where no release and acquire order the fill toward its core, whether it finds the fill or
comes before it is open (R298, log 147). -/
def State.ldmAt (s : State) (uid tag key : Nat) (area : BitVec 32) : State :=
  match s.melts.find? fun m => m.key == key with
  | some m => if !m.knownTo (s.coreOfStrand uid) && s.coin then (s.answerMelt uid tag .refused).bump else s.bump.ldmServe uid tag key area
  | none => s.ldmServe uid tag key area

/-- LDM_AT_HOME. -/
def execLdmAtHome (uid tag : Nat) (key : Nat) (area : BitVec 32) (s : State) : Out := .next (s.ldmAt uid tag key area)

/-- The pieces that a strand's bundle has been given grow by one, and the bundle goes on (R409). -/
def State.givePiece (s : State) (uid tag dev lpa : Nat) (l : List Byte) : State :=
  match s.slotOf uid with
  | some i =>
    if (s.slot i).front.wait = .melt tag then
      s.modSlot i fun t => { t with front := { t.front with wait := .none, got := t.front.got ++ [(dev, lpa, l)] } }
    else s
  | none => s

/-- A load that a granule has held is served (R196): its register within the time of a slice; a LD.ACQ acquires, and its strand goes on. Data that
cannot be corrected mark the register (R318). -/
def State.serveLoad (s : State) (h : MeltHeld) : State :=
  let l := s.readHome h.key h.size
  let v := if h.sext then signExtend (8 * h.size) (leWord l) else leWord l
  let bad := s.badPlace h.key h.size
  let pa := BitVec.ofNat 64 (s.plat.device * 2 ^ 49 + h.key % 2 ^ 49)
  let s := match bad, s.outOf h.uid h.tag with
    | some p, some o => { s.unmark h.uid fun x => x == o.reg with poisons := (s.unmark h.uid fun x => x == o.reg).poisons ++ [(h.uid, o.reg, p, pa)] }
    | _, _ => s
  let s := match h.acq with
    | some sc => (s.acquireFor h.uid sc).answerMelt h.uid h.tag .none
    | none => s
  s.within (s.sliceBound (s.coreOfStrand h.uid) (s.homeOfGran (h.key / 2048)))
    (.deliver h.uid h.tag (if bad.isSome then .poison v else .val v))

/-- The pieces of a fill whose source area was written meanwhile: each 64-byte piece is wholly old or wholly new (R197, log 119). -/
def State.fillPieces (s : State) (key src : Nat) : State :=
  let piece (m : Memory) (i : Nat) : Memory :=
    if Config.freeNat (s.tick + i) % 2 = 0 then m else m.writeBytes (meltKey key + 64 * i) (s.mem.readBytes (src + 64 * i) 64)
  { s with mem := (List.range 32).foldl piece s.mem, tick := s.tick + 32 }

-- ==== FILLM, LD.M, MELTQ (R197) ====

/-- The checks of a granule's address: translation, then the melt attribute (6, 5); a granule that is not in this device's
HBM has no melt state and counts as a page without the attribute (log 19). -/
def State.granule (s : State) (k : AccKind) (g : Word) (f : State → Nat → State) : State :=
  s.accessMe k 1 g fun s a =>
    match a.target, a.melt with
    | .hbm lpa, true => f s (hbmKey s.me.id.part lpa)
    | _, _ => s.takeTrap 6 5 g

def granuleForm (g : Word) : Bool := g.toNat % 2048 == 0 && !g.getLsbD 63

/-- The pool place of a 2 KiB scratchpad area; none where it is malformed or reaches outside (R197). -/
def State.meltArea (s : State) (b : Word) : Option (Nat × Nat) :=
  if 2 ^ 27 ≤ b.toNat || areaMalformed (b.toNat % 2 ^ 32) then none else s.padAt s.src s.myCore b.toNat 2048

/-- FILLM (R197): the home accepts or refuses before the next bundle. -/
def execFillm (a b : Reg) (xa xb : Bool) (g : PReg) (v : BitVec 32) (s : State) : Out :=
  .next (s.guarded g (s.operands [srcA a xa, srcB b xb] [] false
    (let gr := s.rd a
     if !granuleForm gr then s.takeTrap 6 4 gr
     else if v.toNat = 0 || 255 < v.toNat then s.takeTrap 6 3 (v.setWidth 64)
     else s.granule .store gr fun s key =>
       match s.meltArea (s.rd b) with
       | some (core, off) =>
         if (s.meltAt key 2048).isSome then s.takeTrap 6 6 gr
         else if s.meetsAtomic s.me.id.part key 2048 then s.waits
         else
           let x := s.fillRoom key
           if !x.2 then x.1.waits
           else ((x.1.goOn.counted true).injectFor s.myCore s.me.id.part 2048 (.hbm (key % 2 ^ 49))).fillAtHome key (BitVec.ofNat 8 v.toNat)
             (s.readPool core off 2048) s.me.id.part s.me.id.ctx s.me.id.uid (some (poolKey core off))
       | none => s.takeTrap 6 9 (s.rd b))))

/-- LD.M (R196, R197): the strand waits until the home serves or refuses it; the status follows the copy. -/
def execLdM (d a b : Reg) (xa xb : Bool) (g : PReg) (s : State) : Out :=
  .next (s.guarded g (s.operands [srcA a xa, srcB b xb] [d] true
    (let gr := s.rd a
     match s.me.front.wait with
     | .served v =>
       (s.modMe fun t => { t with front := { t.front with wait := .none } }).longWithin d .load 16 (.val v)
     | .refused => (s.modMe fun t => { t with front := { t.front with wait := .none } }).takeTrap 6 8 gr
     | _ =>
       if !granuleForm gr then s.takeTrap 6 4 gr
       else s.granule .load gr fun s key =>
         match s.meltArea (s.rd b) with
         | some (core, off) =>
           let tag := s.nextTag
           ((s.newTag.modMe fun t => { t with front := { t.front with wait := .melt tag } }).within (s.sliceBound s.myCore (s.homeOfGran (key / 2048)))
             (.ldmAtHome s.me.id.uid tag key (BitVec.ofNat 32 (core * 2 ^ 20 + off)))).withFlow .held
         | none => s.takeTrap 6 9 (s.rd b))))

/-- MELTQ (R197): the count of a FILLING or LIVE granule, else 0. -/
def execMeltq (d a : Reg) (xa : Bool) (g : PReg) (s : State) : Out :=
  .next (s.guarded g (s.operands [srcA a xa] [d] true
    (let gr := s.rd a
     if !granuleForm gr then s.takeTrap 6 4 gr
     else s.granule .load gr fun s key =>
       let n := match s.meltAt key 2048 with
         | some m => m.count
         | none => 0
       s.longWithin d .load (s.sliceBound s.myCore (s.homeOfGran (key / 2048))) (.val (BitVec.ofNat 64 n)))))

end Sys2Proof.Machine
end

