-- ==== Sys2Proof/Machine/Tensor.lean ====
section
/-! DEFINITION. Tensor arithmetic (R255-R267): the value of an element code with its scales, the results of the vector
commands, the k-steps of the matrix array, and the code that a result is written as. -/

namespace Sys2Proof.Machine

-- ==== element formats (R255-R258) ====

/-- Bits of an element (R255). -/
def elemBits (f : Nat) : Nat :=
  match f with
  | 0 | 9 => 32
  | 1 | 2 | 8 => 16
  | 5 => 4
  | _ => 8

/-- Bytes that an element is read in. -/
def elemBytes (f : Nat) : Nat := if elemBits f = 4 then 1 else elemBits f / 8

/-- The floating-point formats among the codes. -/
def floatFmt (f : Nat) : Option FFmt :=
  match f with
  | 0 => some fp32
  | 1 => some bf16
  | 2 => some fp16
  | 3 => some e4m3
  | 4 => some e5m2
  | _ => none

/-- An integer format (R257): INT8, UINT8, INT16, INT32. -/
def intFmt (f : Nat) : Bool := decide (6 ≤ f) && decide (f ≤ 9)

/-- Formats that carry block scales (R260). -/
def scaledFmt (f : Nat) : Bool := f == 3 || f == 4 || f == 5

/-- Bytes of a row of elements. -/
def rowBytes (f cols : Nat) : Nat := (cols * elemBits f + 7) / 8

/-- Element width w of the matrix array's k-steps (R262). -/
def kWidth (f : Nat) : Nat :=
  match f with
  | 1 | 2 => 16
  | 5 => 64
  | _ => 32

/-- Least and greatest value of an integer format or of N4X (R266). -/
def intRange (f : Nat) : Int × Int :=
  match f with
  | 5 => (-7, 7)
  | 6 => (-128, 127)
  | 7 => (0, 255)
  | 8 => (-32768, 32767)
  | _ => (-2147483648, 2147483647)

/-- FLAGS with one flag. -/
def flInvalid : EFlags := { EFlags.none with invalid := true }

def flNewNaN : EFlags := { EFlags.none with invalid := true, nan := true }

def flSaturated : EFlags := { EFlags.none with saturated := true }

def flFlushed : EFlags := { EFlags.none with flushed := true }

def flOutlier : EFlags := { EFlags.none with outlier := true }

/-- A two's-complement value of `n` bits. -/
def twos (n code : Nat) : Int := (BitVec.ofNat n code).toInt

/-- Eight times the value of an E2M1 code (R258). -/
def e2m1x8 (c : Nat) : Exact :=
  let e := c / 2 % 4
  let f := c % 2
  { neg := c / 8 % 2 == 1, num := if e = 0 then 4 * f else (8 + 4 * f) * 2 ^ (e - 1), exp := 0, den := 1 }

/-- The element of an N4X byte (R258): even or odd, with the flags of its row of the table. -/
def n4xElem (byte : Nat) (odd : Bool) : Exact × EFlags :=
  let lo := byte % 16
  let hi := byte / 16 % 16
  if lo ≠ 8 ∧ hi ≠ 8 then (Exact.ofInt (twos 4 (if odd then hi else lo)), EFlags.none)
  else if lo = 8 ∧ hi = 8 then (Exact.zero false, flOutlier.or flSaturated)
  else if lo = 8 then (if odd then Exact.zero false else e2m1x8 hi, flOutlier)
  else (if odd then e2m1x8 lo else Exact.zero false, flOutlier)

/-- The FP32 NaN that a NaN of a format is read as: the widening of R68 for BF16 and FP16; a NaN of FP8 carries no payload, so
its CORE and KIDX are free values (R256, log 21). -/
def nanCode (f : FFmt) (code : Nat) : Nat :=
  if f = fp32 then code
  else if f = bf16 ∨ f = fp16 then fpWiden f code
  else fp32.signed (f.neg code) (0x7fc00000 + Config.fp8Payload code % 2 ^ 22)

/-- A value of a format as the engines read it. -/
def floatVal (f : FFmt) (code : Nat) : FVal :=
  match f.value code with
  | .nan c => .nan (nanCode f c)
  | v => v

-- ==== values with their scales (R259-R261) ====

/-- An element as read: its value, whether it is special (R261), and the flags of the read. -/
structure Elem where
  v       : FVal
  special : Bool
  fl      : EFlags
deriving DecidableEq, Repr

def Elem.zero : Elem := { v := .num (Exact.zero false), special := false, fl := EFlags.none }

def FVal.finite : FVal → Bool
  | .num _ => true
  | _ => false

/-- A TSCALE field as a value: zero bits read as 1.0 (R259). -/
def tscale (code : Nat) : FVal := if code = 0 then .num (Exact.ofNat 1) else fp32.value code

/-- A block scale byte as a value (R260). -/
def bscale : Option Nat → FVal
  | none => .num (Exact.ofNat 1)
  | some c => floatVal e4m3 c

/-- A product of values: NaNs by R67, a new NaN of the core where the product is invalid (R66). A signalling NaN becomes quiet in it, also where
the other factor is a scale of 1 (R262, log 138). -/
def scaleMul (core : Nat) (x y : FVal) : FVal × EFlags :=
  match nanPick [x, y] with
  | some c => (.nan c, EFlags.none)
  | none => match x.mul y with
    | some v => (v, EFlags.none)
    | none => (.nan (newNaN core), flNewNaN)

/-- How a command reads elements: FMT.RND, FMT.SAT and FMT.DAZ captured at dispatch, CID[10:0] of its core, and whether an
INT32 element is converted to FP32 as it is read (R240, R257, R273). -/
structure Mode where
  rnd  : Nat
  sat  : Bool
  daz  : Bool
  core : Nat
  conv : Bool
deriving DecidableEq, Repr

/-- The unscaled element of a code (R255-R258, R261). `odd` picks the nibble of an N4X byte. -/
def elemOf (m : Mode) (f raw : Nat) (odd : Bool) : Elem :=
  match floatFmt f with
  | some ff =>
    if m.daz && ff.denormal raw then { v := .num (Exact.zero (ff.neg raw)), special := false, fl := flFlushed }
    else
      let v := floatVal ff raw
      { v := v, special := !v.finite, fl := EFlags.none }
  | none =>
    if f = 5 then
      let x := n4xElem raw odd
      { v := .num x.1, special := raw % 256 == 0x88, fl := x.2 }
    else
      let i : Int := if f = 7 then (raw % 256 : Nat) else twos (elemBits f) raw
      if f = 9 && m.conv then
        let r := fp32.round m.rnd (Exact.ofInt i)
        { v := fp32.value r.code, special := false, fl := EFlags.ofRounded r }
      else { v := .num (Exact.ofInt i), special := false, fl := EFlags.none }

/-- code x bs x ts (R259, R261). -/
def readElem (m : Mode) (f raw : Nat) (odd : Bool) (bs : Option Nat) (ts : FVal) : Elem :=
  let e := elemOf m f raw odd
  let b := bscale bs
  let x := scaleMul m.core e.v b
  let y := scaleMul m.core x.1 ts
  { v := y.1, special := e.special || !b.finite || !ts.finite, fl := (e.fl.or x.2).or y.2 }

-- ==== writing results (R266) ====

/-- The code of a NaN in a floating-point format (R266, R68). -/
def nanTo (f : FFmt) (code : Nat) : Nat :=
  if f = fp32 then code
  else if f = bf16 ∨ f = fp16 then narrowNaN f code
  else f.signed (fp32.neg code) 0x7f

/-- A value written to a floating-point format (R266): overflow by R61, SAT on overflows of finite values, infinities as they
are but for E4M3, which has none. -/
def toFloat (m : Mode) (f : FFmt) (v : FVal) : Nat × EFlags :=
  match v with
  | .nan c => (nanTo f c, EFlags.none)
  | .inf s => (if f.inf then f.infCode s else f.signed s 0x7f, EFlags.none)
  | .num x =>
    let r := f.round m.rnd x
    let sat := if r.overflow && m.sat && f != fp32 then f.signed x.neg f.top else r.code
    (sat, { EFlags.ofRounded r with saturated := sat != r.code })

/-- A value written to an integer format or N4X (R266): rounded under FMT.RND, then clamped. -/
def toInteger (m : Mode) (f : Nat) (v : FVal) : Nat × EFlags :=
  let lo := (intRange f).1
  let hi := (intRange f).2
  let code (i : Int) : Nat := (BitVec.ofInt (elemBits f) i).toNat
  match v with
  | .nan _ => (0, flInvalid)
  | .inf s => (code (if s then lo else hi), flSaturated)
  | .num x =>
    let i := x.toInt m.rnd
    let c := clampInt lo hi i
    (code c, { EFlags.none with inexact := !x.integral, saturated := c != i })

/-- The code of a value in format `f` with the destination's scales, and the flags (R266). -/
def writeElem (m : Mode) (f : Nat) (v : FVal) (bs : Option Nat) (ts : FVal) : Nat × EFlags :=
  let d := (scaleMul m.core (bscale bs) ts).1
  let bad := !d.finite || d.isZero
  match floatFmt f with
  | some ff =>
    if bad then (nanTo ff (newNaN m.core), flInvalid)
    else match v with
      | .nan c => toFloat m ff (.nan c)
      | v => toFloat m ff ((v.div d).getD v)
  | none =>
    if bad then (0, flInvalid)
    else match v with
      | .nan c => toInteger m f (.nan c)
      | v => toInteger m f ((v.div d).getD v)

-- ==== vector arithmetic (R264, R273) ====

/-- The result of a lane (R264): NaNs among the inputs by R67, a new NaN where the operation is invalid (R66), else one
rounding to FP32 under FMT.RND. -/
def laneResult (m : Mode) (ins : List FVal) (r : FRes) : FVal × EFlags :=
  match nanPick ins with
  | some c => (.nan c, EFlags.none)
  | none => match r with
    | none => (.nan (newNaN m.core), flNewNaN)
    | some v => let q := v.to32 m.rnd; (fp32.value q.code, EFlags.ofRounded q)

/-- The greater or the lesser of two values, with -0 below +0 (R79); NaNs by R67. -/
def pickExtreme (max : Bool) (a b : FVal) : FVal :=
  match nanPick [a, b] with
  | some c => .nan c
  | none => if max then (if a.below b then b else a) else (if b.below a then b else a)

/-- An exact value's numerator and exponent without common factors of 2. -/
def Exact.reduced (x : Exact) : Nat × Int :=
  let g := Nat.gcd x.num (2 ^ (x.num.log2 + 1))
  (x.num / g, x.exp + g.log2)

/-- The operand, the command and FMT in one number: VEXP2 and VLOG2 are fixed functions of them (R264). -/
def faithfulKey (op : Nat) (m : Mode) (x : Exact) : Nat :=
  let r := x.reduced
  ((r.1 * 2 ^ 16 + (r.2 + 2 ^ 15).toNat) * 2 + (if x.neg then 1 else 0)) * 32
    + (m.rnd + (if m.sat then 4 else 0) + (if m.daz then 8 else 0)) * 2 + op

/-- 2^a (R264): exact for an integer whose result FP32 holds; else one of the two values that bracket it, a free choice (log
12). An operand beyond the exponents of FP32 is bracketed as one of magnitude 256 is. -/
def vexp2 (m : Mode) (a : FVal) : FVal × EFlags :=
  match a with
  | .nan c => (.nan (quiet c), EFlags.none)
  | .inf s => (if s then .num (Exact.zero false) else .inf false, EFlags.none)
  | .num x =>
    let big := (Exact.ofNat 256).lt { x with neg := false }
    let y : Exact :=
      if big then { neg := false, num := 1, exp := if x.neg then -256 else 256, den := 1 }
      else if x.integral then { neg := false, num := 1, exp := x.toInt 1, den := 1 }
      else x.exp2
    let q := faithful (Config.freeUpper (faithfulKey 0 m x)) y
    (fp32.value q.code, EFlags.ofRounded q)

/-- log2 a (R264): exact at powers of two; else one of the two bracketing values, a free choice (log 12). -/
def vlog2 (m : Mode) (a : FVal) : FVal × EFlags :=
  match a with
  | .nan c => (.nan (quiet c), EFlags.none)
  | .inf s => if s then (.nan (newNaN m.core), flNewNaN) else (.inf false, EFlags.none)
  | .num x =>
    if x.isZero then (.inf true, EFlags.none)
    else if x.neg then (.nan (newNaN m.core), flNewNaN)
    else
      let y := if x.reduced.1 = 1 then Exact.ofInt x.reduced.2 else x.log2
      let q := faithful (Config.freeUpper (faithfulKey 1 m x)) y
      (fp32.value q.code, EFlags.ofRounded q)

/-- An integer from an exact value: truncated toward zero; none for a value that is not finite. -/
def FVal.trunc : FVal → Option Int
  | .num x => some (x.toInt 1)
  | _ => none

/-- a x 2^n with n clamped to -512 ... 512 (R273); a special b makes it invalid. -/
def vscale (m : Mode) (a b : Elem) : FVal × EFlags :=
  if b.special then (.nan (newNaN m.core), flNewNaN)
  else match a.v, b.v.trunc with
    | .num x, some n => laneResult m [] (some (.num { x with exp := x.exp + clampInt (-512) 512 n }))
    | v, _ => laneResult m [v] (some v)

/-- |a| of a value. -/
def FVal.abs : FVal → FVal
  | .inf _ => .inf false
  | .num x => .num { x with neg := false }
  | v => v

/-- The elementwise commands of R273: v for the elements of A, B and D, with the flags of the operation. -/
def laneOp (m : Mode) (i : Instr) (a b d : Elem) : FVal × EFlags :=
  match i with
  | .vadd .. => laneResult m [a.v, b.v] (a.v.add m.rnd b.v)
  | .vsub .. => laneResult m [a.v, b.v] (a.v.add m.rnd b.v.negate)
  | .vmul .. => laneResult m [a.v, b.v] (a.v.mul b.v)
  | .vfma .. => laneResult m [a.v, b.v, d.v] (a.v.fma m.rnd b.v d.v)
  | .vmax .. => laneResult m [a.v, b.v] (some (pickExtreme true a.v b.v))
  | .vmin .. => laneResult m [a.v, b.v] (some (pickExtreme false a.v b.v))
  | .vabs .. => laneResult m [a.v] (some a.v.abs)
  | .vneg .. => laneResult m [a.v] (some a.v.negate)
  | .vexp2 .. => vexp2 m a.v
  | .vlog2 .. => vlog2 m a.v
  | .vrcp .. => laneResult m [a.v] a.v.rcp
  | .vrsq .. => laneResult m [a.v] a.v.rsqrt
  | .vscale .. => vscale m a b
  | _ => laneResult m [a.v] (some a.v)

-- ==== bit commands (R276) ====

/-- VSHIFT of a code of `w` bits: a count that is special acts as one of w or more. -/
def shiftCode (k : ShiftKind) (w code : Nat) (count : Option Int) : Nat :=
  let top := code / 2 ^ (w - 1) % 2
  let n := match count with
    | some i => if 0 ≤ i ∧ i < w then some i.toNat else none
    | none => none
  match k, n with
  | .l, some n => code * 2 ^ n % 2 ^ w
  | .r, some n => code / 2 ^ n
  | .a, some n => code / 2 ^ n + (if top = 1 then 2 ^ w - 2 ^ (w - n) else 0)
  | .a, none => if top = 1 then 2 ^ w - 1 else 0
  | _, none => 0

-- ==== reductions (R265, R280) ====

/-- A partial result of a reduction: its value and the index of the first element that it covers. -/
abbrev Lane := FVal × Nat

/-- One combination (R265): SUM rounds once; MAX and MIN are exact. A NaN born here has KIDX the first index of its right-hand
operand. -/
def combine (m : Mode) (op : RedKind) (x y : Lane) : Lane × EFlags :=
  match op with
  | .max => ((pickExtreme true x.1 y.1, x.2), EFlags.none)
  | .min => ((pickExtreme false x.1 y.1, x.2), EFlags.none)
  | .sum =>
    match nanPick [x.1, y.1] with
    | some c => ((.nan c, x.2), EFlags.none)
    | none => match x.1.add m.rnd y.1 with
      | none => ((.nan (payloadNaN m.core (y.2 % 2048)), x.2), flNewNaN)
      | some v => let q := v.to32 m.rnd; ((fp32.value q.code, x.2), EFlags.ofRounded q)

/-- One level of the tree: adjacent results combined; one without a partner passes up. -/
def treeLevel (m : Mode) (op : RedKind) : List Lane → List Lane × EFlags
  | x :: y :: r =>
    let c := combine m op x y
    let t := treeLevel m op r
    (c.1 :: t.1, c.2.or t.2)
  | l => (l, EFlags.none)

/-- The tree of a chunk of at most 512 lanes, level by level. -/
def reduceTree (m : Mode) (op : RedKind) : Nat → List Lane → List Lane × EFlags
  | 0, l => (l, EFlags.none)
  | n + 1, l =>
    let t := treeLevel m op l
    let u := reduceTree m op n t.1
    (u.1, t.2.or u.2)

/-- The chunk results combined in ascending order. -/
def reduceChunks (m : Mode) (op : RedKind) : Lane → List (List Lane) → Lane × EFlags
  | acc, [] => (acc, EFlags.none)
  | acc, c :: r =>
    let t := reduceTree m op 9 c
    match t.1 with
    | x :: _ =>
      let y := combine m op acc x
      let u := reduceChunks m op y.1 r
      (u.1, (t.2.or y.2).or u.2)
    | [] => reduceChunks m op acc r

/-- Elements in chunks of 512 lanes. -/
def chunksOf (l : List Lane) : List (List Lane) := (List.range ((l.length + 511) / 512)).map fun i => (l.drop (512 * i)).take 512

/-- VRED of one row, rounded once to FP32 (R265, R280). -/
def reduceRow (m : Mode) (op : RedKind) (l : List FVal) : FVal × EFlags :=
  match chunksOf (l.zip (List.range l.length)) with
  | [] => (.num (Exact.zero false), EFlags.none)
  | c :: rest =>
    let t := reduceTree m op 9 c
    match t.1 with
    | [] => (.num (Exact.zero false), EFlags.none)
    | x :: _ =>
      let u := reduceChunks m op x rest
      let r := laneResult m [u.1.1] (some u.1.1)
      (r.1, (t.2.or u.2).or r.2)

-- ==== the matrix array (R262, R263) ====

/-- The flags that the array sets while it accumulates (R267). -/
def EFlags.array (f : EFlags) : EFlags := { f with invalid := false, nan := false }

/-- Special elements read as zero (R263). -/
def Elem.forArray (e : Elem) : Exact :=
  if e.special then Exact.zero false else match e.v with
    | .num x => x
    | _ => Exact.zero false

/-- One k-step of one output element (R262): the exact sum of the accumulator and w products, rounded once to nearest even.
An infinity stays; a NaN stays with its quiet bit set. -/
def kStep (acc : Nat) (a b : List Exact) : Nat × EFlags :=
  match fp32.value acc with
  | .nan c => (quiet c, EFlags.none)
  | .inf _ => (acc, EFlags.none)
  | .num x =>
    let s := (a.zip b).foldl (fun s p => s.add 0 (p.1.mul p.2)) x
    let r := fp32.round 0 s
    (r.code, EFlags.ofRounded r)

/-- The k-steps of an iteration for one output element, in ascending k. -/
def kSteps (w : Nat) : Nat → Nat → List Exact → List Exact → Nat × EFlags
  | 0, acc, _, _ => (acc, EFlags.none)
  | n + 1, acc, a, b =>
    let x := kStep acc (a.take w) (b.take w)
    let y := kSteps w n x.1 (a.drop w) (b.drop w)
    (y.1, x.2.or y.2)

/-- The mark that stays of two: CORE first, then KIDX (R263). -/
def markMin (a b : Option (Nat × Nat)) : Option (Nat × Nat) :=
  match a, b with
  | some x, some y => if x.1 < y.1 ∨ (x.1 = y.1 ∧ x.2 ≤ y.2) then some x else some y
  | some x, none => some x
  | none, y => y

end Sys2Proof.Machine
end

