-- ==== Sys2Proof/Machine/Engines.lean ====
section
/-! DEFINITION. Engine commands at dispatch: handle images (R233-R237), the checks of a command (R239, R270, R272-R287), the
capture (R240) and the queues (R241, R245, R250, R251). -/

namespace Sys2Proof.Machine

-- ==== handle images (R233-R237) ====

def hKind (h : HandleImage) : Nat := hbits h 0 4

def hFmt (h : HandleImage) : Nat := hbits h 4 4

/-- An operand: a tensor in local storage, in a ring slot or in global memory. `addr` is LADDR or VADDR, or a ring's BASE;
`scaleAddr` is SCALEADDR, `bsc` BSC; `slots`, `slotB`, `head` and `tail` are a ring's. -/
structure Oper where
  kind      : Nat
  fmt       : Nat
  rows      : Nat
  cols      : Nat
  stride    : Nat
  addr      : Nat
  scaleAddr : Nat
  bsc       : Bool
  consume   : Bool
  mcount    : Nat
  ts        : Nat
  rid       : Nat
  slots     : Nat
  slotB     : Nat
  head      : Nat
  tail      : Nat
deriving DecidableEq, Repr

def Oper.blank : Oper :=
  { kind := 0, fmt := 0, rows := 0, cols := 0, stride := 0, addr := 0, scaleAddr := 0, bsc := false, consume := false, mcount := 0,
    ts := 0, rid := 0, slots := 0, slotB := 0, head := 0, tail := 0 }

/-- The operand that an image describes; a RING takes its shape from the ring table (R248). -/
def operOf (rings : Tab (BitVec 256)) (h : HandleImage) : Oper :=
  match hKind h with
  | 1 => { Oper.blank with kind := 1, fmt := hFmt h, rows := hbits h 48 16, cols := hbits h 64 16, stride := hbits h 80 32,
                           addr := hbits h 16 32, scaleAddr := hbits h 112 32, ts := hbits h 144 32 }
  | 2 =>
    let r := rings.get 0 (hbits h 16 4)
    { Oper.blank with kind := 2, fmt := hbits r 128 4, rows := hbits r 96 16, cols := hbits r 112 16,
                      stride := rowBytes (hbits r 128 4) (hbits r 112 16), addr := hbits r 0 32, rid := hbits h 16 4,
                      slots := hbits r 64 16, slotB := hbits r 80 16, head := hbits r 32 16, tail := hbits r 48 16 }
  | 3 => { Oper.blank with kind := 3, fmt := hFmt h, rows := hbits h 80 16, cols := hbits h 96 16, stride := hbits h 112 32,
                           addr := hbits h 16 64, bsc := h.getLsbD 9, consume := h.getLsbD 8, mcount := hbits h 176 8,
                           ts := hbits h 144 32 }
  | k => { Oper.blank with kind := k }

/-- The fields that a kind's layout gives as zero (R234-R237, R277). -/
def zeroFields (h : HandleImage) : Bool :=
  match hKind h with
  | 0 => hbits h 48 208 == 0 && hbits h 4 12 == 0
  | 1 => hbits h 176 80 == 0 && hbits h 8 8 == 0
  | 2 => hbits h 20 236 == 0 && hbits h 4 12 == 0
  | 3 => hbits h 184 72 == 0 && hbits h 10 6 == 0
  | 5 => hbits h 128 128 == 0 && hbits h 4 12 == 0
  | _ => true

/-- Does an operand carry block scales (R260)? -/
def Oper.scaled (o : Oper) : Bool := scaledFmt o.fmt && ((o.kind == 1 && o.scaleAddr != 0) || (o.kind == 3 && o.bsc))

/-- Bytes from an operand's first to behind its last element. -/
def Oper.extent (o : Oper) : Nat := (o.rows - 1) * o.stride + rowBytes o.fmt o.cols

/-- Bytes of an operand's block scales: K along rows, or down columns (R260). -/
def Oper.scaleExtent (o : Oper) (down : Bool) : Nat :=
  if down then (o.rows + 31) / 32 * o.cols else o.rows * ((o.cols + 31) / 32)

-- ==== the commands (R269) ====

/-- The unit of a command. -/
def cmdUnit : Instr → CmdUnit
  | .mma .. | .mmas .. | .mzero .. | .mdrain .. | .maccld .. => .matrix
  | .cpy .. | .cpyg .. | .cpys .. | .cpyr .. => .copy
  | _ => .vector

/-- Does a command use HA, HB? -/
def usesHa : Instr → Bool
  | .mzero .. => false
  | _ => true

def usesHb : Instr → Bool
  | .vadd .. | .vsub .. | .vmul .. | .vfma .. | .vmax .. | .vmin .. | .vscale .. | .vsel .. | .vand .. | .vor .. | .vxor ..
  | .vgather .. | .vscatter .. | .vcmp .. | .vshift .. | .mma .. | .mmas .. | .cpyg .. | .cpys .. => true
  | _ => false

/-- Is operand `o` (0 D, 1 A, 2 B) an accumulator tile (R281)? -/
def accOperand (i : Instr) (o : Nat) : Bool :=
  match i with
  | .mma .. | .mmas .. | .mzero .. | .maccld .. => o == 0
  | .mdrain .. => o == 1
  | _ => false

/-- The kinds that an operand accepts (R272, R281, R284-R287). -/
def acceptsKind (i : Instr) (o k : Nat) : Bool :=
  match cmdUnit i with
  | .vector => match i with
    | .vfill .. => if o = 1 then k == 0 else k == 1 || k == 2
    | _ => k == 1 || k == 2
  | .matrix => match i with
    | .mma .. | .mmas .. => if o = 0 then k == 1 else k == 1 || k == 2 || k == 3
    | _ => k == 1
  | .copy => match i, o with
    | .cpy .., 0 => k == 1 || k == 2 || k == 3
    | .cpyg .., 1 => k == 3
    | .cpyg .., 2 | .cpys .., 2 => k == 1
    | .cpys .., 0 | .cpyr .., 0 => k == 3
    | _, _ => k == 1 || k == 3

/-- Is the format of operand `o` one that the command accepts beside D's and A's (R272-R287)? Where a rule asks two operands for one format and
names neither, the later of them is the one that is refused (DESIGN CHOICE, log 145). -/
def acceptsFmt (i : Instr) (o : Nat) (d a x : Oper) : Bool :=
  let f := x.fmt
  match i, o with
  | .vscale .., 2 | .vshift .., 2 => intFmt f
  | .vand .., 1 | .vor .., 1 | .vxor .., 1 | .vshift .., 1 | .vcopy .., 1 => f == d.fmt
  | .vand .., 2 | .vor .., 2 | .vxor .., 2 => f == d.fmt
  | .vtrans .., 0 | .vgather .., 0 | .vscatter .., 0 => f != 5
  | .vtrans .., 1 | .vgather .., 1 | .vscatter .., 1 => f == d.fmt
  | .vgather .., 2 | .vscatter .., 2 => f == 7 || f == 8 || f == 9
  | .mma .., 0 | .mmas .., 0 | .mzero .., 0 | .maccld .., 0 | .mdrain .., 1 | .maccld .., 1 => f == 0
  | .mma .., 1 => f == 1 || f == 2 || f == 6 || f == 7
  | .mma .., _ => (f == 1 || f == 2 || f == 6 || f == 7) && kWidth f == kWidth a.fmt
  | .mmas .., 1 => f == 3 || f == 4 || f == 5
  | .mmas .., _ => (f == 3 || f == 4 || f == 5) && kWidth f == kWidth a.fmt
  | .cpy .., 1 | .cpyg .., 1 | .cpys .., 1 => f == d.fmt
  | .cpyg .., 2 | .cpys .., 2 => f == 9
  | .cpyr .., 0 => f == 0 || f == 9
  | .cpyr .., 1 => f == d.fmt
  | _, _ => true

/-- A source that matches a grid or is broadcast over it (R272). -/
def fitsGrid (rows cols : Nat) (x : Oper) : Bool :=
  (x.rows == 1 || x.rows == rows) && (x.cols == 1 || x.cols == cols)

/-- Is what operand `o` brings to one iteration within the command's limit (R272, R284)? -/
def acceptsSize (i : Instr) (o : Nat) (x : Oper) : Bool :=
  let e := x.rows * x.cols
  let bytes := x.rows * rowBytes x.fmt x.cols ≤ 8192
  match i, o with
  | .vtrans .., 0 | .vgather .., 0 | .vscatter .., 0 => e ≤ 4096
  | .vred .., 0 => true
  | .vred .., 1 => e ≤ 32768
  | .cpy .., 0 | .cpyr .., 0 | .cpyg .., 0 | .cpys .., 1 => bytes
  | i, 0 => cmdUnit i != .vector || decide (e ≤ 32768)
  | _, _ => true

/-- Is the shape of operand `o` one that the command accepts (R272-R287)? Of VTRANS and VRED the rules say what D is beside A, so that D is refused,
where A has a shape at all (R278, R280). -/
def acceptsShape (i : Instr) (o : Nat) (d a x : Oper) : Bool :=
  match i, o with
  | .vtrans .., 0 => !acceptsKind i 1 a.kind || (x.rows == a.cols && x.cols == a.rows)
  | .vred .., 0 => x.cols == 1 && (!acceptsKind i 1 a.kind || x.rows == a.rows)
  | .vtrans .., _ | .vred .., _ => true
  | .vgather .., 0 | .vscatter .., 0 => true
  | .vgather .., 1 | .vscatter .., 1 => true
  | .vgather .., 2 => fitsGrid d.rows d.cols x
  | .vscatter .., 2 => fitsGrid a.rows a.cols x
  | .mma .., 1 | .mmas .., 1 => x.rows == 16 && x.cols % kWidth x.fmt == 0 && x.cols / kWidth x.fmt ≤ 64
  | .mma .., 2 | .mmas .., 2 => x.cols == 16 && x.rows == a.cols
  | .mma .., _ | .mmas .., _ | .mzero .., _ | .mdrain .., _ | .maccld .., _ => x.rows == 16 && x.cols == 16
  | .cpy .., 1 | .cpyr .., 1 => x.rows == d.rows && x.cols == d.cols
  | .cpyg .., 1 => x.cols == d.cols
  | .cpyg .., 2 => x.cols == 1 && x.rows == d.rows
  | .cpys .., 1 => x.cols == d.cols
  | .cpys .., 2 => x.cols == 1 && x.rows == a.rows
  | _, 0 => true
  | _, _ => fitsGrid d.rows d.cols x

-- ==== local operands (R147, R269, R270) ====

/-- An address of an operand with CORE 31 replaced by the issuing strand's virtual core (R269). -/
def withCore (vcore a : Nat) : Nat :=
  if a / 2 ^ 22 % 32 = 31 then a / 2 ^ 27 * 2 ^ 27 + vcore * 2 ^ 22 + a % 2 ^ 22 else a

/-- Is a local address well formed, in an allowed region, and of a core that the unit reaches (R148, R270, detail 4)? Accumulators are for the
tiles of matrix commands. -/
def localOk (i : Instr) (o vcore a : Nat) : Bool :=
  let n := a / 2 ^ 22 % 32
  let region := a / 2 ^ 20 % 4
  decide (a < 2 ^ 27) && decide (n < 24) &&
  match cmdUnit i with
  | .copy => region == 0
  | .vector => n / 4 == vcore / 4 && region == 0
  | .matrix => if accOperand i o then n == vcore && region == 2 else n / 4 == vcore / 4 && region == 0

/-- The trip counts of a LOOP image, from level 0; a count of 0 reads as 1 (R237). -/
def tripsOf (hl : HandleImage) : List Nat :=
  if hKind hl = 5 then [31, 47, 63, 79, 95].map fun hi => max 1 (hbits hl (hi - 15) 16) else [1, 1, 1, 1, 1]

/-- The stride of level `l` and operand `o` (R237). -/
def strideOf (strides : List Int) (l o : Nat) : Int := strides.getD (3 * l + o) 0

/-- The least and the greatest displacement of an operand over the loop nest. -/
def spanOf (trips : List Nat) (strides : List Int) (o : Nat) : Int × Int :=
  (List.range 5).foldl (fun p l =>
    let d := ((trips.getD l 1 : Nat) - 1 : Int) * strideOf strides l o
    (p.1 + min 0 d, p.2 + max 0 d)) (0, 0)

/-- Base and limit in bytes of the region of a local address whose CORE is explicit, with the physical core (R339). -/
def State.localRegion (s : State) (q ctxKey a : Nat) : Option (Nat × Nat × Nat) :=
  (s.explicitCore q ctxKey (a / 2 ^ 22 % 32) (a / 2 ^ 20 % 4)).map fun p => (p.1, p.2.1 * 16384, p.2.2 * 16384)

/-- Do `n` bytes from a local address on, moved over a span, stay in its region (R270, detail 5)? -/
def State.inRegion (s : State) (q ctxKey a n : Nat) (span : Int × Int) : Bool :=
  match s.localRegion q ctxKey a with
  | none => false
  | some (_, _, limit) =>
    let off : Int := (a % 2 ^ 20 : Nat)
    decide (0 ≤ off + span.1) && decide (off + span.2 + n ≤ limit)

-- ==== the checks (R239, R270) ====

/-- The first detail whose condition fails. -/
def firstFail : List (Nat × Bool) → Option Nat
  | [] => none
  | (d, ok) :: r => if ok then firstFail r else some d

/-- What the checks know of the issuing strand: its cluster, context and virtual core, and its core's rings. -/
structure Issuer where
  q      : Nat
  ctxKey : Nat
  vcore  : Nat
  rings  : Tab (BitVec 256)
deriving DecidableEq, Repr

/-- K runs down the columns of B for MMA and MMAS (R260). -/
def kDown (i : Instr) (o : Nat) : Bool :=
  match i with
  | .mma .. | .mmas .. => o == 2
  | _ => false

/-- Does a melt destination stay on whole granules in every iteration (R250)? -/
def wholeGranules (trips : List Nat) (strides : List Int) : Bool :=
  (List.range 5).all fun l => trips.getD l 1 == 1 || strideOf strides l 0 % 2048 == 0

/-- The first detail that refuses operand `o` of a command (R270); format 5 needs N4X (R427). -/
def State.operandFail (s : State) (w : Issuer) (i : Instr) (o : Nat) (h : HandleImage) (d a : Oper) (trips : List Nat)
    (strides : List Int) : Option Nat :=
  let x := operOf w.rings h
  let size := elemBytes x.fmt
  let la := withCore w.vcore x.addr
  let sa := withCore w.vcore x.scaleAddr
  let tensor := x.kind == 1
  let glob := x.kind == 3
  let ring := x.kind == 2
  let dense := x.stride == rowBytes x.fmt x.cols
  let destOk := o != 0 || decide (rowBytes x.fmt x.cols ≤ x.stride)
  let shape := decide (0 < x.rows) && decide (0 < x.cols) && !(x.fmt == 5 && x.cols % 2 == 1) && acceptsShape i o d a x
    && destOk && (!accOperand i o || x.stride == 64)
  let loc := tensor && scaledFmt x.fmt && x.scaleAddr != 0
  if x.kind = 0 then firstFail [(0, acceptsKind i o 0), (6, zeroFields h)]
  else firstFail
    [(0, acceptsKind i o x.kind),
     (1, (s.feature 8 || x.fmt != 5) && (ring || (decide (x.fmt < 10) && acceptsFmt i o d a x))),
     (2, acceptsSize i o x && (ring || shape)),
     (3, ring || (x.addr % size == 0 && x.stride % size == 0 && (!accOperand i o || x.addr % 1024 == 0))),
     (4, !tensor || (localOk i o w.vcore la && (!loc || localOk i o w.vcore sa))),
     (5, !tensor || (s.inRegion w.q w.ctxKey la x.extent (spanOf trips strides o)
          && (!loc || s.inRegion w.q w.ctxKey sa (x.scaleExtent (kDown i o)) (0, 0)))),
     (6, zeroFields h),
     (9, !ring || (decide (x.rid < 8) && x.slots != 0 && acceptsFmt i o d a x && shape)),
     (10, !glob || decide (x.addr < 2 ^ 63)),
     (11, !glob || ((x.mcount == 0 || (o == 0 && (match i with | .cpy .. => true | _ => false) && x.addr % 2048 == 0 && dense
            && x.rows * x.stride % 2048 == 0 && wholeGranules trips strides)) && !(o == 0 && x.consume)))]

/-- The first detail that refuses a LOOP operand (R270). -/
def State.loopFail (s : State) (w : Issuer) (h : HandleImage) : Option Nat :=
  let a := withCore w.vcore (hbits h 96 32)
  firstFail
    [(0, hKind h == 5), (6, zeroFields h),
     (7, a % 64 == 0 && decide (a < 2 ^ 27) && decide (a / 2 ^ 22 % 32 < 24) && a / 2 ^ 20 % 4 == 0
          && s.inRegion w.q w.ctxKey a 60 (0, 0))]

/-- The 15 strides of a LOOP operand, read from its stride table (R237). -/
def State.stridesOf (s : State) (w : Issuer) (h : HandleImage) : List Int :=
  if hKind h = 5 then
    let a := withCore w.vcore (hbits h 96 32)
    match s.localRegion w.q w.ctxKey a with
    | some (c, base, _) => (List.range 15).map fun i => twos 32 (leNat (s.readPool c (base + a % 2 ^ 20 + 4 * i) 4))
    | none => []
  else []

/-- Is a completion pair accepted (R239)? -/
def pairOk (target control : Word) : Bool :=
  bitsOf control 9 7 == 0 && bitsOf control 4 4 == 0 && (control.getLsbD 3 || (target.toNat % 8 == 0 && !target.getLsbD 63))

/-- The refusal of a command: detail and operand (R270). `loops` says that HL is not h0. -/
def State.commandFail (s : State) (w : Issuer) (i : Instr) (hd ha hb hl : HandleImage) (loops : Bool)
    (pair : Option (Word × Word)) : Option (Nat × Nat) :=
  let bad := if loops then s.loopFail w hl else none
  let trips := if bad.isSome || !loops then [1, 1, 1, 1, 1] else tripsOf hl
  let strides := if bad.isSome || !loops then [] else s.stridesOf w hl
  let d := operOf w.rings hd
  let a := operOf w.rings ha
  let at_ (o : Nat) (used : Bool) (h : HandleImage) : Option (Nat × Nat) :=
    if used then (s.operandFail w i o h d a trips strides).map fun n => (n, o) else none
  let pairBad : Option (Nat × Nat) := match pair with
    | some p => if pairOk p.1 p.2 then none else some (8, 4)
    | none => none
  ((((at_ 0 true hd).orElse fun _ => at_ 1 (usesHa i) ha).orElse fun _ => at_ 2 (usesHb i) hb).orElse
    fun _ => bad.map fun n => (n, 3)).orElse fun _ => pairBad

-- ==== queues (R241, R245, R250, R251) ====

/-- The commands of a core and unit that are not delivered, in dispatch order. -/
def State.queueOf (s : State) (core : Nat) (u : CmdUnit) : List Cmd :=
  (s.cmds.select fun _ c => c.core == core && c.unit == u && decide (c.state ≠ .saved)).map (·.2)

/-- The engine of a core's copy commands: cluster x 2 + CORE bit 0 (R250). -/
def copyEngineOf (core : Nat) : Nat := clusterOf core * 2 + coreNo core % 2

/-- The unit looks for a command to start. -/
def State.poke (s : State) (core : Nat) (u : CmdUnit) (d : Nat) : State :=
  match u with
  | .vector => s.after d (.vectorGrant (quadOf core))
  | .matrix => s.after d (.leaseGrant (quadOf core))
  | .copy => s.after d (.copyEngineStart (copyEngineOf core))

/-- The lease that a matrix command dispatched now belongs to (R245, R291). -/
def Leases.join (l : Leases) (id : Nat) : Leases × Nat :=
  match l.marker with
  | some n => ({ marker := none, cur := some (id, n - 1), left := l.left.set id n }, id)
  | none =>
    match l.cur with
    | some (c, n + 1) => ({ l with cur := some (c, n) }, c)
    | _ => ({ l with cur := none, left := l.left.set id 1 }, id)

/-- What the combining node compares (R251): FN, and of the source FMT, FLAGS, VADDR, ROWS, COLS, ROWSTRIDE, trip counts and
strides. -/
def Cmd.sameSource (x y : Cmd) : Bool :=
  let fn (i : Instr) : Nat := match i with | .cpy .. => 0 | .cpyg .. => 1 | .cpys .. => 2 | _ => 3
  let str (c : Cmd) : List Int := (List.range 5).map fun l => strideOf c.strides l 1
  fn x.ins == fn y.ins && hbits x.ha 0 144 == hbits y.ha 0 144 && tripsOf x.hl == tripsOf y.hl && str x == str y

/-- May the combining node hold a command: one with a GLOBAL source that does not consume (R251)? -/
def Cmd.eligible (c : Cmd) : Bool := c.unit == .copy && hKind c.ha == 3 && !c.ha.getLsbD 8

/-- A command held by the combining node: in a window of an equal source whose first command arrived at most 64 cycles before, or in a new
one. -/
def State.holdCommand (s : State) (c : Cmd) : State :=
  let q := clusterOf c.core
  let open_ := (s.cluster q).windows.find? fun w => match w.cmds.head? with
    | some f => match s.cmds.get? f with
      | some x => x.sameSource c && s.now ≤ w.opened + 64
      | none => false
    | none => false
  match open_ with
  | some w =>
    s.modCluster q fun x => { x with windows := x.windows.map fun y => if y.id = w.id then { y with cmds := y.cmds ++ [c.id] } else y }
  | none =>
    ((s.modCluster q fun x => { x with windows := x.windows ++ [{ id := s.nextTag, cmds := [c.id], opened := s.now }] }).after 66
      (.combineWindowClose q s.nextTag)).newTag

/-- A command enters its queue: its unit sees it 2 cycles later (R240). -/
def State.enterQueue (s : State) (c : Cmd) : State :=
  let joined := (s.core c.core).leases.join c.id
  let c := { c with readyAt := s.now + 2, held := c.eligible, lease := if c.unit = CmdUnit.matrix then joined.2 else 0 }
  let s := if c.unit = CmdUnit.matrix then s.modCore c.core fun x => { x with leases := joined.1 } else s
  let s := { s with cmds := s.cmds.set c.id c, nextCmd := c.id + 1 }
  if c.eligible then s.holdCommand c else s.poke c.core c.unit 2

-- ==== dispatch (R240, R241, R252) ====

/-- The handle registers of a command's fields, the unused ones h0. -/
structure AeRegs where
  hd : HReg
  ha : HReg
  hb : HReg
  hl : HReg
  sc : Reg
  xs : Bool
deriving DecidableEq, Repr

/-- The sources of a command (R44, R238): an IDLE handle waits without limit. -/
def AeRegs.sources (r : AeRegs) : List Source :=
  srcPair r.sc r.xs ++ [srcH r.hd false, srcH r.ha false, srcH r.hb false, srcH r.hl false]

/-- The eight rings of a virtual core on a core (R248, R340). -/
def State.ringsOf (s : State) (core vcore : Nat) : Tab (BitVec 256) :=
  (List.range 8).map fun i => (i, (s.core core).rings.get 0 (8 * vcore + i))

/-- The issuing strand as the checks see it. -/
def State.issuer (s : State) : Issuer :=
  { q := clusterOf s.myCore, ctxKey := contextKey s.me.id.part s.me.id.ctx, vcore := segVcore s.me.id.seg,
    rings := s.ringsOf s.myCore (segVcore s.me.id.seg) }

/-- The command of the issuing strand, captured (R240). One without a completion carries scope QUAD (R239), and so does the control word of its
record (R243, log 125). -/
def State.capturedCmd (s : State) (i : Instr) (r : AeRegs) : Cmd :=
  let t := s.src
  let pair := decide (r.sc ≠ 0)
  { id := s.nextCmd, core := s.myCore, slot := s.cur, uid := t.id.uid, part := t.id.part, ctx := t.id.ctx, asid := t.id.asid,
    priv := t.status.priv, unit := cmdUnit i, ins := i, fmt := t.fmt
    target := if pair then s.rd r.sc else 0
    control := if pair then s.rd (r.sc + 1) else 1
    hasComp := pair, hd := s.rdH r.hd, ha := s.rdH r.ha, hb := s.rdH r.hb, hl := s.rdH r.hl
    vcore := segVcore t.id.seg, strides := s.stridesOf s.issuer (s.rdH r.hl), state := .waiting, prog := [0, 0, 0, 0, 0],
    flags := 0, detail := 0, tval := 0, owed := false, spent := [], pieces := [], lease := 0, readyAt := 0, held := false,
    sent := false, group := 0, counted := false, popped := false, walked := none, walkFault := none }

/-- The scope of a command (R239). -/
def Cmd.scope (c : Cmd) : Scope := Scope.ofBits (BitVec.ofNat 3 (bitsOf c.control 0 3))

/-- A dispatch (R238-R241, R252, R270): a part-way trap that is owed for the unit comes first; a full queue waits; then the
checks; then the command exists, and the dispatch is a release at its scope. -/
def State.dispatch (s : State) (i : Instr) (r : AeRegs) : State :=
  s.operands r.sources [] false
    (match s.owedFault s.me.id.uid fun c => c.unit == cmdUnit i && s.me.status.tl == 0 with
    | some c => s.takeOwed c
    | none =>
      if 2 ≤ (s.queueOf s.myCore (cmdUnit i)).length then s.waits
      else
        let c := s.capturedCmd i r
        match s.commandFail s.issuer i c.hd c.ha c.hb c.hl (decide (r.hl ≠ 0)) (if r.sc = 0 then none else some (c.target, c.control)) with
        | some (d, o) => s.takeTrap 7 d (BitVec.ofNat 64 o)
        | none => (s.releaseMe c.scope).goOn.enterQueue c)

/-- VADD (R273). -/
def execVadd (hd ha hb hl : HReg) (sc : Reg) (xs : Bool) (s : State) : Out :=
  .next (s.dispatch (.vadd hd ha hb hl sc xs) { hd := hd, ha := ha, hb := hb, hl := hl, sc := sc, xs := xs })

/-- VSUB (R273). -/
def execVsub (hd ha hb hl : HReg) (sc : Reg) (xs : Bool) (s : State) : Out :=
  .next (s.dispatch (.vsub hd ha hb hl sc xs) { hd := hd, ha := ha, hb := hb, hl := hl, sc := sc, xs := xs })

/-- VMUL (R273). -/
def execVmul (hd ha hb hl : HReg) (sc : Reg) (xs : Bool) (s : State) : Out :=
  .next (s.dispatch (.vmul hd ha hb hl sc xs) { hd := hd, ha := ha, hb := hb, hl := hl, sc := sc, xs := xs })

/-- VFMA (R273). -/
def execVfma (hd ha hb hl : HReg) (sc : Reg) (xs : Bool) (s : State) : Out :=
  .next (s.dispatch (.vfma hd ha hb hl sc xs) { hd := hd, ha := ha, hb := hb, hl := hl, sc := sc, xs := xs })

/-- VMAX (R273). -/
def execVmax (hd ha hb hl : HReg) (sc : Reg) (xs : Bool) (s : State) : Out :=
  .next (s.dispatch (.vmax hd ha hb hl sc xs) { hd := hd, ha := ha, hb := hb, hl := hl, sc := sc, xs := xs })

/-- VMIN (R273). -/
def execVmin (hd ha hb hl : HReg) (sc : Reg) (xs : Bool) (s : State) : Out :=
  .next (s.dispatch (.vmin hd ha hb hl sc xs) { hd := hd, ha := ha, hb := hb, hl := hl, sc := sc, xs := xs })

/-- VSCALE (R273). -/
def execVscale (hd ha hb hl : HReg) (sc : Reg) (xs : Bool) (s : State) : Out :=
  .next (s.dispatch (.vscale hd ha hb hl sc xs) { hd := hd, ha := ha, hb := hb, hl := hl, sc := sc, xs := xs })

/-- VSEL (R275). -/
def execVsel (hd ha hb hl : HReg) (sc : Reg) (xs : Bool) (s : State) : Out :=
  .next (s.dispatch (.vsel hd ha hb hl sc xs) { hd := hd, ha := ha, hb := hb, hl := hl, sc := sc, xs := xs })

/-- VAND (R276). -/
def execVand (hd ha hb hl : HReg) (sc : Reg) (xs : Bool) (s : State) : Out :=
  .next (s.dispatch (.vand hd ha hb hl sc xs) { hd := hd, ha := ha, hb := hb, hl := hl, sc := sc, xs := xs })

/-- VOR (R276). -/
def execVor (hd ha hb hl : HReg) (sc : Reg) (xs : Bool) (s : State) : Out :=
  .next (s.dispatch (.vor hd ha hb hl sc xs) { hd := hd, ha := ha, hb := hb, hl := hl, sc := sc, xs := xs })

/-- VXOR (R276). -/
def execVxor (hd ha hb hl : HReg) (sc : Reg) (xs : Bool) (s : State) : Out :=
  .next (s.dispatch (.vxor hd ha hb hl sc xs) { hd := hd, ha := ha, hb := hb, hl := hl, sc := sc, xs := xs })

/-- VGATHER (R279). -/
def execVgather (hd ha hb hl : HReg) (sc : Reg) (xs : Bool) (s : State) : Out :=
  .next (s.dispatch (.vgather hd ha hb hl sc xs) { hd := hd, ha := ha, hb := hb, hl := hl, sc := sc, xs := xs })

/-- VSCATTER (R279). -/
def execVscatter (hd ha hb hl : HReg) (sc : Reg) (xs : Bool) (s : State) : Out :=
  .next (s.dispatch (.vscatter hd ha hb hl sc xs) { hd := hd, ha := ha, hb := hb, hl := hl, sc := sc, xs := xs })

/-- MMA (R282). -/
def execMma (hd ha hb hl : HReg) (sc : Reg) (xs : Bool) (s : State) : Out :=
  .next (s.dispatch (.mma hd ha hb hl sc xs) { hd := hd, ha := ha, hb := hb, hl := hl, sc := sc, xs := xs })

/-- MMAS (R282). -/
def execMmas (hd ha hb hl : HReg) (sc : Reg) (xs : Bool) (s : State) : Out :=
  .next (s.dispatch (.mmas hd ha hb hl sc xs) { hd := hd, ha := ha, hb := hb, hl := hl, sc := sc, xs := xs })

/-- CPYG (R286). -/
def execCpyg (hd ha hb hl : HReg) (sc : Reg) (xs : Bool) (s : State) : Out :=
  .next (s.dispatch (.cpyg hd ha hb hl sc xs) { hd := hd, ha := ha, hb := hb, hl := hl, sc := sc, xs := xs })

/-- CPYS (R286). -/
def execCpys (hd ha hb hl : HReg) (sc : Reg) (xs : Bool) (s : State) : Out :=
  .next (s.dispatch (.cpys hd ha hb hl sc xs) { hd := hd, ha := ha, hb := hb, hl := hl, sc := sc, xs := xs })

/-- VABS (R273). -/
def execVabs (hd ha hl : HReg) (sc : Reg) (xs : Bool) (s : State) : Out :=
  .next (s.dispatch (.vabs hd ha hl sc xs) { hd := hd, ha := ha, hb := 0, hl := hl, sc := sc, xs := xs })

/-- VNEG (R273). -/
def execVneg (hd ha hl : HReg) (sc : Reg) (xs : Bool) (s : State) : Out :=
  .next (s.dispatch (.vneg hd ha hl sc xs) { hd := hd, ha := ha, hb := 0, hl := hl, sc := sc, xs := xs })

/-- VEXP2 (R273). -/
def execVexp2 (hd ha hl : HReg) (sc : Reg) (xs : Bool) (s : State) : Out :=
  .next (s.dispatch (.vexp2 hd ha hl sc xs) { hd := hd, ha := ha, hb := 0, hl := hl, sc := sc, xs := xs })

/-- VLOG2 (R273). -/
def execVlog2 (hd ha hl : HReg) (sc : Reg) (xs : Bool) (s : State) : Out :=
  .next (s.dispatch (.vlog2 hd ha hl sc xs) { hd := hd, ha := ha, hb := 0, hl := hl, sc := sc, xs := xs })

/-- VRCP (R273). -/
def execVrcp (hd ha hl : HReg) (sc : Reg) (xs : Bool) (s : State) : Out :=
  .next (s.dispatch (.vrcp hd ha hl sc xs) { hd := hd, ha := ha, hb := 0, hl := hl, sc := sc, xs := xs })

/-- VRSQ (R273). -/
def execVrsq (hd ha hl : HReg) (sc : Reg) (xs : Bool) (s : State) : Out :=
  .next (s.dispatch (.vrsq hd ha hl sc xs) { hd := hd, ha := ha, hb := 0, hl := hl, sc := sc, xs := xs })

/-- VCVT (R273). -/
def execVcvt (hd ha hl : HReg) (sc : Reg) (xs : Bool) (s : State) : Out :=
  .next (s.dispatch (.vcvt hd ha hl sc xs) { hd := hd, ha := ha, hb := 0, hl := hl, sc := sc, xs := xs })

/-- VFILL (R277). -/
def execVfill (hd ha hl : HReg) (sc : Reg) (xs : Bool) (s : State) : Out :=
  .next (s.dispatch (.vfill hd ha hl sc xs) { hd := hd, ha := ha, hb := 0, hl := hl, sc := sc, xs := xs })

/-- VCOPY (R278). -/
def execVcopy (hd ha hl : HReg) (sc : Reg) (xs : Bool) (s : State) : Out :=
  .next (s.dispatch (.vcopy hd ha hl sc xs) { hd := hd, ha := ha, hb := 0, hl := hl, sc := sc, xs := xs })

/-- VTRANS (R278). -/
def execVtrans (hd ha hl : HReg) (sc : Reg) (xs : Bool) (s : State) : Out :=
  .next (s.dispatch (.vtrans hd ha hl sc xs) { hd := hd, ha := ha, hb := 0, hl := hl, sc := sc, xs := xs })

/-- MDRAIN (R283). -/
def execMdrain (hd ha hl : HReg) (sc : Reg) (xs : Bool) (s : State) : Out :=
  .next (s.dispatch (.mdrain hd ha hl sc xs) { hd := hd, ha := ha, hb := 0, hl := hl, sc := sc, xs := xs })

/-- MACCLD (R283). -/
def execMaccld (hd ha hl : HReg) (sc : Reg) (xs : Bool) (s : State) : Out :=
  .next (s.dispatch (.maccld hd ha hl sc xs) { hd := hd, ha := ha, hb := 0, hl := hl, sc := sc, xs := xs })

/-- CPY (R285). -/
def execCpy (hd ha hl : HReg) (sc : Reg) (xs : Bool) (s : State) : Out :=
  .next (s.dispatch (.cpy hd ha hl sc xs) { hd := hd, ha := ha, hb := 0, hl := hl, sc := sc, xs := xs })

/-- CPYR (R287). -/
def execCpyr (hd ha hl : HReg) (sc : Reg) (xs : Bool) (s : State) : Out :=
  .next (s.dispatch (.cpyr hd ha hl sc xs) { hd := hd, ha := ha, hb := 0, hl := hl, sc := sc, xs := xs })

/-- MZERO (R283). -/
def execMzero (hd hl : HReg) (sc : Reg) (xs : Bool) (s : State) : Out :=
  .next (s.dispatch (.mzero hd hl sc xs) { hd := hd, ha := 0, hb := 0, hl := hl, sc := sc, xs := xs })

/-- VCMP (R274). -/
def execVcmp (hd ha hb hl : HReg) (sc : Reg) (xs : Bool) (cc : FCond) (s : State) : Out :=
  .next (s.dispatch (.vcmp hd ha hb hl sc xs cc) { hd := hd, ha := ha, hb := hb, hl := hl, sc := sc, xs := xs })

/-- VRED (R280). -/
def execVred (hd ha hl : HReg) (sc : Reg) (xs : Bool) (op : RedKind) (s : State) : Out :=
  .next (s.dispatch (.vred hd ha hl sc xs op) { hd := hd, ha := ha, hb := 0, hl := hl, sc := sc, xs := xs })

/-- VSHIFT (R276). -/
def execVshift (hd ha hb hl : HReg) (sc : Reg) (xs : Bool) (k : ShiftKind) (s : State) : Out :=
  .next (s.dispatch (.vshift hd ha hb hl sc xs k) { hd := hd, ha := ha, hb := hb, hl := hl, sc := sc, xs := xs })

end Sys2Proof.Machine
end

