-- ==== Sys2Proof/Machine/EngineRun.lean ====
section
/-! DEFINITION. A command as it runs: the addresses of an iteration (R242, R260), its reads and writes, the bodies of the
vector, matrix and copy commands (R271-R287), and what an iteration commits. -/

namespace Sys2Proof.Machine

-- ==== the progress index (R242) ====

/-- Is every iteration committed? -/
def Cmd.done (c : Cmd) : Bool := c.prog == [0, 0, 0, 0, (tripsOf c.hl).getD 4 1]

/-- The index one step further from level 0 up; past the last iteration level 4 is at its trip count. -/
def stepIndex : List Nat → List Nat → List Nat
  | [i], [_] => [i + 1]
  | i :: is, t :: ts => if i + 1 < t then (i + 1) :: is else 0 :: stepIndex is ts
  | is, _ => is

/-- The number of an iteration, counted from 0. -/
def linearIndex : List Nat → List Nat → Nat
  | i :: is, t :: ts => i + t * linearIndex is ts
  | _, _ => 0

/-- The number of the running iteration. -/
def Cmd.index (c : Cmd) : Nat := linearIndex c.prog (tripsOf c.hl)

/-- The displacement of operand `o` in an iteration (R242). -/
def Cmd.offsetOf (c : Cmd) (prog : List Nat) (o : Nat) : Int :=
  (List.range 5).foldl (fun a l => a + (prog.getD l 0 : Nat) * strideOf c.strides l o) 0

/-- The image of operand `o`. -/
def Cmd.image (c : Cmd) (o : Nat) : HandleImage := if o = 0 then c.hd else if o = 1 then c.ha else c.hb

/-- How a command computes: FMT captured at dispatch, CID[10:0] of its core; INT32 elements of AOP 0x30 commands read through a
rounding to FP32 (R257, R273). -/
def Cmd.mode (c : Cmd) : Mode :=
  { rnd := fmtRnd c.fmt, sat := fmtSat c.fmt, daz := fmtDaz c.fmt, core := c.core % 2 ^ 11
    conv := match c.ins with
      | .vadd .. | .vsub .. | .vmul .. | .vfma .. | .vmax .. | .vmin .. | .vabs .. | .vneg .. | .vexp2 .. | .vlog2 .. | .vrcp ..
      | .vrsq .. | .vcvt .. | .vscale .. => true
      | _ => false }

-- ==== what may stop an iteration ====

/-- Why an iteration does not complete now: a part-way fault with its detail and TVAL (R252); it must wait; a walk for an address is needed
(R323); a FILLING granule holds its read, a consuming one or not (R196); or a piece of another device is needed (R390). -/
inductive Halt
  | fault (detail : Nat) (tval : Word)
  | wait
  | walk (va : Word)
  | hold (key : Nat) (consume : Bool)
  | fetch (dev lpa size : Nat) (va : Word)
deriving DecidableEq, Repr

/-- A command's accesses are those of its core under the ASID and the privilege captured at dispatch (R325). -/
def Cmd.who (c : Cmd) : Who := { core := c.core, part := c.part, asid := c.asid, priv := c.priv }

/-- The place of a local address of a command, whose explicit CORE is resolved at the time of the access (R269, R339). -/
def State.cmdLocal (s : State) (c : Cmd) (a n : Nat) : Except Halt (Nat × Nat) :=
  let bad : Except Halt (Nat × Nat) := .error (.fault 19 (BitVec.ofNat 64 a))
  match s.localRegion (clusterOf c.core) (contextKey c.part c.ctx) a with
  | none => bad
  | some (core, base, limit) =>
    if 2 ^ 27 ≤ a ∨ 24 ≤ a / 2 ^ 22 % 32 ∨ a / 2 ^ 20 % 4 = 3 ∨ limit < a % 2 ^ 20 + n then bad else .ok (core, base + a % 2 ^ 20)

/-- A part-way fault of a global access: 16 for class 4, 17 for class 3 (R252). -/
def haltOf (e : TrapInfo) : Halt := .fault (if e.cls = 4 then 16 else 17) e.tval

/-- A global access of a command, checked. A miss of both its TLBs waits for a walk of the page, whose failure is its own (R323, R325). -/
def State.cmdAccess (s : State) (c : Cmd) (k : AccKind) (n : Nat) (va : Word) : State × Except Halt Acc :=
  let hit (l : List TlbEntry) : Bool := l.any fun e => e.hits c.part c.asid va
  let miss := !va.getLsbD 63 && aligned va.toNat n && !hit (s.core c.core).tlb && !hit (s.cluster (clusterOf c.core)).tlb
  let asked := c.walked.any fun w => w.toNat / 65536 == va.toNat / 65536
  if miss && !asked then (s, .error (.walk va))
  else if miss && s.walks.any fun w => w.die == dieOf c.core && w.part == c.part && w.asid == c.asid && w.page == va.toNat / 65536 then
    (s, .error .wait)
  else if miss && c.walkFault.isSome then (s, .error (.fault 16 va))
  else match s.access c.who k n va with
    | (s, .error e) => (s, .error (haltOf e))
    | (s, .ok a) => (s, .ok a)

/-- A consuming fetch of the granules that a range meets (R235): each is read whole and its count falls once per command; an
ORDINARY granule ends the command, a FILLING one holds it. -/
def State.consume (s : State) (c : Cmd) (key : Nat) (va : Word) : State × Cmd × Except Halt Unit :=
  let g := key / 2048 * 2048
  if (c.spent.get? g).isSome then (s, c, .ok ())
  else match s.melts.find? fun m => m.key == g with
    | none => (s, c, .error (.fault 18 va))
    | some m =>
      if !m.live then (s, c, .error (.hold g true))
      else if s.poisoned g 2048 then (s, c, .error (.fault 21 va))
      else
        let l := s.mem.readBytes (meltKey g) 2048
        let n := m.count - 1
        let s := if n = 0 then s.meltGone g
          else { s with melts := s.melts.map fun x => if x.key = g then { x with count := n } else x }
        (s, { c with spent := c.spent.set g l }, .ok ())

/-- The key under which a command keeps a granule that it has consumed at another device (R235, R390). -/
def remoteGranule (dev lpa : Nat) : Nat := 2 ^ 70 + dev * 2 ^ 49 + lpa / 2048 * 2048

/-- `n` bytes of a GLOBAL operand. -/
def State.cmdGlobal (s : State) (c : Cmd) (consume : Bool) (va n : Nat) : State × Cmd × Except Halt (List Byte) :=
  let w := BitVec.ofNat 64 va
  match s.cmdAccess c .load n w with
  | (s, .error h) => (s, c, .error h)
  | (s, .ok a) =>
    match a.target with
    | .hbm lpa =>
      let key := hbmKey c.part lpa
      let given := c.pieces.get? (s.plat.device * 2 ^ 49 + lpa / 64 * 64)
      if given.isSome && !consume then (s, c, .ok (((given.getD []).drop (lpa % 64)).take n))
      else if consume then
        match s.consume c key w with
        | (s, c, .error h) => (s, c, .error h)
        | (s, c, .ok _) => (s, c, .ok (((c.spent.get [] (key / 2048 * 2048)).drop (key % 2048)).take n))
      else if s.poisoned key n then (s, c, .error (.fault 21 w))
      else if (s.meltAt key n).any fun m => !m.live then (s, c, .error (.hold (key / 2048 * 2048) false))
      else
        let x := s.homeRead c.core key n
        (x.1, c, .ok x.2)
    | .host port x =>
      (s, c, if consume then .error (.fault 18 w) else if s.poisoned (hostKey port x) n then .error (.fault 21 w)
        else .ok (s.mem.readBytes (hostKey port x) n))
    | .control lpa =>
      match s.readControlBytes c.who lpa n with
      | .error _ => (s, c, .error (.fault 17 w))
      | .ok v => (s, c, .ok (wordBytes n v))
    | .remote dev lpa =>
      if consume then
        match c.spent.get? (remoteGranule dev lpa) with
        | some l => (s, c, .ok ((l.drop (lpa % 2048)).take n))
        | none => (s, c, .error (.fetch dev (lpa / 2048 * 2048) 2048 w))
      else
        match c.pieces.get? (dev * 2 ^ 49 + lpa / 64 * 64) with
        | some l => (s, c, .ok ((l.drop (lpa % 64)).take n))
        | none => (s, c, .error (.fetch dev (lpa / 64 * 64) 64 w))

/-- `n` bytes of an operand at an address. -/
def State.cmdRead (s : State) (c : Cmd) (glob consume : Bool) (a n : Nat) : State × Cmd × Except Halt (List Byte) :=
  if glob then s.cmdGlobal c consume (a % 2 ^ 64) n
  else match s.cmdLocal c (a % 2 ^ 32) n with
    | .error h => (s, c, .error h)
    | .ok (core, at_) =>
      if s.poisoned (poolKey core at_) n then (s, c, .error (.fault 21 (BitVec.ofNat 64 (a % 2 ^ 32))))
      else (s, c, .ok (s.readPool core at_ n))

/-- A number of `n` bytes at an address; one that the command's shared fetch has brought is not read again, but the command's own access must be
allowed (R251, R325). -/
def State.cmdNat (s : State) (c : Cmd) (glob consume : Bool) (a n : Nat) : State × Cmd × Except Halt Nat :=
  let shared := if glob then s.merged.get? c.group else none
  match shared.bind fun m => m.read.get? a with
  | some v => match s.cmdAccess c .load n (BitVec.ofNat 64 a) with
    | (s, .error h) => (s, c, .error h)
    | (s, .ok _) => (s, c, .ok v)
  | none => match s.cmdRead c glob consume a n with
    | (s, c, .error h) => (s, c, .error h)
    | (s, c, .ok l) =>
      let v := leNat l
      (match shared with
        | some m => { s with merged := s.merged.set c.group { m with read := m.read.set a v } }
        | none => s, c, .ok v)

/-- Numbers of `n` bytes at addresses, in their order. -/
def State.cmdReads (s : State) (c : Cmd) (glob consume : Bool) (n : Nat) : List Nat → State × Cmd × Except Halt (List Nat)
  | [] => (s, c, .ok [])
  | a :: r =>
    match s.cmdNat c glob consume a n with
    | (s, c, .error h) => (s, c, .error h)
    | (s, c, .ok v) =>
      match State.cmdReads s c glob consume n r with
      | (s, c, .error h) => (s, c, .error h)
      | (s, c, .ok ls) => (s, c, .ok (v :: ls))

-- ==== the operands of one iteration ====

/-- An operand of the running iteration: its moved base (R242), the address of its block scales (R260), and the codes read:
one for each element, or one for each byte of N4X, by rows; and the scale bytes. -/
structure Tile where
  o     : Oper
  base  : Nat
  scale : Nat
  down  : Bool
  codes : List Nat
  bs    : List Nat
deriving DecidableEq, Repr

/-- Elements of a row as they are read: N4X by bytes. -/
def Oper.units (o : Oper) : Nat := if o.fmt = 5 then (o.cols + 1) / 2 else o.cols

/-- The address of unit (r, u) of a tile (R255). -/
def Tile.unitAt (t : Tile) (r u : Nat) : Nat := t.base + r * t.o.stride + u * elemBytes t.o.fmt

/-- The addresses of a tile's units by rows. -/
def Tile.addresses (t : Tile) : List Nat :=
  (List.range t.o.rows).flatMap fun r => (List.range t.o.units).map fun u => t.unitAt r u

/-- The unit of element (r, c) as read. -/
def Tile.raw (t : Tile) (r c : Nat) : Nat := t.codes.getD (r * t.o.units + (if t.o.fmt = 5 then c / 2 else c)) 0

/-- The code of element (r, c). -/
def Tile.code (t : Tile) (r c : Nat) : Nat :=
  if t.o.fmt = 5 then t.raw r c / (if c % 2 = 1 then 16 else 1) % 16 else t.raw r c

/-- Index of the scale byte of element (r, c) (R260). -/
def Tile.scaleIndex (t : Tile) (r c : Nat) : Nat :=
  if t.down then r / 32 * t.o.cols + c else r * ((t.o.cols + 31) / 32) + c / 32

def Tile.scaleOf (t : Tile) (r c : Nat) : Option Nat := if t.o.scaled then some (t.bs.getD (t.scaleIndex r c) 0) else none

/-- Element (r, c) of a tile as read (R259, R261). -/
def Tile.elem (t : Tile) (m : Mode) (r c : Nat) : Elem :=
  readElem m t.o.fmt (t.raw r c) (c % 2 == 1) (t.scaleOf r c) (tscale t.o.ts)

/-- The same with the broadcasts of R272. -/
def Tile.cast (t : Tile) (m : Mode) (r c : Nat) : Elem :=
  t.elem m (if t.o.rows = 1 then 0 else r) (if t.o.cols = 1 then 0 else c)

def Tile.castCode (t : Tile) (r c : Nat) : Nat :=
  t.code (if t.o.rows = 1 then 0 else r) (if t.o.cols = 1 then 0 else c)

/-- Tiles of a ring that earlier unfinished commands of the core have reserved, and how many one iteration of a command reads
(R249). -/
def ringUses (rid : Nat) (c : Cmd) : Nat :=
  let use (h : HandleImage) : Nat := if hKind h = 2 ∧ hbits h 16 4 = rid then 1 else 0
  match c.ins with
  | .mma .. | .mmas .. => use c.ha + use c.hb
  | _ => 0

def tripCount (hl : HandleImage) : Nat := (tripsOf hl).foldl (· * ·) 1

/-- The number, from HEAD, of the ring tile that operand `o` of a matrix command reads in its running iteration (R249). -/
def State.ringTile (s : State) (c : Cmd) (o rid : Nat) : Nat :=
  let before := (s.queueOf c.core .matrix).filter fun x => x.id < c.id && x.vcore == c.vcore && decide (x.state ≠ .finished) && !x.popped
  before.foldl (fun n x => n + ringUses rid x * tripCount x.hl) 0 + c.index * ringUses rid c
    + (if o = 2 ∧ hKind c.ha = 2 ∧ hbits c.ha 16 4 = rid then 1 else 0)

/-- Tiles that a ring holds (R248). -/
def Oper.filled (o : Oper) : Nat := (o.tail + 65536 - o.head) % 65536

/-- The local address of slot `j` of a ring. -/
def Oper.slotAddr (o : Oper) (j : Nat) : Nat := o.addr + j % 65536 % o.slots * o.slotB * 64

/-- Operand `o` of the running iteration, not yet read; a ring slot that is not filled, or not free, makes it wait (R249,
R272). Copy commands that fill one ring side by side take its slots in the order in which their iterations commit (DESIGN CHOICE, log 149). -/
def State.tileOf (s : State) (c : Cmd) (o : Nat) : Except Halt Tile :=
  let x := operOf (s.ringsOf c.core c.vcore) (c.image o)
  let wrap : Nat := if x.kind = 3 then 2 ^ 64 else 2 ^ 32
  let first := if x.kind = 3 then x.addr else withCore c.vcore x.addr
  let base := (((first : Nat) + c.offsetOf c.prog o) % (wrap : Nat)).toNat
  let scale := if x.kind = 3 then base + x.rows * x.stride else withCore c.vcore x.scaleAddr
  let t (b : Nat) : Tile := { o := x, base := b, scale := scale, down := kDown c.ins o, codes := [], bs := [] }
  if x.kind ≠ 2 then .ok (t base)
  else
    let at_ (j : Nat) : Nat := withCore c.vcore (x.slotAddr j)
    if o = 0 then (if x.slots ≤ x.filled then .error .wait else .ok (t (at_ x.tail)))
    else if c.unit = .matrix then
      let k := s.ringTile c o x.rid
      if x.filled ≤ k then .error .wait else .ok (t (at_ (x.head + k)))
    else if x.filled = 0 then .error .wait
    else .ok (t (at_ x.head))

/-- Are the block scales of operand `o` read? A command on codes reads them of none but a count or an index (R276, R278, R279); a copy moves codes
alone, but for CPY between two operands that carry scales (R285, R286). -/
def Cmd.readsScales (c : Cmd) (o : Nat) (x : Oper) : Bool :=
  x.scaled && match c.ins with
    | .vand .. | .vor .. | .vxor .. | .vcopy .. | .vtrans .. => false
    | .vshift .. | .vgather .. | .vscatter .. => o == 2
    | .cpy .. => o == 1 && (operOf [] c.hd).scaled
    | .cpyg .. | .cpys .. | .cpyr .. => false
    | _ => true

/-- The codes and the block scales of a tile read (R255, R260). -/
def State.loadTile (s : State) (c : Cmd) (o : Nat) (t : Tile) (codes : Bool) : State × Cmd × Except Halt Tile :=
  let glob := t.o.kind == 3
  let consume := t.o.consume && o != 0
  match s.cmdReads c glob consume (elemBytes t.o.fmt) (if codes then t.addresses else []) with
  | (s, c, .error h) => (s, c, .error h)
  | (s, c, .ok l) =>
    let bytes := if c.readsScales o t.o then (List.range (t.o.scaleExtent t.down)).map (t.scale + ·) else []
    match s.cmdReads c glob consume 1 bytes with
    | (s, c, .error h) => (s, c, .error h)
    | (s, c, .ok b) => (s, c, .ok { t with codes := l, bs := b })

/-- The tiles of D, A and B that an iteration reads. -/
structure Tiles where
  d : Tile
  a : Tile
  b : Tile
deriving DecidableEq, Repr

def Tile.none : Tile := { o := Oper.blank, base := 0, scale := 0, down := false, codes := [], bs := [] }

/-- Does an iteration read D's elements (R273, R275, R282)? -/
def readsD : Instr → Bool
  | .vfma .. | .vsel .. | .mma .. | .mmas .. => true
  | _ => false

/-- One operand of an iteration, if the command uses it. -/
def State.gather (s : State) (c : Cmd) (o : Nat) (used codes : Bool) : State × Cmd × Except Halt Tile :=
  if !used then (s, c, .ok Tile.none)
  else match s.tileOf c o with
    | .error h => (s, c, .error h)
    | .ok t => s.loadTile c o t codes

/-- A GLOBAL table that rows are copied to or from by index is not read whole (R286). -/
def wholeRead (i : Instr) (o : Nat) : Bool :=
  match i, o with
  | .cpyg .., 1 => false
  | i, 0 => readsD i
  | _, _ => true

/-- The operands of an iteration: A, then B, then D. -/
def State.gatherAll (s : State) (c : Cmd) : State × Cmd × Except Halt Tiles :=
  let fill := hKind c.ha == 0
  match s.gather c 1 (usesHa c.ins && !fill) (wholeRead c.ins 1) with
  | (s, c, .error h) => (s, c, .error h)
  | (s, c, .ok a) =>
    match s.gather c 2 (usesHb c.ins) (wholeRead c.ins 2) with
    | (s, c, .error h) => (s, c, .error h)
    | (s, c, .ok b) =>
      match s.gather c 0 true (wholeRead c.ins 0) with
      | (s, c, .error h) => (s, c, .error h)
      | (s, c, .ok d) => (s, c, .ok { d := d, a := a, b := b })

-- ==== the bodies (R273-R287) ====

/-- What an iteration is to write: a code for each element (r, c) of D in order, its flags, and the row marks that the tile
has after it. -/
structure Effect where
  codes : List (Nat × Nat × Nat)
  fl    : EFlags
  marks : Option (List (Option (Nat × Nat)))
deriving DecidableEq, Repr

/-- The places of a grid, ascending. -/
def grid (rows cols : Nat) : List (Nat × Nat) := (List.range rows).flatMap fun r => (List.range cols).map fun c => (r, c)

/-- Codes for each place of D, with the flags of all. -/
def overGrid (rows cols : Nat) (f : Nat → Nat → Nat × EFlags) : Effect :=
  let l := (grid rows cols).map fun p => (p, f p.1 p.2)
  { codes := l.map fun x => (x.1.1, x.1.2, x.2.1), fl := l.foldl (fun a x => a.or x.2.2) EFlags.none, marks := none }

/-- A value written to D's element (r, c) (R266). -/
def Tile.write (t : Tile) (m : Mode) (r c : Nat) (v : FVal × EFlags) : Nat × EFlags :=
  let w := writeElem m t.o.fmt v.1 (t.scaleOf r c) (tscale t.o.ts)
  (w.1, v.2.or w.2)

/-- The elementwise commands (R273). -/
def laneBody (m : Mode) (i : Instr) (t : Tiles) : Effect :=
  overGrid t.d.o.rows t.d.o.cols fun r c =>
    let a := t.a.cast m r c
    let b := if usesHb i then t.b.cast m r c else Elem.zero
    let d := if readsD i then t.d.elem m r c else Elem.zero
    let v := laneOp m i a b d
    t.d.write m r c (v.1, ((a.fl.or b.fl).or d.fl).or v.2)

/-- VCMP (R274): 1 or 0; of the flags only denormal flushed. -/
def vcmpBody (m : Mode) (cc : FCond) (t : Tiles) : Effect :=
  overGrid t.d.o.rows t.d.o.cols fun r c =>
    let a := t.a.cast m r c
    let b := t.b.cast m r c
    let w := t.d.write m r c (.num (Exact.ofNat (if fcondHolds cc a.v b.v then 1 else 0)), EFlags.none)
    (w.1, { EFlags.none with flushed := a.fl.flushed || b.fl.flushed })

/-- VSEL (R275). -/
def vselBody (m : Mode) (t : Tiles) : Effect :=
  overGrid t.d.o.rows t.d.o.cols fun r c =>
    let e := if t.d.code r c ≠ 0 then t.a.cast m r c else t.b.cast m r c
    let v := laneResult m [e.v] (some e.v)
    t.d.write m r c (v.1, e.fl.or v.2)

/-- The commands that act on codes (R276, R278). -/
def codeBody (t : Tiles) (f : Nat → Nat → Nat) : Effect := overGrid t.d.o.rows t.d.o.cols fun r c => (f r c, EFlags.none)

/-- An index or a shift count from an element (R276, R279): none for a special one. -/
def Elem.count (e : Elem) : Option Int := if e.special then none else e.v.trunc

/-- An index below `n`. -/
def Elem.index (e : Elem) (n : Nat) : Option Nat :=
  match e.count with
  | some i => if 0 ≤ i ∧ i < n then some i.toNat else none
  | none => none

/-- VGATHER (R279). -/
def vgatherBody (m : Mode) (t : Tiles) : Effect :=
  overGrid t.d.o.rows t.d.o.cols fun r c =>
    match (t.b.cast m r c).index (t.a.o.rows * t.a.o.cols) with
    | some k => (t.a.code (k / t.a.o.cols) (k % t.a.o.cols), EFlags.none)
    | none => (0, flInvalid)

/-- VSCATTER (R279): the later of two equal indexes stands. -/
def vscatterBody (m : Mode) (t : Tiles) : Effect :=
  let l := (grid t.a.o.rows t.a.o.cols).map fun p => (p, (t.b.cast m p.1 p.2).index (t.d.o.rows * t.d.o.cols))
  { codes := l.filterMap fun x => x.2.map fun k => (k / t.d.o.cols, k % t.d.o.cols, t.a.code x.1.1 x.1.2)
    fl := if l.all fun x => x.2.isSome then EFlags.none else flInvalid, marks := none }

/-- VRED (R265, R280). -/
def vredBody (m : Mode) (op : RedKind) (t : Tiles) : Effect :=
  overGrid t.d.o.rows 1 fun r _ =>
    let es := (List.range t.a.o.cols).map fun c => t.a.elem m r c
    let v := reduceRow m op (es.map (·.v))
    t.d.write m r 0 (v.1, es.foldl (fun a e => a.or e.fl) v.2)

/-- The row marks of a core's tile at a pool offset. -/
def State.marksOf (s : State) (core at_ : Nat) : List (Option (Nat × Nat)) :=
  (List.range 16).map fun r => (s.core core).marks.get? (at_ / 1024 * 16 + r)

/-- MMA and MMAS (R262, R263, R282). `k0` is the k index of the iteration's first element. -/
def mmaBody (m : Mode) (k0 : Nat) (marks : List (Option (Nat × Nat))) (t : Tiles) : Effect :=
  let k := t.a.o.cols
  let w := kWidth t.a.o.fmt
  let rows := (List.range 16).map fun r => (List.range k).map fun c => t.a.elem m r c
  let cols := (List.range 16).map fun c => (List.range k).map fun r => t.b.elem m r c
  let fl := (rows ++ cols).foldl (fun a l => l.foldl (fun a e => a.or e.fl) a) EFlags.none
  let firstOf (l : List Elem) : Option (Nat × Nat) :=
    ((List.range l.length).zip l).foldl (fun a p => if p.2.special then markMin a (some (m.core, (k0 + p.1) % 2048)) else a) none
  let all := cols.foldl (fun a l => markMin a (firstOf l)) none
  let out := overGrid 16 16 fun r c =>
    kSteps w (k / w) (t.d.code r c) ((rows.getD r []).map Elem.forArray) ((cols.getD c []).map Elem.forArray)
  { codes := out.codes
    fl := (out.fl.or fl).array
    marks := some ((List.range 16).map fun r => markMin (markMin (marks.getD r none) (firstOf (rows.getD r []))) all) }

/-- MDRAIN (R263, R283): a marked row drains as the payload NaN of its mark. -/
def mdrainBody (m : Mode) (marks : List (Option (Nat × Nat))) (t : Tiles) : Effect :=
  overGrid 16 16 fun r c =>
    match marks.getD r none with
    | some k =>
      let w := t.d.write m r c (.nan (payloadNaN k.1 k.2), EFlags.none)
      (w.1, { w.2 with nan := true })
    | none =>
      let e := t.a.elem { m with daz := false } r c
      t.d.write m r c (e.v, e.fl)

/-- MACCLD (R262, R263, R283): each value rounded once to FP32, to nearest even, without DAZ; a special one is stored as +0. -/
def maccldBody (m : Mode) (t : Tiles) : Effect :=
  let e (r c : Nat) : Elem := t.a.elem { m with daz := false } r c
  let out := overGrid 16 16 fun r c =>
    if (e r c).special then (0, EFlags.none)
    else let q := (e r c).v.to32 0; (q.code, EFlags.ofRounded q)
  { out with marks := some ((List.range 16).map fun r =>
      if (List.range 16).any fun c => (e r c).special then some (m.core, 0x7ff) else none) }

/-- What an iteration of a vector or matrix command writes. -/
def State.computeBody (s : State) (c : Cmd) (t : Tiles) : Effect :=
  let m := c.mode
  let marks (o : Nat) (x : Tile) : List (Option (Nat × Nat)) :=
    match s.cmdLocal c (x.base % 2 ^ 32) 1 with
    | .ok (core, at_) => if accOperand c.ins o then s.marksOf core at_ else []
    | .error _ => []
  match c.ins with
  | .vcmp _ _ _ _ _ _ cc => vcmpBody m cc t
  | .vsel .. => vselBody m t
  | .vand .. => codeBody t fun r k => t.a.castCode r k &&& t.b.castCode r k
  | .vor .. => codeBody t fun r k => t.a.castCode r k ||| t.b.castCode r k
  | .vxor .. => codeBody t fun r k => t.a.castCode r k ^^^ t.b.castCode r k
  | .vshift _ _ _ _ _ _ k => codeBody t fun r x => shiftCode k (elemBits t.d.o.fmt) (t.a.castCode r x) (t.b.cast m r x).count
  | .vfill .. => overGrid t.d.o.rows t.d.o.cols fun r k => t.d.write m r k (fp32.value (hbits c.ha 16 32), EFlags.none)
  | .vcopy .. => codeBody t fun r k => t.a.castCode r k
  | .vtrans .. => codeBody t fun r k => t.a.code k r
  | .vgather .. => vgatherBody m t
  | .vscatter .. => vscatterBody m t
  | .vred _ _ _ _ _ op => vredBody m op t
  | .mma .. | .mmas .. => mmaBody m (c.index * t.a.o.cols) (marks 0 t.d) t
  | .mzero .. => { codeBody t (fun _ _ => 0) with marks := some (List.replicate 16 none) }
  | .mdrain .. => mdrainBody m (marks 1 t.a) t
  | .maccld .. => maccldBody m t
  | _ => laneBody m c.ins t

-- ==== copies (R284-R286) ====

/-- Rows of a table by index (R286): the codes of A's row for each row of D, read as they are named. -/
def State.gatherRows (s : State) (c : Cmd) (t : Tiles) : List Nat → State × Cmd × Except Halt (List (Nat × Nat × Nat) × Bool)
  | [] => (s, c, .ok ([], false))
  | r :: rest =>
    let row := (t.b.elem c.mode r 0).index t.a.o.rows
    let addrs := match row with
      | some k => (List.range t.a.o.units).map fun u => t.a.unitAt k u
      | none => []
    match s.cmdReads c (t.a.o.kind == 3) t.a.o.consume (elemBytes t.a.o.fmt) addrs with
    | (s, c, .error h) => (s, c, .error h)
    | (s, c, .ok l) =>
      let x : Tile := { t.a with codes := l }
      let codes := (List.range t.d.o.cols).map fun k => (r, k, if row.isSome then x.code 0 k else 0)
      match State.gatherRows s c t rest with
      | (s, c, .error h) => (s, c, .error h)
      | (s, c, .ok (ls, bad)) => (s, c, .ok (codes ++ ls, bad || row.isNone))

/-- What an iteration of a copy command writes, and its flags. -/
def State.copyBody (s : State) (c : Cmd) (t : Tiles) : State × Cmd × Except Halt Effect :=
  match c.ins with
  | .cpyg .. =>
    match s.gatherRows c t (List.range t.d.o.rows) with
    | (s, c, .error h) => (s, c, .error h)
    | (s, c, .ok (l, bad)) => (s, c, .ok { codes := l, fl := if bad then flInvalid else EFlags.none, marks := none })
  | .cpys .. =>
    let rows := (List.range t.a.o.rows).map fun r => (r, (t.b.elem c.mode r 0).index t.d.o.rows)
    let codes := rows.flatMap fun p => match p.2 with
      | some k => (List.range t.d.o.cols).map fun x => (k, x, t.a.code p.1 x)
      | none => []
    (s, c, .ok { codes := codes, fl := if rows.all fun p => p.2.isSome then EFlags.none else flInvalid, marks := none })
  | _ => (s, c, .ok (codeBody t fun r k => t.a.code r k))

-- ==== what an iteration writes ====

/-- A write of an iteration: to a pool, or to global memory with where it leads. -/
inductive Write
  | pool (core at_ : Nat) (l : List Byte)
  | glob (va : Word) (a : Acc) (l : List Byte)
deriving DecidableEq, Repr

/-- The bytes of D that the codes make, by address: N4X by whole bytes, a partner nibble that is not written as 0 (R266). -/
def Tile.bytesFor (t : Tile) (codes : List (Nat × Nat × Nat)) : List (Nat × List Byte) :=
  if t.o.fmt = 5 then
    let put (acc : Tab Nat) (x : Nat × Nat × Nat) : Tab Nat :=
      let a := t.unitAt x.1 (x.2.1 / 2)
      let old := acc.get 0 a
      let k := if x.2.1 % 2 = 1 then 16 else 1
      acc.set a (old - old / k % 16 * k + x.2.2 % 16 * k)
    List.map (fun p : Nat × Nat => (p.1, leBytes 1 p.2)) (codes.foldl put [])
  else codes.map fun x => (t.unitAt x.1 x.2.1, leBytes (elemBytes t.o.fmt) x.2.2)

/-- One write of an iteration, checked: a part-way fault where the address cannot be written (R252), 16 + 2 for a granule that
is FILLING or LIVE. -/
def State.checkWrite (s : State) (c : Cmd) (glob : Bool) (a : Nat) (l : List Byte) : State × Except Halt Write :=
  if !glob then match s.cmdLocal c (a % 2 ^ 32) l.length with
    | .error h => (s, .error h)
    | .ok (core, at_) => (s, .ok (.pool core at_ l))
  else
    let va := BitVec.ofNat 64 a
    match s.cmdAccess c .store l.length va with
    | (s, .error h) => (s, .error h)
    | (s, .ok x) => match x.target with
      | .hbm lpa => if (s.meltAt (hbmKey c.part lpa) l.length).isSome then (s, .error (.fault 18 va)) else (s, .ok (.glob va x l))
      | .control lpa => match s.writeControlOk c.who lpa l.length (leWord l) with
        | .error _ => (s, .error (.fault 17 va))
        | .ok _ => (s, .ok (.glob va x l))
      | _ => (s, .ok (.glob va x l))

/-- All writes of an iteration, checked in order. -/
def State.checkWrites (s : State) (c : Cmd) (glob : Bool) : List (Nat × List Byte) → State × Except Halt (List Write)
  | [] => (s, .ok [])
  | p :: r =>
    match s.checkWrite c glob p.1 p.2 with
    | (s, .error h) => (s, .error h)
    | (s, .ok w) =>
      match State.checkWrites s c glob r with
      | (s, .error h) => (s, .error h)
      | (s, .ok ws) => (s, .ok (w :: ws))

/-- A request of a command to another device (R390). -/
def State.cmdRequest (s : State) (c : Cmd) (va : Word) (f : Flit) : State := s.sendRequest c.core 0 c.id engineKind va f

/-- A write of an iteration performed. -/
def State.performWrite (s : State) (c : Cmd) : Write → State
  | .pool core at_ l => s.storePool c.core core at_ l
  | .glob va a l =>
    match a.target with
    | .hbm lpa => s.writeHome c.core (hbmKey c.part lpa) l
    | .host port x => s.writeHome c.core (hostKey port x) l
    | .control lpa => let ev := s.controlEvent c.who lpa l.length (leWord l); s.afterArg 0 ev.1 ev.2
    | .remote dev lpa =>
      s.cmdRequest c va { blankFlit .store dev c.part (BitVec.ofNat 64 lpa) with size := l.length, value := leWord l, data := l }

/-- The granules of a melt destination (R250, R285): none may be without the attribute, FILLING or LIVE. -/
def State.checkGranules (s : State) (c : Cmd) : List Nat → State × Except Halt (List Nat)
  | [] => (s, .ok [])
  | a :: r =>
    let va := BitVec.ofNat 64 a
    match s.cmdAccess c .store 1 va with
    | (s, .error h) => (s, .error h)
    | (s, .ok x) => match x.target, x.melt with
      | .hbm lpa, true =>
        if (s.meltAt (hbmKey c.part lpa) 2048).isSome then (s, .error (.fault 18 va))
        else match State.checkGranules s c r with
          | (s, .error h) => (s, .error h)
          | (s, .ok ks) => (s, .ok (hbmKey c.part lpa :: ks))
      | _, _ => (s, .error (.fault 18 va))

/-- Room for the fills of granules in their home slices, in turn (R196). -/
def State.fillRooms (s : State) : List Nat → State × Bool
  | [] => (s, true)
  | k :: r => match s.fillRoom k with
    | (s, false) => (s, false)
    | (s, true) => s.fillRooms r

/-- The bytes of a dense tile in address order. -/
def denseBytes (l : List (Nat × List Byte)) : List Byte := (l.map (·.2)).flatten

/-- The writes of an iteration are committed, or what stops it (R242, R266, R285). -/
def State.commitCodes (s : State) (c : Cmd) (t : Tile) (e : Effect) (scales : List (Nat × List Byte)) : State × Except Halt Unit :=
  let glob := t.o.kind == 3
  let bytes := t.bytesFor e.codes
  if glob && t.o.mcount != 0 then
    match s.checkGranules c ((List.range (t.o.rows * t.o.stride / 2048)).map fun i => t.base + 2048 * i) with
    | (s, .error h) => (s, .error h)
    | (s, .ok ks) => match s.checkWrites c glob scales, s.fillRooms ks with
      | (s, .error h), _ => (s, .error h)
      | _, (s, false) => (s, .error .wait)
      | (_, .ok ws), (s, true) =>
        let all := denseBytes bytes
        let fill (s : State) (p : Nat × Nat) : State :=
          s.fillAtHome p.1 (BitVec.ofNat 8 t.o.mcount) ((all.drop (2048 * p.2)).take 2048) c.part c.ctx 0 none
        (ws.foldl (fun s w => s.performWrite c w) ((ks.zip (List.range ks.length)).foldl fill s), .ok ())
  else
    match s.checkWrites c glob (bytes ++ scales) with
    | (s, .error h) => (s, .error h)
    | (s, .ok ws) =>
      let s := ws.foldl (fun s w => s.performWrite c w) s
      match e.marks, s.cmdLocal c (t.base % 2 ^ 32) 1 with
      | some ms, .ok (core, at_) =>
        let put (m : Tab (Nat × Nat)) (p : Nat × Option (Nat × Nat)) : Tab (Nat × Nat) :=
          match p.2 with
          | some v => m.set (at_ / 1024 * 16 + p.1) v
          | none => m.del (at_ / 1024 * 16 + p.1)
        (s.modCore core fun x => { x with marks := ((List.range 16).zip ms).foldl put x.marks }, .ok ())
      | _, _ => (s, .ok ())

/-- The scale bytes that CPY copies along with the codes, when both operands carry block scales (R285). -/
def copiedScales (i : Instr) (t : Tiles) : List (Nat × List Byte) :=
  match i with
  | .cpy .. =>
    if t.d.o.scaled && t.a.o.scaled then ((List.range t.a.bs.length).zip t.a.bs).map fun p => (t.d.scale + p.1, leBytes 1 p.2)
    else []
  | _ => []

-- ==== CPYR (R287) ====

/-- The place of CPYR's updates: never narrower than DIE. -/
def cpyrScope (sc : Scope) : Scope := if sc.code < 3 then .die else sc

/-- One element's update by CPYR, as one RED (R212, R213, R287), after the atomics that it may not divide. -/
def State.cpyrOne (s : State) (c : Cmd) (va : Word) (a : Acc) (op : RedOp) (v : Word) : State :=
  let sc := cpyrScope c.scope
  let r (key : Nat) : AtomicReq :=
    { uid := c.uid, tag := 0, core := c.core, part := c.part, key := key, size := 4, rmw := .red op, value := v, scope := sc,
      seq := 0, old := none, done := false, melt := a.melt || a.device, limit := 0 }
  let home (s : State) (key : Nat) : State :=
    let x := (s.closeSplits c.core 0 key 4).homeRead c.core key 4
    x.1.writeHome c.core key (wordBytes 4 (redApply op (c.core % 2 ^ 11) 4 (leWord x.2) v))
  match a.target with
  | .hbm lpa =>
    let key := hbmKey c.part lpa
    if sc = .die || sc = .device then s.takeRed (r key) op else home s key
  | .host port x => home s (hostKey port x)
  | .remote dev lpa =>
    s.cmdRequest c va { blankFlit .red dev c.part (BitVec.ofNat 64 lpa) with size := 4, scope := sc, rmw := some (.red op), value := v }
  | .control _ => s

/-- The addresses that CPYR updates, checked as read-modify-writes; data that cannot be corrected there are a machine check (R252). -/
def State.checkReds (s : State) (c : Cmd) : List Nat → State × Except Halt (List (Word × Acc))
  | [] => (s, .ok [])
  | a :: r =>
    let va := BitVec.ofNat 64 (a % 2 ^ 64)
    match s.cmdAccess c .rmw 4 va with
    | (s, .error h) => (s, .error h)
    | (s, .ok x) =>
      let bad := match x.target with
        | .hbm lpa =>
          if (s.meltAt (hbmKey c.part lpa) 4).isSome then some (Halt.fault 18 va)
          else if s.poisoned (hbmKey c.part lpa) 4 then some (Halt.fault 21 va) else none
        | .host port y => if s.poisoned (hostKey port y) 4 then some (Halt.fault 21 va) else none
        | .control _ => some (Halt.fault 17 va)
        | .remote _ _ => none
      match bad with
      | some h => (s, .error h)
      | none => match State.checkReds s c r with
        | (s, .error h) => (s, .error h)
        | (s, .ok l) => (s, .ok ((va, x) :: l))

/-- An iteration of CPYR: every element of A applied to D's, in an order that is open (R287). -/
def State.cpyrBody (s : State) (c : Cmd) (t : Tiles) : State × Except Halt Unit :=
  match s.checkReds c t.d.addresses with
  | (s, .error h) => (s, .error h)
  | (s, .ok l) =>
    let op : RedOp := if t.d.o.fmt = 0 then .fadd else .add
    ((l.zip t.a.codes).foldl (fun s p => s.cpyrOne c p.1.1 p.1.2 op (BitVec.ofNat 64 p.2)) s, .ok ())

-- ==== an iteration (R242, R271) ====

/-- TAIL of a ring that a copy has filled one slot of (R249); `rid` is 8 x virtual core + ring. -/
def State.ringFilled (s : State) (core rid : Nat) : State :=
  let r := (s.core core).rings.get 0 rid
  let tail := (hbits r 48 16 + 1) % 65536
  s.modCore core fun c => { c with rings := c.rings.set rid (BitVec.ofNat 256 (r.toNat - hbits r 48 16 * 2 ^ 48 + tail * 2 ^ 48)) }

/-- HEAD of a ring moved on by `n` tiles (R249). -/
def State.ringPopped (s : State) (core rid n : Nat) : State :=
  let r := (s.core core).rings.get 0 rid
  let head := (hbits r 32 16 + n) % 65536
  s.modCore core fun c => { c with rings := c.rings.set rid (BitVec.ofNat 256 (r.toNat - hbits r 32 16 * 2 ^ 32 + head * 2 ^ 32)) }

/-- One iteration: its reads, its result, its writes; the command with its flags, one iteration further. -/
def State.iterate (s : State) (c : Cmd) : State × Cmd × Except Halt Unit :=
  let next (c : Cmd) (fl : EFlags) : Cmd :=
    { c with prog := stepIndex c.prog (tripsOf c.hl), flags := c.flags ||| fl.byte, pieces := [], walked := none, walkFault := none }
  match s.gatherAll c with
  | (s, c, .error h) => (s, c, .error h)
  | (s, c, .ok t) =>
    match c.ins with
    | .cpyr .. => match s.cpyrBody c t with
      | (s, .error h) => (s, c, .error h)
      | (s, .ok _) => (s, next c EFlags.none, .ok ())
    | _ =>
      let x : State × Cmd × Except Halt Effect := if c.unit = .copy then s.copyBody c t else (s, c, .ok (s.computeBody c t))
      match x with
      | (s, c, .error h) => (s, c, .error h)
      | (s, c, .ok e) =>
        match s.commitCodes c t.d e (copiedScales c.ins t) with
        | (s, .error h) => (s, c, .error h)
        | (s, .ok _) =>
          let s := if c.unit = .copy && t.d.o.kind == 2 then s.ringFilled c.core (8 * c.vcore + t.d.o.rid) else s
          (s, next c e.fl, .ok ())

end Sys2Proof.Machine
end

