-- ==== Sys2Proof/Machine/Parallel.lean ====
section
/-! DEFINITION. Spawning, yielding and suspending (R105, R106, R129, R131, R132, R134), barriers (R120, R121, R135-R139),
priorities (R140), special registers (R27-R34, R96, R97, R122-R126, R141, R354) and messages. -/

namespace Sys2Proof.Machine

-- ==== SPAWN (R105, R129, R131, R132) ====

/-- The out-registers that a SPAWN copies, as sources without X-bits (R131). -/
def outRegs (n : BitVec 4) : List Source := (List.range n.toNat).map fun i => srcPlain (BitVec.ofNat 5 (24 + i))

/-- The record that a SPAWN builds (R105). -/
def State.childRecord (s : State) (pc pw : Word) (nreg : BitVec 4) : Record :=
  let t := s.src
  { pc := pc, ctl := recordCtl (bitsOf pw 0 16) nreg.toNat (bitsOf pw 16 4) t.pw t.fmt t.id.ctx,
    s := (List.range 6).map fun i => if i < nreg.toNat then s.rd (BitVec.ofNat 5 (24 + i)) else 0 }

/-- A new strand of a context in a cluster's queue; its number, or 0 and no strand when both lists are full (R106, R131). Its record has no
address in memory: a refusal of it reports RECADDR 0 (R104, log 117). -/
def State.newStrand (s : State) (part q ctx : Nat) (r : Record) (sc : Scope) : State × Word :=
  match s.newNumber part ctx with
  | none => (s, 0)
  | some (s', n) =>
    match (s'.liveUp part ctx).enqueue part q ctx { record := r, strand := n, enq := s.now, addr := 0, acq := some sc } with
    | some s'' => (s'', n.setWidth 64)
    | none => (s, 0)

/-- A SPAWN's strand and the delivery of its number: 20 cycles after issue from a queue, at most 400 otherwise, and `far` cycles more from
another die (R129, R131). -/
def State.spawned (s : State) (d : Reg) (part q ctx : Nat) (r : Record) (sc : Scope) (far : Nat) : State :=
  let direct := s.queued q (contextKey part ctx) < 4096
  let x := s.newStrand part q ctx r sc
  if direct && x.2 ≠ 0 then x.1.long d .spawn (20 + far) (.val x.2) else x.1.longWithin d .spawn (400 + far) (.val x.2)

/-- The ordinary SPAWN after its checks: a release at CLUSTER, or at DIE for PLACE 0xFFFE (R132). -/
def State.spawnChild (s : State) (d : Reg) (pc pw : Word) (nreg : BitVec 4) : State :=
  let t := s.me
  let sc : Scope := if bitsOf pw 0 16 = 0xfffe then .die else .cluster
  let r := s.childRecord pc pw nreg
  (s.releaseMe sc).spawned d t.id.part (clusterOf s.myCore) t.id.ctx r sc 0

/-- The root form (R129): the record of a scratchpad becomes a strand of its own context in the named cluster. -/
def State.spawnRoot (s : State) (d : Reg) (a pw : Word) (nreg : BitVec 4) : State :=
  let t := s.me
  let part := t.id.part
  let q := bitsOf pw 18 2 * 16 + bitsOf pw 14 4
  if nreg ≠ 0 || pw.getLsbD 21 || bitsOf pw 0 14 ≠ 0 || !s.usable part q then s.takeTrap 8 14 pw
  else if 2 ^ 27 ≤ a.toNat || areaMalformed (a.toNat % 2 ^ 32) then s.takeTrap 8 15 a
  else match s.padAt s.src s.myCore a.toNat 64 with
    | none => s.takeTrap 8 15 a
    | some (core, off) =>
      let r := recordOf (s.readPool core off 64)
      let ctx := recCtx r
      if ((s.cluster q).entryOf ctx).isNone then s.takeTrap 8 14 pw
      else
        let reason := match s.recordReason q part ctx false r with
          | some n => some n
          | none => if (s.newNumber part ctx).isNone then some 9 else none
        let far := if q / 16 = dieOf s.myCore then 0 else 40
        let s := s.releaseMe .device
        match reason with
        | some n => (s.refuseRoot part ctx (bitsOf pw 32 32) (bitsOf pw 22 10) n).long d .spawn (20 + far) (.val 0)
        | none => s.spawned d part q ctx r .device far

/-- SPAWN (R131). -/
def execSpawn (d a b : Reg) (xa xb : Bool) (g : PReg) (nreg : BitVec 4) (s : State) : Out :=
  .next (s.guarded g
    (let t := s.me
     let pw := s.rd b
     let pc := s.rd a
     let root := pw.getLsbD 20 && t.status.priv != .u
     let outs := if s.src.isFull (srcB b xb) && root then [] else outRegs nreg
     s.operands ([srcA a xa, srcB b xb] ++ outs) [d] true
      (if root then s.spawnRoot d pc pw nreg
       else if bitsOf pw 20 44 ≠ 0 || !placeAssigned (bitsOf pw 0 16) then s.takeTrap 8 0 pw
       else if bitsOf pw 0 16 < 0x8018 && !s.usable t.id.part (clusterOf s.myCore) then s.takeTrap 8 1 pw
       else if pc.toNat % 8 ≠ 0 || pc.getLsbD 63 then s.takeTrap 8 2 pc
       else if (s.newNumber t.id.part t.id.ctx).isNone then s.takeTrap 8 3 0
       else s.spawnChild d pc pw nreg)))

-- ==== YIELD and SUSPEND (R134) ====

/-- Does the strand hold a register-bound name? -/
def State.holdsRegName (s : State) (uid : Nat) : Bool :=
  s.cores.any fun c => c.2.mint.any fun e => decide (e.2.state = .reg) && e.2.uid == uid

/-- The checks that YIELD and SUSPEND share (R134), on the strand as its bundle found it: a long producer beside it in the bundle is
none that is outstanding (R39). -/
def State.parkFault (s : State) : Option (Nat × Word) :=
  let t := s.me
  if t.status.ui then some (7, 0)
  else if t.depth ≠ 0 then some (4, BitVec.ofNat 64 t.depth)
  else if s.holdsRegName t.id.uid then some (5, 0)
  else if !s.src.pend.out.isEmpty then some (6, 0)
  else none

/-- The record that a YIELD or SUSPEND writes: an IDLE register is written as 0 (R134). -/
def State.parkRecord (s : State) : Record :=
  let t := s.src
  let v (i : Nat) : Word := let c := t.reg (BitVec.ofNat 5 (8 + i)); if c.mark = .full then c.val else 0
  { pc := pcOf (t.pc + 8), ctl := recordCtl t.id.place.toNat 6 t.pri.toNat t.pw t.fmt t.id.ctx, s := (List.range 6).map v }

/-- The poison trap of a YIELD or SUSPEND that would read a register of uncorrectable data for its record (R318). -/
def State.parkReads (s : State) (k : State) : State :=
  let t := s.src
  let read (i : Nat) : Source := srcPlain (BitVec.ofNat 5 (8 + i))
  match ((List.range 6).map read).find? fun o => (t.reg (BitVec.ofNat 5 o.reg)).mark == .full && t.isPoisoned o with
  | some o => let p := s.poisonOf t o; s.takeTrap 11 (p.1 * 8) p.2
  | none => k

/-- YIELD (R134, R387): not ready while the strand has a remote access unacknowledged; the slot is free in the next cycle, the record in the
queue 8 cycles after issue. -/
def execYield (g : PReg) (s : State) : Out :=
  .next (s.guarded g (if s.remoteOpen s.myCore s.me.id.uid then s.waits else match s.parkFault with
    | some (det, v) => s.takeTrap 8 det v
    | none =>
      s.parkReads (
        let t := s.me
        let q := clusterOf s.myCore
        let k := contextKey t.id.part t.id.ctx
        let e : QEntry := { record := s.parkRecord, strand := t.id.strand, enq := s.now + 8, addr := 0, acq := some .device }
        let s := (s.releaseMe .device).modCluster q fun c => { c with transit := c.transit.set k (c.transit.get 0 k + 1) }
        (s.after 8 (.yieldRecordEnqueue t.id.part q t.id.ctx e)).leaveSlot)))

/-- YIELD_RECORD_ENQUEUE (R134): the record enters the queue and is in transit no more; while both lists are full it stays in
transit. -/
def execYieldRecordEnqueue (part cluster ctx : Nat) (e : QEntry) (s : State) : Out :=
  let k := contextKey part ctx
  let n := (s.cluster cluster).transit.get 0 k
  .next (if n = 0 then s
    else match s.enqueue part cluster ctx e with
      | some s' => s'.modCluster cluster fun c => { c with transit := c.transit.set k (n - 1) }
      | none => s.after 1 (.yieldRecordEnqueue part cluster ctx e))

/-- The strand of a SUSPEND leaves its slot: it is live no more (R118, R134). -/
def State.suspendDone (s : State) : State := (s.liveDown s.me.id.part s.me.id.ctx).leaveSlot

/-- The record of a SUSPEND stored as a release at DEVICE scope (R134). -/
def State.suspendTo (s : State) (a : Word) (x : Acc) : State :=
  let t := s.me
  let l := recBytes s.parkRecord
  match x.target with
  | .control _ => s.takeTrap 3 11 a
  | .remote dev lpa =>
    if !s.windowOpen s.myCore dev then s.waits
    else
      let tag := s.nextTag
      let f := { blankFlit .store dev t.id.part (BitVec.ofNat 64 lpa) with size := 64, scope := .device, data := l }
      ((((s.releaseMe .device).newTag).modMe fun t => { t with front := { t.front with wait := .melt tag } }).sendRequest
        s.myCore t.id.uid tag 1 a f).withFlow .held
  | .hbm lpa =>
    if (s.meltAt (hbmKey t.id.part lpa) 64).isSome then s.takeTrap 6 6 a
    else ((s.releaseMe .device).performStore s.myCore t.id.part x.target (x.melt || x.device) true .device l).suspendDone
  | tg => ((s.releaseMe .device).performStore s.myCore t.id.part tg (x.melt || x.device) true .device l).suspendDone

/-- SUSPEND (R134, R387). -/
def execSuspend (a : Reg) (xa : Bool) (g : PReg) (s : State) : Out :=
  .next (s.guarded g (s.operands [srcA a xa] [] false
    (match s.me.front.wait with
      | .served _ => s.suspendDone
      | _ =>
        if s.remoteOpen s.myCore s.me.id.uid then s.waits
        else match s.parkFault with
        | some (det, v) => s.takeTrap 8 det v
        | none => s.parkReads (s.accessMe .store 64 (s.rd a) fun s x => s.suspendTo (s.rd a) x))))

-- ==== barriers (R120, R121, R135-R139) ====

/-- The largest COUNT of a scope (R136). -/
def barrierLimit : Scope → Nat
  | .core => 8
  | .quad => 32
  | .cluster => 192
  | .die => 3072
  | .device => 12288
  | .group => 393216
  | .domain => 201719808
  | .system => 0

/-- The release time of a scope (R120). -/
def releaseTime : Nat → Nat
  | 0 => 2
  | 1 => 4
  | 2 => 10
  | 3 => 30
  | 4 => 120
  | 5 => 2000
  | _ => 8000

/-- The counter of a barrier number, scope instance and context; CORE and QUAD are those of virtual cores (R135, R340). -/
def State.barrierKey (s : State) (sc : Scope) (b : Nat) : Nat :=
  let t := s.me
  let q := clusterOf s.myCore
  let v := segVcore t.id.seg
  let i := match sc with
    | .core => q * 32 + v
    | .quad => q * 32 + v / 4
    | .cluster => q
    | .die => q / 16
    | _ => 0
  ((sc.code * 2048 + i) * 2 ^ 22 + contextKey t.id.part t.id.ctx) * 16 + b

def barrierScope (key : Nat) : Nat := key / 16 / 2 ^ 22 / 2048

/-- The scope of a counter. -/
def scopeOfKey (key : Nat) : Scope := Scope.ofBits (BitVec.ofNat 3 (barrierScope key))

/-- The counter as BARQ returns it (R135). -/
def Barrier.word (b : Barrier) : Word := BitVec.ofNat 64 (b.round.toNat * 2 ^ 56 + b.count % 2 ^ 28 * 2 ^ 28 + b.arrived % 2 ^ 28)

/-- The barrier number of an operand, checked (R130, detail 8). -/
def State.withBarrier (s : State) (v : Word) (k : Nat → State) : State :=
  if bitsOf v 4 60 ≠ 0 then s.takeTrap 8 8 v else k (bitsOf v 0 4)

/-- BARSET (R137). -/
def execBarset (a b : Reg) (xa xb : Bool) (g : PReg) (sc : Scope) (s : State) : Out :=
  .next (s.guarded g (s.operands [srcA a xa, srcB b xb] [] false (s.withBarrier (s.rd a) fun n =>
    let c := (s.rd b).toNat
    if c = 0 || barrierLimit sc < c then s.takeTrap 8 9 (s.rd b)
    else if (s.barrier (s.barrierKey sc n)).arrived ≠ 0 then s.takeTrap 8 10 (s.rd a)
    else if s.awaitsRemote sc then s.waits
    else (s.releaseMe sc).goOn.modBarrier (s.barrierKey sc n) fun x => { x with count := c })))

/-- One arrival of a strand at a counter; the one that completes the round starts its release (R138). -/
def State.arriveAt (s : State) (key uid : Nat) : State :=
  let b := s.barrier key
  if b.releasing then s.modBarrier key fun b => { b with next := b.next ++ [uid] }
  else
    let full := b.arrived + 1 == b.count
    let s := s.modBarrier key fun b => { b with arrived := b.arrived + 1, waiters := b.waiters ++ [uid], releasing := full }
    if full then s.after (releaseTime (barrierScope key)) (.barrierRelease key 0) else s

/-- BAR (R138): the strand waits in its slot until the release. -/
def execBar (a : Reg) (xa : Bool) (g : PReg) (sc : Scope) (s : State) : Out :=
  .next (s.guarded g (s.operands [srcA a xa] [] false (s.withBarrier (s.rd a) fun n =>
    let key := s.barrierKey sc n
    if (s.barrier key).count = 0 then s.takeTrap 8 11 (s.rd a)
    else if s.awaitsRemote sc then s.waits
    else ((s.releaseMe sc).goOn.modMe fun t => { t with front := { t.front with wait := .barrier key } }).arriveAt key s.me.id.uid)))

/-- BARQ (R139): the counter is read at issue; the rule would as well have it read later, within the release time (DESIGN CHOICE, log 142). -/
def execBarq (d a : Reg) (xa : Bool) (g : PReg) (sc : Scope) (s : State) : Out :=
  .next (s.guarded g (s.operands [srcA a xa] [d] true (s.withBarrier (s.rd a) fun n =>
    s.longWithin d .arith (releaseTime sc.code) (.val (s.barrier (s.barrierKey sc n)).word))))

/-- One wait at a counter ends: the oldest of those that handlers have set aside, else the wait of the strand's bundle, which came later. -/
def Slot.released (t : Slot) (key : Nat) : Slot :=
  match t.front.held.find fun _ w => w == .barrier key with
  | some p => { t with front := { t.front with held := t.front.held.del p.1 } }
  | none => { t with front := { t.front with wait := if t.front.wait = .barrier key then .none else t.front.wait } }

/-- A waiter of a released round goes on, an acquire at the barrier's scope (R121, R138); what was released toward a strand in a saved image goes home
now, and the core on which it is restored drops its stale lines then (R203, R205). -/
def State.releaseOne (s : State) (key uid : Nat) : State :=
  let s := s.acquireFor uid (scopeOfKey key)
  match s.slotOf uid with
  | none => s
  | some i => s.modSlot i fun t => t.released key

/-- BARRIER_RELEASE (R138): every waiter of the round is released in one step and ROUND advances; arrivals that were held
count in the next round. `others` are arrivals of other devices at a GROUP or DOMAIN counter, and a step that takes a number carries the COUNT of a BARSET there
(R137, log 20). -/
def execBarrierRelease (bar : Nat) (others : Nat) (s : State) : Out :=
  let b := s.barrier bar
  .next (if s.argAt 0 ≠ 0 then
      (if barrierScope bar < 5 || b.arrived ≠ 0 || barrierLimit (scopeOfKey bar) < s.argAt 0 then s
       else s.modBarrier bar fun b => { b with count := s.argAt 0 })
    else if others ≠ 0 then
      (if b.releasing || barrierScope bar < 5 || b.count < b.arrived + others then s
       else
        let full := b.arrived + others == b.count
        let s := s.modBarrier bar fun b => { b with arrived := b.arrived + others, releasing := full }
        if full then s.after (releaseTime (barrierScope bar)) (.barrierRelease bar 0) else s)
    else if !b.releasing then s
    else
      let s := b.waiters.foldl (fun s u => s.releaseOne bar u) s
      let s := s.modBarrier bar fun b => { b with arrived := 0, round := b.round + 1, releasing := false, waiters := [], next := [] }
      b.next.foldl (fun s u => s.arriveAt bar u) s)

-- ==== messages (R122-R126, R141-R144) ====

/-- Is a MSGDST value one that a message can go to (R122)? -/
def State.msgOk (s : State) (v : Word) : Bool :=
  bitsOf v 11 15 == s.plat.device && decide (bitsOf v 0 5 < 24) && (s.part s.me.id.part).quanta.getLsbD (bitsOf v 5 6)

/-- The physical core of a core number of a cluster, through the fold table (R340). -/
def State.physCore (s : State) (v : Nat) : Nat :=
  let q := clusterOf v
  if (s.cluster q).folded then coreAt q (bitsOf ((s.cluster q).fold.get 0 (coreNo v)) 58 5) else v

/-- A step of a message between two cores: its way there, or its answer's way back. They take 4 cycles each in a cluster; to another cluster
at most 32 together, to another die at most 120, free numbers (R124, log 10). -/
def State.messageStep (s : State) (a b : Nat) (e : Instr) (arg : List Nat) : State :=
  if clusterOf a = clusterOf b then s.afterArg 4 e arg
  else (s.afterArg (1 + s.choose (if dieOf a = dieOf b then 15 else 59)) e arg).bump

/-- Waiting MFS operations served in their order, as many of a virtual core as it has arrivals in the queue (R125, R340); `taken` are the
virtual cores of those that are served already. -/
def State.serveWaiters (s : State) (core : Nat) (taken : List Nat) : List MsgWaiter → State
  | [] => s
  | w :: r =>
    let v := s.virtualCore w.slot
    if w.served then s.serveWaiters core (v :: taken) r
    else if (taken.filter (· == v)).length < ((s.core core).recvq.filter fun f => f.dst == v && f.uid / 2 ^ 32 == w.uid / 2 ^ 32).length then
      let s := s.modCore core fun c => { c with waiters := c.waiters.map fun x => if x.tag = w.tag then { x with served := true } else x }
      (s.after 1 (.deliver w.uid w.tag .msg)).serveWaiters core (v :: taken) r
    else s.serveWaiters core taken r

def State.serveMessages (s : State) (core : Nat) : State := s.serveWaiters core [] (s.core core).waiters

/-- MESSAGE_FLIT (R124): accepted when the queue has room and the destination's slice holder is the sender's context. -/
def execMessageFlit (f : MsgFlit) (s : State) : Out :=
  let core := s.physCore f.dst
  .next (if (s.core core).recvq.length < 16 && s.holds core (f.uid / 2 ^ 32) then
      let s := (s.modCore core fun c => { c with recvq := c.recvq ++ [f] }).serveMessages core
      (s.wake fun i => coreOf i == core).messageStep f.core f.dst (.messageAnswer f.uid true) [f.num]
    else s.messageStep f.core f.dst (.messageAnswer f.uid false) [f.num])

/-- A strand's wait for the answer to one of its sends replaced, also where a handler has set it aside (R247). -/
def State.answerSend (s : State) (uid num : Nat) (f : Bool → MsgFlit → Wait) : State :=
  match s.slotOf uid with
  | none => s
  | some i =>
    let g (w : Wait) : Wait := match w with
      | .send xa flit => if flit.num = num then f xa flit else w
      | w => w
    s.modSlot i fun t => { t with front := { t.front with wait := g t.front.wait, held := t.front.held.map fun _ w => g w } }

/-- A message of a strand that waits to have it accepted. -/
def State.sending (s : State) (uid num : Nat) : Option MsgFlit :=
  match s.slotOf uid with
  | none => none
  | some i => ((s.slot i).front.wait :: List.map (·.2) (s.slot i).front.held).findSome? fun w => match w with
    | .send _ f => if f.num = num then some f else none
    | _ => none

/-- MESSAGE_ANSWER (R124): acceptance lets the bundle complete; a refusal lets it trap with XA = 1, or is answered by a resend
64 cycles later. The step's number is that of the send that it answers. -/
def execMessageAnswer (uid : Nat) (accepted : Bool) (s : State) : Out :=
  let num := s.argAt 0
  .next (if accepted then s.answerSend uid num fun _ _ => .served 0
    else
      let s' := s.answerSend uid num fun xa flit => if xa then .refused else .send xa flit
      if (s.sending uid num).any fun f => !f.xa then s'.afterArg 64 (.messageResend uid) [num] else s')

/-- MESSAGE_RESEND (R124), of the send that the step's number names. -/
def execMessageResend (uid : Nat) (s : State) : Out :=
  .next (match s.sending uid (s.argAt 0) with
    | some f => if f.xa then s else s.messageStep f.core f.dst (.messageFlit f) []
    | none => s)

/-- MTS of MSGOUT (R124, R142): the bundle completes when the message is accepted. -/
def State.sendMessage (s : State) (a : Reg) (xa : Bool) : State :=
  let clear (s : State) : State := s.modMe fun t => { t with front := { t.front with wait := .none } }
  match s.me.front.wait with
  | .served _ => (clear s).goOn
  | .refused => (clear s).takeTrapNow 1 8 (a.setWidth 64)
  | _ =>
    if !s.msgOk s.me.msgdst then s.takeTrap 8 13 s.me.msgdst
    else
      let from_ := s.virtualCore s.cur
      let dst := bitsOf s.me.msgdst 0 11
      let f : MsgFlit := { dst := dst, value := s.rd a, ctx := s.me.id.ctx, core := from_, slot := segVslot s.me.id.seg,
                           uid := s.me.id.uid, xa := xa, num := s.nextTag }
      (((s.releaseMe (msgScope from_ dst)).newTag.modMe fun t => { t with front := { t.front with wait := .send xa f } }).messageStep
        from_ dst (.messageFlit f) []).withFlow .held

-- ==== special registers (R27-R34, R96, R97, R354) ====

/-- The privilege that reads a register (R27). -/
def readPriv (ix : Nat) : Priv :=
  if 12 ≤ ix && ix ≤ 16 || ix = 23 || ix = 24 then .s else if 17 ≤ ix && ix ≤ 20 then .m else .u

/-- The privilege that writes a register, if any does (R27). -/
def writePriv (ix : Nat) : Option Priv :=
  if ix = 1 || ix = 2 || ix = 6 || ix = 8 || ix = 9 || ix = 21 then some .u
  else if ix = 7 || (12 ≤ ix && ix ≤ 16) then some .s
  else if (17 ≤ ix && ix ≤ 20) || ix = 24 then some .m
  else none

/-- The value of a special register (R27-R34). -/
def State.special (s : State) (ix : Nat) : Word :=
  let t := s.src
  match ix with
  | 0 => t.pc
  | 1 => t.pw.setWidth 64
  | 2 => t.fmt.setWidth 64
  | 3 => t.status.word
  | 4 => t.sid
  | 5 => s.cidOf s.myCore
  | 6 => t.pri.setWidth 64
  | 7 => t.id.seg
  | 8 => t.msgdst
  | 11 => t.msgsrc
  | 12 => t.tvec
  | 13 => t.bank1.tpc
  | 14 => t.bank1.tcause
  | 15 => t.bank1.tval
  | 16 => t.bank1.tscr
  | 17 => t.bank2.tpc
  | 18 => t.bank2.tcause
  | 19 => t.bank2.tval
  | 20 => t.bank2.tscr
  | 21 => t.uint.uhvec
  | 22 => t.uint.uhpc
  | 23 => s.plat.devfeat
  | 24 => s.plat.drvfeat
  | _ => 0

/-- MFS (R27, R96, R125). -/
def execMfs (d : Reg) (ix : BitVec 5) (g : PReg) (s : State) : Out :=
  .next (s.guarded g (s.operands [] [d] (ix == 10)
    (if !privGe s.me.status.priv (readPriv ix.toNat) then s.takeTrap 9 0 (ix.setWidth 64)
     else if ix = 10 then
       let tag := s.nextTag
       let w : MsgWaiter := { uid := s.me.id.uid, slot := s.cur, tag := tag, served := false }
       ((s.goOn.startLong d .msgin).modCore s.myCore fun c => { c with waiters := c.waiters ++ [w] }).serveMessages s.myCore
     else s.short d (s.special ix.toNat))))

/-- Is a value of SEG one that an MTS may write (R339)? -/
def segOk (v : Word) : Bool :=
  bitsOf v 44 20 == 0 && [0, 1, 2].all fun r => decide ((segRegion v r).1 + (segRegion v r).2 ≤ 48)

/-- Is DRVFEAT locked (R426): from the first CREATE until every partition is FREE? -/
def State.featuresLocked (s : State) : Bool := s.parts.any fun p => decide (p.2.state ≠ .free) || !p.2.done

/-- Is a value refused by an MTS of a register: a zero field, or a field value of R302, R339, R354, R426? -/
def State.refusedValue (s : State) (ix : Nat) (v : Word) : Bool :=
  match ix with
  | 1 => bitsOf v 8 56 != 0
  | 2 | 6 => bitsOf v 4 60 != 0
  | 7 => !segOk v
  | 8 => bitsOf v 26 38 != 0
  | 12 => v.getLsbD 63 || bitsOf v 0 11 != 0
  | 13 | 17 | 21 => v.getLsbD 63 || bitsOf v 0 3 != 0
  | 14 | 18 => bitsOf v 13 51 != 0 || v.getLsbD 9 || bitsOf v 10 2 == 2
  | 24 => bitsOf v 9 55 != 0 || s.featuresLocked || (v &&& ~~~s.plat.devfeat) != 0
  | _ => false

/-- The slot after an accepted MTS (R97, R354). -/
def Slot.putSpecial (t : Slot) (ix : Nat) (v : Word) : Slot :=
  match ix with
  | 1 => { t with pw := pwOf (v.setWidth 8) }
  | 2 => { t with fmt := v.setWidth 4 }
  | 6 => { t with pri := v.setWidth 4 }
  | 7 => { t with id := { t.id with seg := v } }
  | 8 => { t with msgdst := v }
  | 12 => { t with tvec := v }
  | 13 => { t with bank1 := { t.bank1 with tpc := v } }
  | 14 => { t with bank1 := { t.bank1 with tcause := v } }
  | 15 => { t with bank1 := { t.bank1 with tval := v } }
  | 16 => { t with bank1 := { t.bank1 with tscr := v } }
  | 17 => { t with bank2 := { t.bank2 with tpc := v } }
  | 18 => { t with bank2 := { t.bank2 with tcause := v } }
  | 19 => { t with bank2 := { t.bank2 with tval := v } }
  | 20 => { t with bank2 := { t.bank2 with tscr := v } }
  | 21 => { t with uint := { t.uint with uhvec := v } }
  | _ => t

/-- MTS (R27, R97, R354). A MSGDST value that has a zero field nonzero and that R122 refuses too traps as the former, (9, 2): the rules give no
order (DESIGN CHOICE, log 143). -/
def execMts (ix : BitVec 5) (a : Reg) (xa : Bool) (g : PReg) (s : State) : Out :=
  let n := ix.toNat
  .next (s.guarded g (s.operands [srcA a xa] [] false
    (let v := s.rd a
     match writePriv n with
     | none => s.takeTrap 9 1 (ix.setWidth 64)
     | some p =>
       if !privGe s.me.status.priv p then s.takeTrap 9 1 (ix.setWidth 64)
       else if n = 9 then s.sendMessage a xa
       else if s.refusedValue n v then s.takeTrap 9 2 v
       else if n = 8 && !s.msgOk v then s.takeTrap 8 12 v
       else if n = 24 then { s.goOn with plat := { s.plat with drvfeat := v } }
       else s.goOn.modMe fun t => t.putSpecial n v)))

/-- SETPRI (R140). -/
def execSetpri (a : Reg) (xa : Bool) (g : PReg) (s : State) : Out :=
  .next (s.guarded g (s.operands [srcA a xa] [] false
    (let v := s.rd a
     if bitsOf v 4 60 ≠ 0 then s.takeTrap 9 2 v else s.goOn.modMe fun t => { t with pri := v.setWidth 4 })))

end Sys2Proof.Machine
end

