-- ==== Sys2Proof/Machine/Sched.lean ====
section
/-! DEFINITION. The scheduler: dispatching records into slots (R104, R107-R109, R150, R35, R36), stealing (R110), time slices
(R115-R119), and the context image of a pre-emption (R326-R341). -/

namespace Sys2Proof.Machine

-- ==== choosing a record (R108, R109) ====

/-- The key of a record (R108). -/
def recordKey (now : Nat) (e : QEntry) : Nat := min (recPri e.record + (now - e.enq) / 4096) 31

/-- Does `a` precede `b`: a higher key, then an earlier enqueue cycle? Equal ones keep their queue order. -/
def betterRecord (now : Nat) (a b : QEntry) : Bool :=
  recordKey now b < recordKey now a || (recordKey now a == recordKey now b && decide (a.enq < b.enq))

/-- The best of a list by `betterRecord`, the earlier position among equals. -/
def bestRecord (now : Nat) : List QEntry → Option QEntry
  | [] => none
  | e :: r => match bestRecord now r with
    | none => some e
    | some f => if betterRecord now f e then some f else some e

/-- Is a slot free: one that its strand has left is so from the next cycle on (R134)? -/
def State.slotFree (s : State) (i : Nat) : Bool := decide ((s.slot i).phase = .free) && decide ((s.slot i).front.readyAt ≤ s.now)

/-- A free slot of a core: the lowest one, the model's choice where the spec names none (R109, log 127). -/
def State.freeSlotOf (s : State) (core : Nat) : Option Nat :=
  ((List.range 8).map (core * 8 + ·)).find? s.slotFree

def State.occupied (s : State) (core : Nat) : Nat :=
  (((List.range 8).map (core * 8 + ·)).filter fun i => !s.slotFree i).length

/-- The virtual cores that a context has in a cluster, each with its physical core (R338, R340). -/
def State.virtualCores (s : State) (q : Nat) : List (Nat × Nat) :=
  let c := s.cluster q
  (List.range 24).filterMap fun v =>
    if c.folded then (if (c.fold.get 0 v).getLsbD 63 then some (v, coreAt q (bitsOf (c.fold.get 0 v) 58 5)) else none)
    else some (v, coreAt q v)

/-- A virtual slot of a virtual core that no strand of the cluster has. -/
def State.freeVslot (s : State) (q v : Nat) : Option Nat :=
  (List.range 8).find? fun n => !(s.slots.any fun e => clusterOf (coreOf e.1) == q && decide (e.2.phase ≠ .free)
    && segVcore e.2.id.seg == v && segVslot e.2.id.seg == n)

/-- The virtual cores on which a record may run (R103). -/
def permitted? (r : Record) (v : Nat) : Bool := 0x8018 ≤ recPlace r || recPlace r == 0x8000 + v

/-- The core for a record: among permitted ones with a free slot the one with the fewest occupied slots, then the lowest
number (R109). -/
def State.coreFor (s : State) (q : Nat) (r : Record) : Option (Nat × Nat) :=
  ((s.virtualCores q).filter fun p => permitted? r p.1 && (s.freeSlotOf p.2).isSome && (s.freeVslot q p.1).isSome).foldl
    (fun a p => match a with
      | none => some p
      | some b => if s.occupied p.2 < s.occupied b.2 then some p else some b) none

/-- SEG of a strand in a slot (R339). -/
def State.segFor (s : State) (q i v vslot : Nat) (pool : Word) : Word :=
  let c := s.cluster q
  if c.folded then
    let e := c.fold.get 0 v
    let sh (r k : Nat) : Nat := (foldRegion e r).1 * 2 ^ (k + 6) + (foldRegion e r).2 * 2 ^ k
    BitVec.ofNat 64 (vslot * 2 ^ 41 + v * 2 ^ 36 + sh 1 24 + sh 0 12 + sh 2 0)
  else plainSeg i pool

/-- The first cycle from `t` on that is 4 cycles from every one of `l`; `n` bounds the search by their number. -/
def spacedFrom : Nat → List Nat → Nat → Nat
  | 0, _, t => t
  | n + 1, l, t => match l.find? fun d => d < t + 4 && t < d + 4 with
    | some d => spacedFrom n l (d + 4)
    | none => t

/-- The cycles in which slots of a cluster are to be loaded. -/
def State.loadCycles (s : State) (q : Nat) : List Nat :=
  s.agenda.filterMap fun d => match d.ev with
    | .slotLoad i => if clusterOf (coreOf i) = q then some d.due else none
    | _ => none

/-- A record chosen for a slot: the pool is cleared if its context first occupies the core since its POOL word was latched,
and the slot is loaded 16 cycles after that, 4 cycles from any other load of the cluster (R109, R150). -/
def State.chooseSlot (s : State) (q k : Nat) (e : QEntry) (v core i : Nat) : State :=
  let c := s.context k
  let first := (s.core core).poolFor != some (k, c.latch)
  let clearEnd := if first then s.now + 3072 else max s.now (s.core core).clearEnd
  let vslot := (s.freeVslot q v).getD 0
  let id : StrandId := { part := k / 65536, ctx := k % 65536, strand := e.strand, place := BitVec.ofNat 16 (recPlace e.record),
                         uid := strandKey (k / 65536) (k % 65536) e.strand, asid := s.asidOf (k / 65536) (k % 65536),
                         seg := s.segFor q i v vslot c.pool }
  let s := s.setSlot i { Slot.empty with phase := .chosen, id := id, incoming := some e }
  let s := if first then
      (s.modCore core fun x => { x with poolFor := some (k, c.latch), poolWord := c.pool, clearEnd := clearEnd }).after 3072 (.poolClear core)
    else s
  let l := s.loadCycles q
  s.after (spacedFrom (l.length + 1) l (clearEnd + 16) - s.now) (.slotLoad i)

/-- Can a record run on no core of a cluster, so that it is refused without a slot (R104, REASON 4 and 5)? -/
def State.noCore (s : State) (q part : Nat) (r : Record) : Bool :=
  !placeAssigned (recPlace r) || (decide (recPlace r < 0x8018) && !s.usable part q)

/-- A record refused: its strand is live no more, and the slice may end (R104, R115, R118). -/
def State.dropRecord (s : State) (q part ctx : Nat) (e : QEntry) (reason : Nat) : State :=
  ((s.refuseRecord part ctx e.addr reason).liveDown part ctx).after 0 (.sliceEarlyEnd q)

/-- DISPATCH_RECORD (R104, R108, R109): at most one record every 4 cycles. -/
def execDispatchRecord (q : Nat) (s : State) : Out :=
  .next (match s.holderKey q with
    | none => s
    | some k =>
      let c := s.cluster q
      let part := k / 65536
      let ctx := k % 65536
      if c.saving.isSome || (s.context k).dead then s
      else if s.now < c.nextLoad then s.after (c.nextLoad - s.now) (.dispatchRecord q)
      else
        let all := c.queues.get [] k ++ s.listed q k
        let fits := all.filter fun e => (s.coreFor q e.record).isSome || s.noCore q part e.record
        match bestRecord s.now fits with
        | none => s
        | some e =>
          let s := (((s.removeRecord q k e).modCluster q fun c => { c with nextLoad := s.now + 4 })).after 4 (.dispatchRecord q)
          if s.noCore q part e.record then
            (s.drawOverflow q k).dropRecord q part ctx e ((s.recordReason q part ctx true e.record).getD 4)
          else match s.coreFor q e.record with
            | none => s
            | some (v, core) =>
              match s.freeSlotOf core with
              | none => s
              | some i => s.chooseSlot q k e v core i)

/-- The pool of a core zeroed: no block of it is written, and none holds bad data (R150, R318, R333). -/
def State.clearPool (s : State) (core : Nat) : State :=
  ({ s with mem := s.mem.clear (poolKey core 0) (poolKey core (2 ^ 20)),
            badBytes := s.badBytes.filter fun b => b.1 < poolKey core 0 || poolKey core (2 ^ 20) ≤ b.1 }).modCore core fun c => { c with written := [] }

/-- POOL_CLEAR (R150): the whole pool is zeroed in the last of the 3,072 cycles (log 128). -/
def execPoolClear (core : Nat) (s : State) : Out := .next (s.clearPool core)

/-- The slot of a record at its load (R35, R36): s8 upward from the record, everything else IDLE. -/
def State.loadedSlot (s : State) (i : Nat) (e : QEntry) : Slot :=
  let t := s.slot i
  let w := s.ccbWord t.id.part t.id.ctx 0
  let r := e.record
  let n := recNreg r
  let full (v : Word) : RegCell := { val := v, mark := .full, poison := false }
  let base : Slot := { Slot.empty with
    phase := if w.getLsbD 16 then .clearing else .live
    id := t.id
    pc := r.pc
    pw := pwOf (BitVec.ofNat 8 (bitsOf r.ctl 32 8))
    fmt := BitVec.ofNat 4 (bitsOf r.ctl 16 4)
    pri := BitVec.ofNat 4 (recPri r)
    status := { ui := false, startclr := w.getLsbD 16, priv := privOf (bitsOf w 17 2), tl := 0 }
    tvec := s.ccbWord t.id.part t.id.ctx 16 &&& 0x7ffffffffffff800
    front := { Slot.empty.front with readyAt := s.now } }
  (List.range n).foldl (fun t j => t.putReg (BitVec.ofNat 5 (8 + j)) (full (r.s.getD j 0))) base

/-- SLOT_LOAD (R35, R36, R104, R109, R132): a record that fails a check is refused and its slot is free again; the first bundle of another is an
acquire at the record's scope. Its entry of the queue is free then (R107). -/
def execSlotLoad (i : Nat) (s : State) : Out :=
  let t := s.slot i
  let q := clusterOf (coreOf i)
  .next (match t.phase, t.incoming with
    | .chosen, some e =>
      match s.recordReason q t.id.part t.id.ctx true e.record with
      | some r => ((s.freeSlot i).drawOverflow q (contextKey t.id.part t.id.ctx)).dropRecord q t.id.part t.id.ctx e r
      | none =>
        let s := match e.acq with
          | some sc => s.acquire (coreOf i) sc
          | none => s
        let s := (s.setSlot i (s.loadedSlot i e)).drawOverflow q (contextKey t.id.part t.id.ctx)
        if (s.slot i).status.startclr then s.after 24 (.registerClear i) else s
    | _, _ => s)

/-- A register that is IDLE becomes zero and FULL. -/
def RegCell.cleared (c : RegCell) : RegCell := if c.mark = .idle then { val := 0, mark := .full, poison := false } else c

/-- REGISTER_CLEAR (R36): the registers that the record did not supply are zero and FULL; the strand is ready. The physical registers outside frame 0's
window, which the rule does not name, are cleared as well (DESIGN CHOICE, log 146). -/
def execRegisterClear (i : Nat) (s : State) : Out :=
  .next (if (s.slot i).phase = .clearing then
      s.modSlot i fun t => { t with
        phase := .live
        regs := t.regs.map RegCell.cleared
        handles := t.handles.map fun c => if c.mark = .idle then { val := 0, mark := .full } else c }
    else s)

-- ==== stealing (R110) ====

/-- Records of a context in a cluster that may be stolen. -/
def State.stealable (s : State) (q k : Nat) : List QEntry :=
  ((s.cluster q).queues.get [] k).filter fun e => recPlace e.record == 0xfffe

/-- Up to `n` records moved from one queue to another, the highest key first. -/
def State.stealFrom (s : State) (dest src k : Nat) : Nat → State
  | 0 => s
  | n + 1 => match bestRecord s.now (s.stealable src k) with
    | none => s
    | some e =>
      ((((s.removeRecord src k e).drawOverflow src k).putQueue dest k e).pokeThieves dest e.record).stealFrom dest src k n

/-- STEAL (R110): its three conditions; what makes one of them true comes here again. -/
def execSteal (q : Nat) (s : State) : Out :=
  .next (match s.holderKey q with
    | none => s
    | some k =>
      let c := s.cluster q
      let free := (s.virtualCores q).any fun p => (s.freeSlotOf p.2).isSome
      if !(c.queues.get [] k).isEmpty || !free || c.saving.isSome then s
      else if s.now < c.emptyFrom.get 0 k + 1024 then s.after (c.emptyFrom.get 0 k + 1024 - s.now) (.steal q)
      else
        let others := ((List.range 16).map (q / 16 * 16 + ·)).filter fun p =>
          p != q && ((s.cluster p).entryOf (k % 65536)).isSome && s.ownerOf p == some (k / 65536) && !(s.stealable p k).isEmpty
        let best := others.foldl (fun a p => match a with
          | none => some p
          | some b => if (s.stealable b k).length < (s.stealable p k).length then some p else some b) none
        match best with
        | none => s
        | some p => ((s.stealFrom q p k 8).after 0 (.dispatchRecord q)).after 0 (.sliceEarlyEnd p))

-- ==== pre-emption (R326-R329) ====

/-- Does a strand that waits so take a failure that is owed: at a boundary, at a barrier or in a send that is not accepted (R389)? -/
def Wait.yields : Wait → Bool
  | .none | .drain .. | .barrier _ | .send _ _ => true
  | _ => false

/-- Does a slot hold a bundle back that pre-emption must let complete: one whose request is answered, or that waits at a home
(R124, R197)? -/
def Wait.mustFinish : Wait → Bool
  | .served _ | .refused | .melt _ | .drain .. | .unit => true
  | _ => false

/-- Is a message of a strand accepted and its answer on the way? -/
def State.answerComing (s : State) (uid : Nat) : Bool :=
  s.agenda.any fun d => match d.ev with
    | .messageAnswer u a => u == uid && a
    | _ => false

/-- Is a failure owed to a slot's strand that it takes at the boundary where it stands (R304, R389)? -/
def State.owedAt (s : State) (i : Nat) : Bool :=
  let t := s.slot i
  decide (t.phase = .live) && (s.owed.any fun o => o.1 == t.id.uid) && t.front.wait.yields && !t.front.halted && !s.answerComing t.id.uid

/-- May a slot be saved: stopped at a bundle boundary, with no delivery outstanding but .W tuple results and MFS of MSGIN, its stores
performed, and every failure that is known taken (R304, R328)? -/
def State.savable (s : State) (i : Nat) : Bool :=
  let t := s.slot i
  decide (t.phase = .live) && !t.front.wait.mustFinish && !s.answerComing t.id.uid && !s.owedAt i
    && !(t.pend.out.any fun o => decide (o.kind ≠ .tuple ∧ o.kind ≠ .msgin ∧ o.kind ≠ .await))
    && !(s.core (coreOf i)).sb.any (fun e => e.uid == t.id.uid)
    && !(s.core (coreOf i)).atomics.any (fun r => r.uid == t.id.uid)
    && !s.remoteOpen (coreOf i) t.id.uid

/-- A pool clear of a cluster that is not over counts for nothing: the next record that its core takes clears the pool again (R150). -/
def State.dropClears (s : State) (q : Nat) : State :=
  let gone (d : Due) : Bool := match d.ev with
    | .poolClear core => clusterOf core == q
    | _ => false
  let cores := s.agenda.filterMap fun d => match d.ev with
    | .poolClear core => if clusterOf core = q then some core else none
    | _ => none
  cores.foldl (fun s core => s.modCore core fun c => { c with poolFor := none, clearEnd := 0 })
    { s with agenda := s.agenda.filter fun d => !gone d }

/-- The loads and clears that are due for slots whose strand does not come are void (R150). -/
def State.dropLoads (s : State) (p : Nat → Bool) : State :=
  let gone (d : Due) : Bool := match d.ev with
    | .slotLoad i | .registerClear i => p i
    | _ => false
  { s with agenda := s.agenda.filter fun d => !gone d }

/-- A record that was chosen goes back to its queue, whose entry it has kept (R107, R328). -/
def State.unchoose (s : State) (q k i : Nat) : State :=
  let s' := (s.setSlot i Slot.empty).dropLoads (· == i)
  match (s.slot i).incoming with
  | some e => (s'.putQueue q k e).pokeThieves q e.record
  | none => s'

/-- The holder's slots stop at their next bundle boundary, where a failure that is owed is entered first (R304); chosen records that are
not loaded go back to the queue (R328). -/
def State.stopHolder (s : State) (q k : Nat) : State :=
  let back := (s.slotsOf q k).filter fun i => decide ((s.slot i).phase = .chosen)
  let s := (back.foldl (fun s i => s.unchoose q k i) s).dropClears q
  (s.slotsOf q k).foldl (fun s i => s.modSlot i fun t =>
    { t with front := { t.front with stopping := !t.front.wait.mustFinish && !s.owedAt i } }) s

/-- Pre-emption of a table entry's context begins on a cluster; the save follows (R326, R328). -/
def State.preempt (s : State) (q entry : Nat) : State :=
  ((s.modCluster q fun c => { c with saving := some entry }).stopHolder q (s.entryKey q entry)).after 1 (.contextSave q entry)

/-- What a core holds for its holder is gone from it. -/
def Core.left (c : Core) : Core :=
  { c with recvq := [], waiters := [], rings := [], log := [], marks := [], leases := { marker := none, cur := none, left := [] } }

/-- What the cores of a cluster hold of a context that has come to its end (R118, R125). -/
def State.leaveCores (s : State) (q k : Nat) : State :=
  s.eachCore fun c x =>
    if clusterOf c ≠ q then x
    else if x.poolFor.any fun p => p.1 == k then { x.left with poolFor := none }
    else { x with recvq := x.recvq.filter fun f => f.uid / 2 ^ 32 != k }

/-- Has a context commands in a cluster that can still complete (R133, R241)? -/
def State.commandsIn (s : State) (q k : Nat) : Bool :=
  s.cmds.any fun c => clusterOf c.2.core == q && contextKey c.2.part c.2.ctx == k && decide (c.2.state ≠ .faulted ∧ c.2.state ≠ .saved)

/-- The slice of a holder without a strand and without a record ends at once (R115): a context that lives on elsewhere is saved with its commands
(R150, R326, R329), one that has come to its end is not (R119). The commands that its strands have left complete before the next holder is chosen,
within the slice's 131,072 cycles at most; those that have not are saved (R133, R329, log 129). -/
def State.endSlice (s : State) (q entry : Nat) : State :=
  let k := s.entryKey q entry
  if (s.context k).live ≠ 0 then s.preempt q entry
  else if !s.commandsIn q k then (s.leaveCores q k).startSlice q
  else if s.now < (s.cluster q).sliceEnd then (s.modCluster q fun c => { c with saving := some entry }).afterArg 1 (.contextSave q entry) [2]
  else s.preempt q entry

/-- SLICE_EXPIRY (R115, R119): the holder is pre-empted if it has a strand or a record; else the slice ends. -/
def execSliceExpiry (q : Nat) (s : State) : Out :=
  let c := s.cluster q
  .next (if s.now < c.sliceEnd || c.saving.isSome then s
    else match c.holder with
      | none => s.startSlice q
      | some e =>
        let k := s.entryKey q e
        if (s.slotsOf q k).isEmpty && s.recordsIn q k == 0 then s.endSlice q e else s.preempt q e)

/-- SLICE_EARLY_END (R115, R116): the holder has no strand in a slot of the cluster and no record in its queue, its overflow
list or in transit; a cluster without a holder chooses one. -/
def execSliceEarlyEnd (q : Nat) (s : State) : Out :=
  let c := s.cluster q
  .next (if c.saving.isSome then s
    else match c.holder with
      | none => s.startSlice q
      | some e =>
        let k := s.entryKey q e
        if (s.slotsOf q k).isEmpty && s.recordsIn q k == 0 && !c.imaged.contains e then s.endSlice q e else s)

end Sys2Proof.Machine
end

