-- ==== Sys2Proof/Machine/EngineUnits.lean ====
section
/-! DEFINITION. The units that run commands: hazards (R253), arbitration (R244, R245, R250, R251), commits (R242), completions
(R246, R247) and part-way faults (R252). -/

namespace Sys2Proof.Machine

def State.putCmd (s : State) (c : Cmd) : State := { s with cmds := s.cmds.set c.id c }

/-- A step placed in the agenda unless it stands there already. -/
def State.afterOnce (s : State) (d : Nat) (e : Instr) : State := if s.agenda.any fun x => x.ev == e then s else s.after d e

-- ==== hazards (R253) ====

/-- A range of pool bytes, as keys: from, to below. -/
abbrev Span := Nat × Nat

def spansMeet (a b : List Span) : Bool := a.any fun x => b.any fun y => x.1 < y.2 && y.1 < x.2

/-- The pool bytes that any iteration touches through a local address. -/
def State.spanAt (s : State) (c : Cmd) (a n : Nat) (span : Int × Int) : List Span :=
  match s.localRegion (clusterOf c.core) (contextKey c.part c.ctx) a with
  | none => []
  | some (core, base, _) =>
    let k : Int := (poolKey core (base + a % 2 ^ 20) : Nat)
    [((k + span.1).toNat, (k + span.2 + n).toNat)]

/-- Read and write ranges of a command (R253): TENSOR operands and their block scales; ring slots are left out. The scales of
a destination are only read, but those of CPY move along with its codes (R266, R285). -/
def State.rangesOf (s : State) (c : Cmd) : List Span × List Span :=
  let trips := tripsOf c.hl
  let one (o : Nat) : List Span × List Span :=
    let x := operOf [] (c.image o)
    let used := o == 0 || (o == 1 && usesHa c.ins) || (o == 2 && usesHb c.ins)
    if !used || x.kind ≠ 1 then ([], [])
    else
      let data := s.spanAt c (withCore c.vcore x.addr) x.extent (spanOf trips c.strides o)
      let scales := if x.scaled then s.spanAt c (withCore c.vcore x.scaleAddr) (x.scaleExtent (kDown c.ins o)) (0, 0) else []
      if o ≠ 0 then (data ++ scales, [])
      else if c.unit = .copy then ([], data ++ scales)
      else (scales, data)
  let a := one 0
  let b := one 1
  let d := one 2
  (a.1 ++ b.1 ++ d.1, a.2 ++ b.2 ++ d.2)

/-- Does an earlier-arrived, unfinished command of the same engine keep a command from starting (R253)? -/
def State.hazard (s : State) (c : Cmd) : Bool :=
  let mine := s.rangesOf c
  s.cmds.any fun p =>
    let x := p.2
    let same := if c.unit = .copy then x.unit == .copy && copyEngineOf x.core == copyEngineOf c.core
      else x.unit != .copy && quadOf x.core == quadOf c.core
    same && decide (x.state ≠ .finished ∧ x.state ≠ .saved)
      && (x.readyAt < c.readyAt || (x.readyAt == c.readyAt && x.id < c.id))
      && (let r := s.rangesOf x; spansMeet r.2 (mine.1 ++ mine.2) || spansMeet r.1 mine.2)

/-- May a command start or go on now: it has reached its unit, its context holds the cluster, the hazards are clear, and at
GROUP scope or wider the earlier remote accesses of its strand are acknowledged (R115, R241, R253, R390)? -/
def State.canStart (s : State) (c : Cmd) : Bool :=
  decide (c.state = .waiting ∨ c.state = .suspended) && !c.held && decide (c.readyAt ≤ s.now)
    && s.holds c.core (contextKey c.part c.ctx) && !(s.context (contextKey c.part c.ctx)).dead
    && !(5 ≤ c.scope.code && c.state == .waiting && s.remoteOpen c.core c.uid) && !s.hazard c

-- ==== running (R242, R272, R281, R284) ====

/-- Cycles of one iteration on its unit (R272, R281, R284). -/
def State.cyclesOf (s : State) (c : Cmd) : Nat :=
  let rings := s.ringsOf c.core c.vcore
  let d := operOf rings c.hd
  let a := operOf rings c.ha
  let up (n k : Nat) : Nat := (n + k - 1) / k
  max 1 (match c.ins with
    | .vtrans .. | .vgather .. | .vscatter .. => up (d.rows * d.cols) 64
    | .vred .. => up (a.rows * a.cols) 512
    | .mma .. | .mmas .. => a.cols / kWidth a.fmt
    | .mzero .. => 4
    | .mdrain .. | .maccld .. => 16
    | .cpys .. => up (a.rows * rowBytes a.fmt a.cols) 128
    | .cpy .. | .cpyg .. | .cpyr .. => up (d.rows * rowBytes d.fmt d.cols) 128
    | _ => up (d.rows * d.cols) 512)

/-- Cycles from the start of one iteration to the start of the next: at least THROTTLE for a vector unit or a matrix array (R433). -/
def State.pace (s : State) (c : Cmd) : Nat := if c.unit = .copy then s.cyclesOf c else max (s.cyclesOf c) (bitsOf s.plat.throttle 0 16)

/-- The next iteration of a command is to commit after its cycles; a GLOBAL operand adds the time of its fetch (R164, R281). -/
def State.nextIteration (s : State) (c : Cmd) (extra : Nat) : State :=
  let glob := hKind c.ha == 3 || hKind c.hb == 3
  if c.done then s.after extra (.iterationCommit c.id)
  else if glob then (s.after (extra + s.pace c + s.choose 421) (.iterationCommit c.id)).bump
  else s.after (extra + s.pace c) (.iterationCommit c.id)

def State.startCommand (s : State) (c : Cmd) (extra : Nat) : State :=
  (s.putCmd { c with state := .running }).nextIteration c extra

/-- The command at the head of a core's queue for a unit: the first that has iterations left to run. -/
def State.headOf (s : State) (core : Nat) (u : CmdUnit) : Option Cmd := (s.queueOf core u).find? fun c => decide (c.state ≠ .finished)

/-- The cores of a quad in the order of a pointer, each with its number (R244). -/
def quadOrder (quad from_ : Nat) : List (Nat × Nat) :=
  (List.range 4).map fun k => ((from_ + k) % 4, coreAt (quad / 8) (quad % 8 * 4 + (from_ + k) % 4))

/-- The first core of a quad whose head for a unit may start. -/
def State.firstReady (s : State) (quad from_ : Nat) (u : CmdUnit) : Option (Nat × Cmd) :=
  (quadOrder quad from_).findSome? fun p => match s.headOf p.2 u with
    | some c => if s.canStart c then some (p.1, c) else none
    | none => none

/-- Does some core of a quad have a head that is not yet able to start? -/
def State.anyPending (s : State) (quad : Nat) (u : CmdUnit) : Bool :=
  (quadOrder quad 0).any fun p => match s.headOf p.2 u with
    | some c => decide (c.state = .waiting ∨ c.state = .suspended)
    | none => false

/-- VECTOR_GRANT (R244): the free unit grants the head of the first core that may run, 4 cycles after the command before it. -/
def execVectorGrant (quad : Nat) (s : State) : Out :=
  let q := s.quad quad
  .next (if q.vGrant.isSome then s
    else if s.now < q.vFrom then s.afterOnce (q.vFrom - s.now) (.vectorGrant quad)
    else match s.firstReady quad q.v .vector with
      | some (k, c) =>
        (s.modQuad quad fun q => { q with v := (k + 1) % 4, vGrant := some c.id, vStart := s.now }).startCommand c 0
      | none => if s.anyPending quad .vector then s.afterOnce 1 (.vectorGrant quad) else s)

/-- Commands of a lease that have not retired (R245). -/
def State.leaseLeft (s : State) (l : Nat × Nat) : Nat := (s.core l.1).leases.left.get 0 l.2

/-- A matrix command of the lease starts; `leaseFrom` is the cycle after the first one's start, 0 before it. -/
def State.startMatrix (s : State) (quad : Nat) (c : Cmd) : State :=
  let q := s.quad quad
  let first := q.leaseFrom == 0
  let s := s.modQuad quad fun q => { q with mRun := some c.id, leaseFrom := if first then s.now + 1 else q.leaseFrom }
  let s := if first then s.after 65536 (.leaseExpiry quad) else s
  s.startCommand c 0

/-- The array's lease ends; a handover costs 8 cycles. -/
def State.endLease (s : State) (quad : Nat) : State :=
  (s.modQuad quad fun q => { q with lease := none, leaseFrom := 0, mFrom := s.now + 8 }).after 8 (.leaseGrant quad)

/-- Is a command of the lease at the head of its core's queue, started or not (R245)? -/
def State.leaseRunning (s : State) (l : Nat × Nat) : Bool :=
  match s.headOf l.1 .matrix with
  | some c => c.lease == l.2 && decide (c.state ≠ .faulted) && decide (c.readyAt ≤ s.now)
  | none => false

/-- LEASE_GRANT (R245): within a lease the next command starts; a lease whose commands have retired, or whose 65,536 cycles are over, ends; a
free array grants the lease that the first core's head heads, 8 cycles after the one before it. -/
def execLeaseGrant (quad : Nat) (s : State) : Out :=
  let q := s.quad quad
  .next (if q.mRun.isSome then s
    else match q.lease with
      | some l =>
        if s.leaseLeft l = 0 || (q.leaseFrom != 0 && q.leaseFrom + 65536 ≤ s.now + 1) then s.endLease quad
        else if s.leaseRunning l then
          match s.headOf l.1 .matrix with
          | some c => if s.canStart c then s.startMatrix quad c else s.afterOnce 1 (.leaseGrant quad)
          | none => s
        else s.afterOnce (q.idleFrom + 64 - s.now) (.leaseIdleEnd quad)
      | none =>
        if s.now < q.mFrom then s.afterOnce (q.mFrom - s.now) (.leaseGrant quad)
        else match s.firstReady quad q.m .matrix with
        | some (k, c) =>
          (s.modQuad quad fun q => { q with m := (k + 1) % 4, lease := some (c.core, c.lease), leaseFrom := 0 }).startMatrix quad c
        | none => if s.anyPending quad .matrix then s.afterOnce 1 (.leaseGrant quad) else s)

/-- LEASE_IDLE_END (R245): a lease without a RUNNING command for 64 cycles ends; its commands not yet started head one lease of
the count that remains. -/
def execLeaseIdleEnd (quad : Nat) (s : State) : Out :=
  let q := s.quad quad
  .next (match q.lease with
    | none => s
    | some l =>
      if q.mRun.isSome || s.leaseRunning l then s
      else if s.now < q.idleFrom + 64 then s.afterOnce (q.idleFrom + 64 - s.now) (.leaseIdleEnd quad)
      else s.endLease quad)

/-- The unit that runs a command is free of it (R241). -/
def State.freeUnit (s : State) (c : Cmd) : State :=
  let quad := quadOf c.core
  match c.unit with
  | .vector =>
    if (s.quad quad).vGrant = some c.id then
      (s.modQuad quad fun q => { q with vGrant := none, vFrom := s.now + 4 }).after 4 (.vectorGrant quad)
    else s
  | .matrix =>
    if (s.quad quad).mRun = some c.id then
      (s.modQuad quad fun q => { q with mRun := none, idleFrom := s.now }).after 0 (.leaseGrant quad)
    else s
  | .copy => s.after 0 (.copyEngineStart (copyEngineOf c.core))

/-- A running command is SUSPENDED at its progress index (R241). -/
def State.suspendCmd (s : State) (c : Cmd) : State := (s.putCmd { c with state := .suspended, pieces := [] }).freeUnit c

/-- The running command of a number. -/
def State.runningCmd (s : State) (id : Option Nat) : Option Cmd :=
  (id.bind fun i => s.cmds.get? i).bind fun c => if c.state = .running then some c else none

/-- VECTOR_SLICE_EXPIRY (R244): at an iteration boundary after 4,096 cycles of running. -/
def execVectorSliceExpiry (quad : Nat) (s : State) : Out :=
  let q := s.quad quad
  .next (if s.now < q.vStart + 4096 then s
    else match s.runningCmd q.vGrant with
      | some c => s.suspendCmd c
      | none => s)

/-- LEASE_EXPIRY (R245): 65,536 cycles after the lease's first command started. With the number 1 the executing command is at
an iteration boundary, and is SUSPENDED; without it the lease ends if no command of it is executing. -/
def execLeaseExpiry (quad : Nat) (s : State) : Out :=
  let q := s.quad quad
  .next (if q.leaseFrom = 0 || s.now + 1 < q.leaseFrom + 65536 then s
    else match s.runningCmd q.mRun with
      | some c => if s.argAt 0 = 1 then (s.suspendCmd c).endLease quad else s
      | none => if q.lease.isSome then s.endLease quad else s)

-- ==== part-way faults (R252) ====

/-- A command becomes FAULTED: its trap is owed to its strand, and a completion that was on its way is not in the log (R246, R252, R293). -/
def State.faultCmd (s : State) (c : Cmd) (detail : Nat) (tval : Word) : State :=
  ((s.modCore c.core fun x => { x with log := x.log.filter fun e => e.id != c.id }).putCmd { c with state := .faulted, owed := true, detail := detail, tval := tval, pieces := [], sent := false }).freeUnit c

/-- ENGINE_FAULT (R252). -/
def execEngineFault (id : Nat) (detail : BitVec 5) (tval : Word) (s : State) : Out :=
  .next (match s.cmds.get? id with
    | some c => if c.state = .running ∨ c.state = .finished then s.faultCmd c detail.toNat tval else s
    | none => s)

-- ==== commits (R242, R249) ====

/-- Every iteration is committed: the tiles that a matrix command read leave their rings, its lease counts it, each once, and its
completion leaves the engine within 4 cycles (R242, R245, R246, R249). -/
def State.finishCmd (s : State) (c : Cmd) : State :=
  let s := s.putCmd { c with state := .finished, pieces := [], counted := true, popped := true }
  let s := (List.range 8).foldl (fun s r =>
    let n := ringUses r c * tripCount c.hl
    if n = 0 || c.popped then s else s.ringPopped c.core (8 * c.vcore + r) n) s
  let s := if c.unit = .matrix && !c.counted then
      s.modCore c.core fun x => { x with leases := { x.leases with left := x.leases.left.set c.lease (x.leases.left.get 0 c.lease - 1) } }
    else s
  (s.freeUnit c).within 3 (.engineCompletion c.id)

/-- Do the commands of a context that has come to its end complete before the next slice of a cluster begins (R133, log 129)? -/
def State.draining (s : State) (q : Nat) : Bool :=
  s.agenda.any fun d => d.arg == [2] && match d.ev with
    | .contextSave p _ => p == q
    | _ => false

/-- A command at an iteration boundary: SUSPENDED where its context is being saved (R329), where its slice or its lease is over (R244, R245);
else it goes on with `next`. A command that waits for a tile of a ring or a piece of another device is at a boundary: its iteration has not
begun to write. The cycles of a lease run on while it waits for a ring (R249, log 126). -/
def State.atBoundary (s : State) (c : Cmd) (next : State → State) : State :=
  let quad := quadOf c.core
  if (s.cluster (clusterOf c.core)).saving.isSome && !s.draining (clusterOf c.core) then s.suspendCmd c
  else if c.unit = .vector ∧ (s.quad quad).vStart + 4096 ≤ s.now then s.after 0 (.vectorSliceExpiry quad)
  else if c.unit = .matrix ∧ (s.quad quad).leaseFrom + 65536 ≤ s.now + 1 then s.afterArg 0 (.leaseExpiry quad) [1]
  else next s

/-- A command goes on with its next iteration. -/
def State.continueCmd (s : State) (c : Cmd) : State := s.atBoundary c fun s => s.nextIteration c 0

/-- The key under which a command keeps a piece of a granule that it consumes at another device. -/
def consumedPiece (dev lpa : Nat) : Nat := 2 ^ 71 + dev * 2 ^ 49 + lpa / 64 * 64

/-- A piece of 64 bytes that a command asks another device for (R390); a consuming fetch carries its command's number, by which its target keeps
the granule together. -/
def State.askPiece (s : State) (c : Cmd) (dev lpa : Nat) (consume : Bool) (va : Word) : State :=
  let asked := (s.core c.core).unacked.any fun u => u.kind == engineKind && u.tag == c.id && u.flit.kind == .fetch && u.flit.dst == dev
    && u.flit.addr.toNat == lpa
  if asked then s
  else s.cmdRequest c va { blankFlit .fetch dev c.part (BitVec.ofNat 64 lpa) with
    size := 64, value := BitVec.ofNat 64 (if consume then 2 * c.id + 1 else 0) }

/-- What a command needs from another device is fetched in pieces of 64 bytes: one, or the 32 of a granule that it consumes whole (R235, R390). -/
def State.fetchPiece (s : State) (c : Cmd) (dev lpa size : Nat) (va : Word) : State :=
  if size ≤ 64 then s.askPiece c dev lpa false va
  else (List.range 32).foldl (fun s i =>
    if (c.spent.get? (consumedPiece dev (lpa + 64 * i))).isSome then s else s.askPiece c dev (lpa + 64 * i) true va) s

/-- A piece that another device has given: the iteration goes on, with the whole of a granule where it consumes one. -/
def Cmd.gotPiece (c : Cmd) (dev lpa : Nat) (consume : Bool) (l : List Byte) : Cmd :=
  if !consume then { c with pieces := c.pieces.set (dev * 2 ^ 49 + lpa) l }
  else
    let spent := c.spent.set (consumedPiece dev lpa) l
    let part (i : Nat) : Option (List Byte) := spent.get? (consumedPiece dev (lpa / 2048 * 2048 + 64 * i))
    if (List.range 32).all fun i => (part i).isSome then
      { c with spent := spent.set (remoteGranule dev lpa) ((List.range 32).flatMap fun i => (part i).getD []) }
    else { c with spent := spent }

/-- A walk for an address of a command: one that is under way or a new one, or the next cycle where no walker is free (R323). -/
def State.walkCmd (s : State) (c : Cmd) (va : Word) : State :=
  match s.walkFor c.core c.part c.asid va with
  | some (t, done) => (t.putCmd { c with walked := some va, walkFault := none }).after (done - s.now) (.iterationCommit c.id)
  | none => s.after 1 (.iterationCommit c.id)

/-- A FILLING granule holds a command's read in arrival order (R196); the command looks again until it is served. -/
def State.holdRead (s : State) (c : Cmd) (key : Nat) (consume : Bool) : State :=
  let mine (h : MeltHeld) : Bool := h.cmd == some c.id
  let s := if s.melts.any fun m => m.key == key && m.held.any mine then s
    else s.holdAtMelt key 2048 { uid := c.uid, tag := 0, area := none, key := key, size := if consume then 2048 else 0, sext := false, acq := none,
                                 cmd := some c.id, flit := none }
  s.after 1 (.iterationCommit c.id)

/-- A granule that has become LIVE serves the read of a command that it has held: a consuming one takes the whole of it and one of its count
(R196, R235). -/
def State.serveRead (s : State) (id key : Nat) (consume : Bool) : State :=
  match s.runningCmd (some id), s.melts.find? fun m => m.key == key with
  | some c, some m =>
    let l := s.mem.readBytes (meltKey key) 2048
    if consume then
      if (c.spent.get? key).isSome || s.poisoned key 2048 then s
      else
        let s := s.putCmd { c with spent := c.spent.set key l }
        if m.count = 1 then s.meltGone key
        else { s with melts := s.melts.map fun x => if x.key = key then { x with count := m.count - 1 } else x }
    else
      let at_ := s.plat.device * 2 ^ 49 + key % 2 ^ 49
      s.putCmd { c with pieces := (List.range 32).foldl (fun t i => t.set (at_ + 64 * i) ((l.drop (64 * i)).take 64)) c.pieces }
  | _, _ => s

/-- ITERATION_COMMIT (R242, R252, R271). -/
def execIterationCommit (id : Nat) (s : State) : Out :=
  .next (match s.runningCmd (some id) with
    | none => s
    | some c =>
      if c.done then s.finishCmd c
      else match s.iterate c with
        | (s, c, .ok _) => if c.done then s.finishCmd c else (s.putCmd c).continueCmd c
        | (s, c, .error .wait) => (s.putCmd c).atBoundary c fun s => s.after 1 (.iterationCommit id)
        | (s, c, .error (.walk va)) => (s.putCmd c).atBoundary c fun s => s.walkCmd c va
        | (s, c, .error (.hold key consume)) => (s.putCmd c).atBoundary c fun s => s.holdRead c key consume
        | (s, c, .error (.fetch dev lpa n va)) => (s.putCmd c).atBoundary c fun s => s.fetchPiece c dev lpa n va
        | (s, c, .error (.fault d v)) => (s.putCmd c).after 0 (.engineFault id (BitVec.ofNat 5 d) v))

-- ==== completions (R246, R247) ====

/-- The completion value (R246). -/
def Cmd.value (c : Cmd) (status : Nat) : Word :=
  BitVec.ofNat 64 (bitsOf c.control 16 48 * 2 ^ 16 + c.flags.toNat * 256 + status)

/-- A completion enters its core's log of 64 entries (R246). -/
def State.logCompletion (s : State) (c : Cmd) (v : Word) : State :=
  s.modCore c.core fun x =>
    let l := x.log ++ [{ id := c.id, uid := c.uid, target := c.target, value := v, result := 0 }]
    { x with log := l.drop (l.length - 64) }

/-- A user completion interrupt for a strand; one that finds 8 pending is dropped (R247). A strand that is in no slot has no pending interrupts
(DESIGN CHOICE, log 150). -/
def State.raiseInterrupt (s : State) (uid : Nat) (value target : Word) : State :=
  match s.slotOf uid with
  | some i => (s.wake (· == i)).modSlot i fun t =>
    { t with uint := if t.uint.pending.length < 8 then { t.uint with pending := t.uint.pending ++ [(value, target)] }
                     else { t.uint with dropped := true } }
  | none => s

/-- A command leaves; so does a shared fetch that no command of is left (R251). -/
def State.delCmd (s : State) (c : Cmd) : State :=
  let cmds := s.cmds.del c.id
  { s with cmds := cmds, merged := s.merged.filter fun m => m.2.cmds.any fun i => (cmds.get? i).isSome }

/-- The user completion interrupt of a delivery, where the command asked for it (R247). -/
def State.interruptFor (s : State) (c : Cmd) (v : Word) : State :=
  if c.hasComp && c.control.getLsbD 8 then s.raiseInterrupt c.uid v c.target else s

/-- A command is delivered: its entry is free, and its strand is interrupted where it asked for that (R241, R247). -/
def State.retireCmd (s : State) (c : Cmd) (v : Word) : State := ((s.delCmd c).poke c.core c.unit 0).interruptFor c v

/-- The completion value stored to a completion word, or a part-way fault (R246). -/
def State.storeCompletion (s : State) (c : Cmd) (v : Word) : State :=
  match s.access c.who .store 8 c.target with
  | (s, .error e) => s.faultCmd c (if e.cls = 4 then 16 else 17) c.target
  | (s, .ok a) =>
    let done (s : State) : State := (s.logCompletion c v).retireCmd c v
    match a.target with
    | .hbm lpa =>
      if (s.meltAt (hbmKey c.part lpa) 8).isSome then s.faultCmd c 18 c.target
      else done (s.writeHome c.core (hbmKey c.part lpa) (wordBytes 8 v))
    | .host port x => done (s.writeHome c.core (hostKey port x) (wordBytes 8 v))
    | .control lpa =>
      match s.writeControlOk c.who lpa 8 v with
      | .error _ => s.faultCmd c 17 c.target
      | .ok _ => let ev := s.controlEvent c.who lpa 8 v; done (s.afterArg 0 ev.1 ev.2)
    | .remote dev lpa =>
      (((s.logCompletion c v).putCmd { c with sent := true }).cmdRequest c c.target
        { blankFlit .store dev c.part (BitVec.ofNat 64 lpa) with size := 8, scope := c.scope, value := v, data := wordBytes 8 v }).after 1
        (.engineCompletion c.id)

/-- The completion value of a command delivered (R246): to a word, or as a landing. -/
def State.deliverCompletion (s : State) (c : Cmd) (status : Nat) : State :=
  let v := c.value status
  if !c.hasComp then (s.logCompletion c v).retireCmd c v
  else if !c.control.getLsbD 3 then s.storeCompletion c v
  else if nameDevice c.target = s.plat.device then
    ((s.logCompletion c v).after 1 (.landingArrival
      { name := c.target, value := v, scope := c.scope, part := c.part, src := .engine c.core c.id, rel := none })).retireCmd c v
  else
    (((s.logCompletion c v).putCmd { c with sent := true }).cmdRequest c c.target
      { blankFlit .landing (nameDevice c.target) c.part c.target with value := v, scope := c.scope }).after 1 (.engineCompletion c.id)

/-- Requests of a command to other devices that are not answered. -/
def State.cmdRemoteOpen (s : State) (c : Cmd) : Bool := (s.core c.core).unacked.any fun u => u.kind == engineKind && u.tag == c.id

/-- ENGINE_COMPLETION (R241, R246): in dispatch order for each core and unit, after every write of the command is performed. -/
def execEngineCompletion (id : Nat) (s : State) : Out :=
  .next (match s.cmds.get? id with
    | none => s
    | some c =>
      if c.state ≠ .finished then s
      else if (s.queueOf c.core c.unit).any (fun x => x.id < id) || s.cmdRemoteOpen c then s.afterOnce 1 (.engineCompletion id)
      else if c.sent then s.retireCmd c (c.value 0)
      else s.deliverCompletion c 0)

-- ==== copy engines (R250, R251) ====

/-- The commands of a copy engine that it has not started, the first-arrived first. -/
def State.copyQueue (s : State) (engine : Nat) : Option Cmd :=
  (s.cmds.select fun _ c => c.unit == .copy && copyEngineOf c.core == engine && !c.held
    && decide (c.state = .waiting ∨ c.state = .suspended) && decide (c.readyAt ≤ s.now)).foldl
    (fun a p => match a with
      | none => some p.2
      | some b => if p.2.readyAt < b.readyAt then some p.2 else some b) none

/-- COPY_ENGINE_START (R250): in arrival order, at most four at once. -/
def execCopyEngineStart (engine : Nat) (s : State) : Out :=
  let running := (s.cmds.select fun _ c => c.unit == .copy && copyEngineOf c.core == engine && decide (c.state = .running)).length
  .next (if 4 ≤ running then s
    else match s.copyQueue engine with
      | none => s
      | some c =>
        if s.canStart c then (s.startCommand c 0).after 0 (.copyEngineStart engine) else s.afterOnce 1 (.copyEngineStart engine))

/-- The progress indexes of a loop nest, level 0 the fastest. -/
def nestOf : List Nat → List (List Nat)
  | [] => [[]]
  | n :: r => (nestOf r).flatMap fun p => (List.range n).map (· :: p)

/-- The addresses and sizes that a copy command reads of its source in all its iterations (R251). -/
def State.sourceReads (s : State) (c : Cmd) : List (Nat × Nat) :=
  (nestOf (tripsOf c.hl)).flatMap fun p => match s.tileOf { c with prog := p } 1 with
    | .ok t => t.addresses.map (fun a => (a % 2 ^ 64, elemBytes t.o.fmt))
        ++ (if c.readsScales 1 t.o then (List.range (t.o.scaleExtent t.down)).map fun i => (t.scale + i, 1) else [])
    | .error _ => []

/-- One number of a shared fetch, read for the first of its commands that may read it; what another device holds, and what cannot be read now,
each command's own iteration asks for. -/
def State.fetchShared (s : State) (window : Nat) (p : Nat × Nat) : List Cmd → State
  | [] => s
  | c :: r => match s.access c.who .load p.2 (BitVec.ofNat 64 p.1) with
    | (s, .ok { target := .hbm lpa, .. }) =>
      let key := hbmKey c.part lpa
      if (s.meltAt key p.2).isSome || s.poisoned key p.2 then s
      else
        let x := s.homeRead c.core key p.2
        match x.1.merged.get? window with
        | some m => { x.1 with merged := x.1.merged.set window { m with read := m.read.set p.1 (leNat x.2) } }
        | none => x.1
    | (s, _) => State.fetchShared s window p r

/-- The one fetch of a window, made when it closes (R251). -/
def State.fetchWindow (s : State) (window : Nat) (cmds : List Cmd) : State :=
  match cmds with
  | [] => s
  | c :: _ => (s.sourceReads c).foldl (fun s p => s.fetchShared window p cmds) s

/-- COMBINE_WINDOW_CLOSE (R251): the commands that the node holds go to their engines; those of one window share the one fetch that is made now. -/
def execCombineWindowClose (cluster window : Nat) (s : State) : Out :=
  .next (match (s.cluster cluster).windows.find? fun w => w.id == window with
    | none => s
    | some w =>
      let s := s.modCluster cluster fun c => { c with windows := c.windows.filter fun x => x.id != window }
      let held := w.cmds.filter fun i => (s.cmds.get? i).any (·.held)
      let group := if held.length < 2 then 0 else window
      let pass (id : Nat) (c : Cmd) : Cmd := if held.contains id then { c with held := false, group := group } else c
      let s := { s with cmds := s.cmds.map pass, merged := if group = 0 then s.merged else s.merged.set group { cmds := held, read := [] } }
      let s := if group = 0 then s else s.fetchWindow window (held.filterMap fun i => s.cmds.get? i)
      (s.after 0 (.copyEngineStart (cluster * 2))).after 0 (.copyEngineStart (cluster * 2 + 1)))

end Sys2Proof.Machine
end

