-- ==== Sys2Proof/Machine/EngineOps.lean ====
section
/-! DEFINITION. Handles, rings, leases, ENGSTAT and RESUME (R288-R294), the progress record (R243), and EXIT (R133), which also
abandons a strand's FAULTED commands (R246). -/

namespace Sys2Proof.Machine

-- ==== HSET and HGET (R288) ====

/-- An image with quarter `q` replaced. -/
def putQuarter (h : HandleImage) (q : Nat) (v : Word) : HandleImage :=
  BitVec.ofNat 256 (h.toNat - hbits h (64 * q) 64 * 2 ^ (64 * q) + v.toNat * 2 ^ (64 * q))

/-- HSET (R288): the other quarters of an IDLE handle become zero; h0 discards. -/
def execHset (d : HReg) (a : Reg) (q : BitVec 2) (xa : Bool) (g : PReg) (s : State) : Out :=
  .next (s.guarded g (s.operands [srcA a xa] [] false
    (let c := s.src.handle d
     let old := if c.mark = .full then c.val else 0
     s.goOn.modMe fun t => t.putHandle d { val := putQuarter old q.toNat (s.rd a), mark := .full })))

/-- HGET (R288). -/
def execHget (d : Reg) (a : HReg) (q : BitVec 2) (xa : Bool) (g : PReg) (s : State) : Out :=
  .next (s.guarded g (s.operands [srcH a xa] [d] true
    (s.long d .arith 2 (.val (BitVec.ofNat 64 (hbits (s.rdH a) (64 * q.toNat) 64))))))

-- ==== rings (R248, R249, R289, R290) ====

/-- The own-core, region 00 address of `n` bytes: its pool place (R289). -/
def State.ownPad (s : State) (w : Issuer) (a n : Nat) : Option (Nat × Nat) :=
  let x := withCore w.vcore a
  if 2 ^ 27 ≤ a ∨ x / 2 ^ 22 % 32 ≠ w.vcore ∨ a / 2 ^ 20 % 4 ≠ 0 then none
  else match s.localRegion w.q w.ctxKey x with
    | some (core, base, limit) => if limit < a % 2 ^ 20 + n then none else some (core, base + a % 2 ^ 20)
    | none => none

/-- Is a ring descriptor accepted (R289)? -/
def State.ringOk (s : State) (w : Issuer) (d : BitVec 256) : Bool :=
  let f := hbits d 128 4
  let bytes := hbits d 64 16 * hbits d 80 16 * 64
  hbits d 132 124 == 0 && hbits d 32 32 == 0 && decide (f < 10) && decide (hbits d 80 16 ≤ 1024) && decide (hbits d 64 16 ≤ 1024)
    && !(hbits d 80 16 == 0 && hbits d 64 16 != 0) && decide ((hbits d 96 16 * hbits d 112 16 * elemBits f + 7) / 8 ≤ hbits d 80 16 * 64)
    && hbits d 0 32 % 64 == 0 && (hbits d 64 16 == 0 || (s.ownPad w (hbits d 0 32) bytes).isSome)

/-- Does an unfinished command of a core name a ring (R248)? -/
def State.ringBusy (s : State) (core vcore rid : Nat) : Bool :=
  let names (h : HandleImage) : Bool := hKind h == 2 && hbits h 16 4 == rid
  s.cmds.any fun p => p.2.core == core && p.2.vcore == vcore && decide (p.2.state ≠ .saved) && (names p.2.hd || names p.2.ha || names p.2.hb)

/-- A ring takes a descriptor, HEAD and TAIL zero. -/
def State.setRing (s : State) (core rid : Nat) (d : BitVec 256) : State := s.modCore core fun c => { c with rings := c.rings.set rid d }

/-- RING_LOAD (R248, R289): the descriptor, whose number travels with the step, enters the ring table. -/
def execRingLoad (core ring : Nat) (s : State) : Out := .next (s.setRing core ring (BitVec.ofNat 256 (s.argAt 0)))

/-- The strand's next bundle issues no earlier than `n` cycles from now. -/
def State.delayMe (s : State) (n : Nat) : State := s.modMe fun t => { t with front := { t.front with readyAt := s.now + n } }

/-- RSET (R289): BASE is kept with the issuing strand's virtual core in place of a CORE of 31. -/
def execRset (r : BitVec 3) (a : Reg) (xa : Bool) (g : PReg) (s : State) : Out :=
  .next (s.guarded g (s.operands [srcA a xa] [] false
    (let w := s.issuer
     let at_ := (s.rd a).toNat
     match if at_ % 32 = 0 then s.ownPad w at_ 32 else none with
     | none => s.takeTrap 7 9 5
     | some (core, off) =>
       let d := BitVec.ofNat 256 (leNat (s.readPool core off 32))
       if !s.ringOk w d then s.takeTrap 7 9 5
       else if s.ringBusy s.myCore w.vcore r.toNat then s.waits
       else
         let base := withCore w.vcore (hbits d 0 32)
         let d' := BitVec.ofNat 256 (d.toNat - hbits d 0 32 + base)
         (s.goOn.delayMe 4).afterArg 0 (.ringLoad s.myCore (8 * w.vcore + r.toNat)) [d'.toNat])))

/-- RPUSH (R249, R290): a release at QUAD scope, then one more filled slot; a full ring waits. -/
def execRpush (r : BitVec 3) (g : PReg) (s : State) : Out :=
  .next (s.guarded g
    (let v := segVcore s.me.id.seg
     let d := (s.core s.myCore).rings.get 0 (8 * v + r.toNat)
     let x : Oper := { Oper.blank with head := hbits d 32 16, tail := hbits d 48 16 }
     if hbits d 64 16 = 0 then s.takeTrap 7 9 0
     else if hbits d 64 16 ≤ x.filled then s.waits
     else (s.releaseMe .quad).goOn.ringFilled s.myCore (8 * v + r.toNat)))

-- ==== leases (R245, R291) ====

/-- The current lease of a core ends after the last matrix command dispatched: only those not yet retired count. -/
def State.closeLease (s : State) (core : Nat) (marker : Option Nat) : State :=
  let open_ (id : Nat) : Nat := ((s.queueOf core .matrix).filter fun c => c.lease == id && decide (c.state ≠ .finished)).length
  s.modCore core fun c =>
    let l := c.leases
    let left := match l.cur with
      | some (id, _) => l.left.set id (open_ id)
      | none => l.left
    { c with leases := { marker := marker, cur := none, left := left } }

/-- LEASE (R291). -/
def execLease (n : BitVec 5) (g : PReg) (s : State) : Out :=
  .next (s.guarded g ((s.goOn.closeLease s.myCore (some n.toNat)).poke s.myCore .matrix 0))

/-- UNLEASE (R291). -/
def execUnlease (g : PReg) (s : State) : Out :=
  .next (s.guarded g ((s.goOn.closeLease s.myCore none).poke s.myCore .matrix 0))

-- ==== the progress record (R243) ====

/-- The AE word of a command. -/
def aeWordOf (i : Instr) : BitVec 32 :=
  match encode i with
  | some (.a w) => w
  | _ => 0

/-- The 192 bytes of a command's progress record; `state` is 3 or 4. -/
def Cmd.record (c : Cmd) (state : Nat) : List Byte :=
  leBytes 4 (aeWordOf c.ins).toNat ++ leBytes 2 c.fmt.toNat ++ leBytes 1 state ++ leBytes 1 (if state = 4 then c.detail else 0)
    ++ wordBytes 8 c.target ++ wordBytes 8 c.control ++ ((List.range 5).map fun l => leBytes 2 (c.prog.getD l 0)).flatten
    ++ leBytes 2 (c.flags.toNat * 256) ++ leBytes 4 0 ++ wordBytes 8 (if state = 4 then c.tval else 0) ++ leBytes 16 0
    ++ leBytes 32 c.hd.toNat ++ leBytes 32 c.ha.toNat ++ leBytes 32 c.hb.toNat ++ leBytes 32 c.hl.toNat

/-- A number of `n` bytes at offset `k` of a record. -/
def recNat (l : List Byte) (k n : Nat) : Nat := leNat ((l.drop k).take n)

/-- The registers of a command's word. -/
def aeRegs (i : Instr) : Option AeRegs :=
  match i with
  | .vadd hd ha hb hl sc xs | .vsub hd ha hb hl sc xs | .vmul hd ha hb hl sc xs | .vfma hd ha hb hl sc xs
  | .vmax hd ha hb hl sc xs | .vmin hd ha hb hl sc xs | .vscale hd ha hb hl sc xs | .vsel hd ha hb hl sc xs
  | .vand hd ha hb hl sc xs | .vor hd ha hb hl sc xs | .vxor hd ha hb hl sc xs | .vgather hd ha hb hl sc xs
  | .vscatter hd ha hb hl sc xs | .vcmp hd ha hb hl sc xs _ | .vshift hd ha hb hl sc xs _ | .mma hd ha hb hl sc xs
  | .mmas hd ha hb hl sc xs | .cpyg hd ha hb hl sc xs | .cpys hd ha hb hl sc xs =>
    some { hd := hd, ha := ha, hb := hb, hl := hl, sc := sc, xs := xs }
  | .vabs hd ha hl sc xs | .vneg hd ha hl sc xs | .vexp2 hd ha hl sc xs | .vlog2 hd ha hl sc xs | .vrcp hd ha hl sc xs
  | .vrsq hd ha hl sc xs | .vcvt hd ha hl sc xs | .vfill hd ha hl sc xs | .vcopy hd ha hl sc xs | .vtrans hd ha hl sc xs
  | .vred hd ha hl sc xs _ | .mdrain hd ha hl sc xs | .maccld hd ha hl sc xs | .cpy hd ha hl sc xs | .cpyr hd ha hl sc xs =>
    some { hd := hd, ha := ha, hb := 0, hl := hl, sc := sc, xs := xs }
  | .mzero hd hl sc xs => some { hd := hd, ha := 0, hb := 0, hl := hl, sc := sc, xs := xs }
  | _ => none

/-- The command that a record describes (R243, R294): none where its word is no command, a zero range is not zero, its state is
not `state`, or its progress index is out of range. One whose word has SC 0 has no completion and scope QUAD, whatever the record holds (R239). -/
def recordCmd (blank : Cmd) (l : List Byte) (states : List Nat) : Option Cmd :=
  let w := BitVec.ofNat 32 (recNat l 0 4)
  match (match decodeA w with | .ok i => (aeRegs i).map fun r => (i, r) | .error _ => none) with
  | none => none
  | some (i, r) =>
    let h (k : Nat) : HandleImage := BitVec.ofNat 256 (recNat l k 32)
    let hl := if r.hl = 0 then 0 else h 160
    let prog := (List.range 5).map fun j => recNat l (24 + 2 * j) 2
    let trips := tripsOf hl
    let c := { blank with
      unit := cmdUnit i, ins := i, fmt := BitVec.ofNat 4 (recNat l 4 2)
      target := if r.sc = 0 then 0 else BitVec.ofNat 64 (recNat l 8 8)
      control := if r.sc = 0 then 1 else BitVec.ofNat 64 (recNat l 16 8), hasComp := decide (r.sc ≠ 0), hd := h 64, ha := h 96, hb := h 128, hl := hl,
      prog := prog, flags := BitVec.ofNat 8 (recNat l 35 1), detail := recNat l 7 1, tval := BitVec.ofNat 64 (recNat l 40 8) }
    let inside := (prog.zip trips).all fun p => p.1 < p.2
    if states.contains (recNat l 6 1) && recNat l 34 1 == 0 && recNat l 36 4 == 0 && recNat l 48 16 == 0 && (inside || c.done) then some c
    else none

-- ==== ENGSTAT (R292, R293) ====

/-- The pool place of a record of 192 bytes in region 00 (R270, detail 13). -/
def State.recordPlace (s : State) (a : Nat) : Option (Nat × Nat) := if 2 ^ 27 ≤ a ∨ areaMalformed a then none else s.padAt s.src s.myCore a 192

/-- May the issuing strand see a command or a log entry of a strand (R292)? -/
def State.mayFind (s : State) (uid : Nat) : Bool :=
  uid / 2 ^ 32 == s.me.id.uid / 2 ^ 32 && (s.me.status.priv != .u || uid == s.me.id.uid)

/-- STATE of ENGSTAT's result. -/
def stateCode : CmdState → Nat
  | .waiting => 1
  | .running | .finished => 2
  | .suspended | .saved => 3
  | .faulted => 4

/-- A FAULTED command leaves its queue entry, and its lease, if that has not counted it yet (R241, R245). -/
def State.releaseEntry (s : State) (c : Cmd) : State :=
  let s := (s.delCmd c).modCore c.core fun x =>
    { x with leases := if c.unit = .matrix && !c.counted then { x.leases with left := x.leases.left.set c.lease (x.leases.left.get 0 c.lease - 1) }
                       else x.leases }
  s.poke c.core c.unit 0

/-- The number of a record by which its RESUME finds what the command had consumed (R235, R294). -/
def recordNumber (l : List Byte) : Nat := leNat l

/-- What a FAULTED command has consumed stays known under its context and its record (R235, R294); of equal records the last one written is the
first to be taken (log 68). -/
def State.keepSpent (s : State) (c : Cmd) : State :=
  let n := recordNumber (c.record 4)
  if c.spent.isEmpty && !s.spent.any fun x => x.ctx == contextKey c.part c.ctx && x.record == n then s
  else { s with spent := { ctx := contextKey c.part c.ctx, record := n, granules := c.spent } :: s.spent }

/-- What the command of a record had consumed, taken for its RESUME, or dropped with its ABANDON. -/
def State.takeSpent (s : State) (ctx : Nat) (l : List Byte) : State × Tab (List Byte) :=
  match s.spent.find? fun x => x.ctx == ctx && x.record == recordNumber l with
  | some x => ({ s with spent := s.spent.erase x }, x.granules)
  | none => (s, [])

/-- The result of ENGSTAT on a command, with the record written where it asks for that. -/
def State.engstatOn (s : State) (d : Reg) (c : Cmd) (place : Option (Nat × Nat)) : State :=
  let code := stateCode c.state
  let v := (if code = 4 then c.detail * 65536 else 0) + code
  match place with
  | some (core, off) =>
    if code = 3 ∨ code = 4 then
      let s := s.goOn.writePool core off (c.record code)
      let s := if code = 4 then (s.releaseEntry c).keepSpent c else s
      s.longWithin d .other 11 (.val (BitVec.ofNat 64 (v + 2 ^ 24)))
    else s.longWithin d .other 11 (.val (BitVec.ofNat 64 v))
  | none => s.longWithin d .other 11 (.val (BitVec.ofNat 64 v))

/-- ENGSTAT (R252, R270, R292, R293). -/
def execEngstat (d a b : Reg) (xa xb : Bool) (g : PReg) (s : State) : Out :=
  .next (s.guarded g (s.operands [srcA a xa, srcB b xb] [d] true
    (let target := s.rd a
     let w := s.rd b
     let place := if w.getLsbD 32 then s.recordPlace (bitsOf w 0 32) else none
     match s.owedFault s.me.id.uid fun c => c.target == target && s.me.status.tl == 0 with
     | some c => s.takeOwed c
     | none =>
       if w.getLsbD 32 && place.isNone then s.takeTrap 7 13 6
       else if bitsOf w 33 31 ≠ 0 then s.takeTrap 7 14 6
       else match s.cmds.find fun _ c => c.core == s.myCore && c.target == target && s.mayFind c.uid && decide (c.state ≠ .saved) with
         | some (_, c) => s.engstatOn d c place
         | none =>
           match (s.core s.myCore).log.find? fun e => e.target == target && s.mayFind e.uid with
           | some e => s.longWithin d .other 11 (.val (BitVec.ofNat 64 (e.result * 256 + 5)))
           | none => s.longWithin d .other 11 (.val 0))))

-- ==== RESUME (R294) ====

/-- The command of the issuing strand, before its record fills it. -/
def State.blankCmd (s : State) : Cmd :=
  let r : AeRegs := { hd := 0, ha := 0, hb := 0, hl := 0, sc := 0, xs := false }
  s.capturedCmd .cnop r

/-- A described command queued again: its images checked, its stride table read now, its granules consumed before known (R235,
R270, R294). One with every iteration committed has read its ring tiles. -/
def State.resumeCmd (s : State) (c : Cmd) (l : List Byte) : State :=
  match s.owedFault s.me.id.uid fun x => x.unit == c.unit && s.me.status.tl == 0 with
  | some x => s.takeOwed x
  | none =>
    if 2 ≤ (s.queueOf s.myCore c.unit).length then s.waits
    else match s.commandFail s.issuer c.ins c.hd c.ha c.hb c.hl (hKind c.hl != 0 || (match aeRegs c.ins with | some r => r.hl != 0 | none => false))
        (if c.hasComp then some (c.target, c.control) else none) with
      | some (d, o) => s.takeTrap 7 d (BitVec.ofNat 64 o)
      | none =>
        let x := s.takeSpent (contextKey c.part c.ctx) l
        let c := { c with strides := s.stridesOf s.issuer c.hl, detail := 0, tval := 0, spent := x.2, popped := c.done }
        (x.1.releaseMe c.scope).goOn.enterQueue c

/-- STATUS 1 stored to the completion word of a command; where it cannot be translated or is refused, or lies in a FILLING or LIVE granule, nothing
is stored and no trap is raised (R246, R294; DESIGN CHOICE, log 151). A store to another device leaves in the next cycle. -/
def State.abandonWord (s : State) (c : Cmd) : State :=
  let v := c.value 1
  match s.access c.who .store 8 c.target with
  | (s, .error _) => s
  | (s, .ok a) => match a.target with
    | .hbm lpa => if (s.meltAt (hbmKey c.part lpa) 8).isSome then s else s.writeHome c.core (hbmKey c.part lpa) (wordBytes 8 v)
    | .host port x => s.writeHome c.core (hostKey port x) (wordBytes 8 v)
    | .remote _ _ =>
      let e : SbEntry := { id := s.nextTag, uid := c.uid, slot := c.slot, seq := s.me.pend.seq, part := c.part, priv := c.priv, va := c.target,
                           pa := a.pa, target := a.target, bytes := wordBytes 8 v, strong := true, device := false, scope := c.scope }
      ((s.modCore c.core fun x => { x with sb := x.sb ++ [e] }).after 1 (.storePerform c.core s.nextTag)).newTag
    | .control lpa => match s.writeControlOk c.who lpa 8 v with
      | .error _ => s
      | .ok _ => let ev := s.controlEvent c.who lpa 8 v; s.afterArg 0 ev.1 ev.2

/-- ABANDON (R294): SEQ, the gathered FLAGS and STATUS 1 to the record's target, as a release at its scope, and the delivery's interrupt
(R247), which comes whether or not the word can be stored (DESIGN CHOICE, log 151). -/
def State.abandonCmd (s : State) (c : Cmd) (l : List Byte) : State :=
  if s.awaitsRemote c.scope then s.waits
  else
    let s := ((s.takeSpent (contextKey c.part c.ctx) l).1.releaseMe c.scope).goOn
    if !c.hasComp then s
    else (if c.control.getLsbD 3 then
      s.after 1 (.landingArrival { name := c.target, value := c.value 1, scope := c.scope, part := c.part, src := .ccb, rel := none })
    else s.abandonWord c).interruptFor c (c.value 1)

/-- RESUME (R243, R270, R294). -/
def execResume (a b : Reg) (xa xb : Bool) (g : PReg) (s : State) : Out :=
  .next (s.guarded g (s.operands [srcA a xa, srcB b xb] [] false
    (match if 2 ^ 27 ≤ (s.rd a).toNat then none else s.recordPlace (s.rd a).toNat with
    | none => s.takeTrap 7 13 5
    | some (core, off) =>
      match recordCmd s.blankCmd (s.readPool core off 192) [4] with
      | none => s.takeTrap 7 12 5
      | some c =>
        if bitsOf (s.rd b) 1 63 ≠ 0 then s.takeTrap 7 14 6
        else if (s.rd b).getLsbD 0 then s.abandonCmd c (s.readPool core off 192)
        else s.resumeCmd c (s.readPool core off 192))))

-- ==== EXIT (R133) ====

/-- A FAULTED command of a strand that exits: STATUS 1 to its completion word, nothing to a name; its entry is free (R246). -/
def State.dropFaulted (s : State) (c : Cmd) : State :=
  let s := s.releaseEntry c
  if c.hasComp && !c.control.getLsbD 3 then s.abandonWord c else s

/-- The strand's part in the device ends (R133): its names, its tuple waits and every other delivery to it. The next MFS that waits takes the arrival
that one of its own would have taken (R125). -/
def State.endStrand (s : State) (uid : Nat) : State :=
  let s := s.freeNames fun e => decide (e.state ≠ .free) && e.uid == uid
  let s := s.withdrawTuples false fun r => r.uid == uid
  let clear (_ : Nat) (c : Core) : Core :=
    { c with waiters := c.waiters.filter fun w => w.uid != uid
             unacked := c.unacked.filter fun u => !(u.uid == uid && u.acked) }
  let s : State := { s with cores := s.cores.map clear
                            poisons := s.poisons.filter fun p => p.1 != uid
                            owed := s.owed.filter fun o => o.1 != uid }
  match s.slotOf uid with
  | some i => s.serveMessages (coreOf i)
  | none => s

/-- EXIT (R133, R246, R387): a release at DEVICE scope toward the exit completion word. -/
def execExit (g : PReg) (s : State) : Out :=
  .next (s.guarded g
    (let t := s.me
     if t.status.ui then s.takeTrap 8 7 0
     else if s.remoteOpen s.myCore t.id.uid then s.waits
     else
       let faulted := (s.cmds.select fun _ c => c.uid == t.id.uid && decide (c.state = .faulted)).map (·.2)
       let s := faulted.foldl State.dropFaulted (s.releaseMe .device)
       ((s.endStrand t.id.uid).liveDown t.id.part t.id.ctx).leaveSlot))

end Sys2Proof.Machine
end

