-- ==== Sys2Proof/Machine/Calve.lean ====
section
/-! DEFINITION. Structures that an instruction reads whole at issue (R409), and calving (R392, R417-R419). -/

namespace Sys2Proof.Machine

-- ==== structures in memory (R409) ====

/-- The pieces of a range that lie in one 64 KiB page each: address and length. -/
def pagePieces : Nat → Nat → Nat → List (Nat × Nat)
  | 0, _, _ => []
  | f + 1, va, n =>
    if n = 0 then []
    else
      let m := min n (65536 - va % 65536)
      (va, m) :: pagePieces f (va + m) (n - m)

def piecesOf (va n : Nat) : List (Nat × Nat) := pagePieces (n / 65536 + 2) va n

/-- The parts of a range that lie in one line each: address and length. -/
def lineParts (a n : Nat) : List (Nat × Nat) :=
  (List.range ((a + n + 63) / 64 - a / 64)).map fun i =>
    let lo := max a ((a / 64 + i) * 64)
    (lo, min (a + n) ((a / 64 + i + 1) * 64) - lo)

/-- A piece that the issuing bundle has been given, if it has. -/
def State.pieceGot (s : State) (dev lpa : Nat) : Option (List Byte) :=
  (s.me.front.got.find? fun g => g.1 == dev && g.2.1 == lpa).map (·.2.2)

/-- The strand's bundle waits for a piece of a structure. -/
def State.awaitPiece (s : State) (tag : Nat) : State :=
  (s.modMe fun t => { t with front := { t.front with wait := .melt tag } }).waits

/-- A piece of a structure in another device's memory: the bundle asks for its lines one after the other, as loads (R385, R409), and goes on when
it has been given them all. -/
def State.readRemote (s : State) (va : Word) (dev lpa n : Nat) (k : State → List Byte → State) : State :=
  let parts := lineParts lpa n
  match parts.find? fun p => (s.pieceGot dev p.1).isNone with
  | none => k s (parts.flatMap fun p => (s.pieceGot dev p.1).getD [])
  | some p =>
    if !s.windowOpen s.myCore dev then s.waits
    else
      let tag := s.nextTag
      (s.newTag.awaitPiece tag).sendRequest s.myCore s.me.id.uid tag structKind va
        { blankFlit .load dev s.me.id.part (BitVec.ofNat 64 p.1) with size := p.2, scope := .device }

/-- A piece of a structure in this device's memory, as a load of the strand reads it: after the strand's own atomics of the bytes, and, where a
granule is FILLING, when its home serves it (R94, R196, R409). -/
def State.readHere (s : State) (x : Acc) (n : Nat) (k : State → List Byte → State) : State :=
  let key := targetKey s.me.id.part x.target
  let lpa := x.pa.toNat % 2 ^ 49
  if s.meetsAtomic s.me.id.part key n then s.waits
  else match s.pieceGot s.plat.device lpa with
    | some l => k s l
    | none =>
      if (s.meltAt key n).any fun m => !m.live then
        let tag := s.nextTag
        let f := { blankFlit .load s.plat.device s.me.id.part x.pa with size := n }
        (s.newTag.awaitPiece tag).holdAtMelt key n
          { uid := s.me.id.uid, tag := tag, area := none, key := key, size := n, sext := false, acq := none, cmd := none, flit := some f }
      else
        let y := s.loadBytes s.myCore s.me.id.part x n true .device
        k y.1 y.2.1

/-- Registers of control space read as a structure: one after the other, eight bytes each. -/
def State.readRegisters (s : State) (lpa : Nat) : Nat → Except Nat (List Byte)
  | 0 => .ok []
  | n + 1 => match s.readControlBytes s.whoMe lpa 8 with
    | .error d => .error d
    | .ok v => match State.readRegisters s (lpa + 8) n with
      | .error d => .error d
      | .ok l => .ok (wordBytes 8 v ++ l)

/-- Pieces of a structure read in order, each with the checks of a global load at its page. -/
def State.readPieces (s : State) (k : State → List Byte → State) : List (Nat × Nat) → List Byte → State
  | [], l => k s l
  | (a, n) :: r, l =>
    let va := BitVec.ofNat 64 a
    s.accessMe .load 1 va fun s x =>
      match x.target with
      | .control lpa => match s.readRegisters lpa ((n + 7) / 8) with
        | .error d => s.takeTrap 3 d va
        | .ok m => s.readPieces k r (l ++ m.take n)
      | .remote dev lpa => s.readRemote va dev lpa n fun s m => s.readPieces k r (l ++ m)
      | _ => s.readHere x n fun s m => s.readPieces k r (l ++ m)

/-- A structure of `n` bytes read whole at issue, with the checks of a global load of that size; `al` is its alignment (R93,
R217, R409). -/
def State.readStruct (s : State) (va : Word) (n al : Nat) (k : State → List Byte → State) : State :=
  if va.getLsbD 63 then s.takeTrap 3 1 va
  else if !aligned va.toNat al then s.takeTrap 3 0 va
  else s.readPieces k (piecesOf va.toNat n) []

/-- A number of `n` bytes at an offset of a structure. -/
def structNat (l : List Byte) (off n : Nat) : Nat := leNat ((l.drop off).take n)

def structZero (l : List Byte) (off n : Nat) : Bool := structNat l off n == 0

-- ==== features (R427) ====

/-- An instruction of a feature; where the feature is not accepted it traps as an unassigned opcode, before anything else
(R45, R427). -/
def State.needs (s : State) (bit : Nat) (k : State) : State := if s.feature bit then k else s.takeTrapNow 0 0 s.issuedWord

-- ==== the range table (R171, R392) ====

/-- The valid entries of a range table in their order. -/
def rangeEntries (t : Tab Word) : List Word := ((List.range 64).map fun i => t.get 0 i).filter fun e => e.getLsbD 31

/-- An entry into a list of entries with rising LO. -/
def insertEntry (e : Word) : List Word → List Word
  | [] => [e]
  | x :: r => if bitsOf e 32 32 < bitsOf x 32 32 then e :: x :: r else x :: insertEntry e r

/-- A table from its valid entries. -/
def rangeOf (l : List Word) : Tab Word := (List.range l.length).map fun i => (i, l.getD i 0)

/-- The entry that a table without valid entries stands for: every hash by the home table (log 23). -/
def localRange : Word := BitVec.ofNat 64 (2 ^ 31 + 2 ^ 30)

/-- The entries of a partition's table, with the one that an empty table stands for. -/
def Partition.ranges (p : Partition) : List Word :=
  let l := rangeEntries p.inRange
  if l.isEmpty then [localRange] else l

/-- A partition's table with one more entry; its generation rises (R171, R392). -/
def State.addRange (s : State) (part : Nat) (e : Word) : State :=
  s.modPart part fun p =>
    let t := rangeOf (insertEntry e p.ranges)
    { p with inRange := t, rangeTable := t, rtgen := p.rtgen + 1 }

-- ==== moving a range (R392) ====

/-- What a calving's flit to another device asks, in the place of a size: to take an entry (0), to check the new home, to know of a range that
comes, to run a calving, to end one that has been run. -/
def checkMark : Nat := 1

def runMark : Nat := 2

def doneMark : Nat := 3

def rangeMark : Nat := 4

def inRange (lo hi : Nat) (f0 f1 : BitVec 32) : Bool := let h := (homeHash f0 f1).toNat; lo ≤ h && h < hi

/-- A tuple into a list by age. -/
def addTuple (t : TupleEntry) : List TupleEntry → List TupleEntry
  | [] => [t]
  | x :: r => if t.age < x.age then t :: x :: r else x :: addTuple t r

def addWaiter (t : WaiterEntry) : List WaiterEntry → List WaiterEntry
  | [] => [t]
  | x :: r => if t.age < x.age then t :: x :: r else x :: addWaiter t r

/-- The tuples and the waiters of a range at this device's homes, in age order. -/
def State.rangeTuples (s : State) (part lo hi : Nat) : List TupleEntry :=
  s.slices.foldl (fun l x => (x.2.tuples.filter fun t => t.part == part && inRange lo hi t.f0 t.f1).foldl (fun l t => addTuple t l) l) []

def State.rangeWaiters (s : State) (part lo hi : Nat) : List WaiterEntry :=
  s.slices.foldl (fun l x =>
    (x.2.waiters.filter fun w => w.req.part == part && inRange lo hi w.req.f0 w.req.f1).foldl (fun l t => addWaiter t l) l) []

/-- The range's tuples and waiters leave their old homes. -/
def State.clearRange (s : State) (part lo hi : Nat) : State :=
  let clear (_ : Nat) (x : Slice) : Slice :=
    { x with tuples := x.tuples.filter fun t => !(t.part == part && inRange lo hi t.f0 t.f1)
             waiters := x.waiters.filter fun w => !(w.req.part == part && inRange lo hi w.req.f0 w.req.f1) }
  { s with slices := s.slices.map clear }

/-- A tuple in the form in which it moves to another device. -/
def State.movedTuple (s : State) (t : TupleEntry) (home : Nat) : TupReq :=
  { op := .dep, mode := .w, part := t.part, ctx := 0, uid := 0, core := portCore, slot := 0, tag := 0, name := 0, f0 := t.f0, f1 := t.f1,
    f2 := t.f2, f3 := t.f3, w2 := false, w3 := false, len64 := t.payload.length / 64, area := 0, payload := t.payload, sid := t.sid,
    cid := t.cid, host := none, remote := some (s.plat.device, portCore, 0), home := home, gen := 0, tries := 0, rel := none }

/-- A tuple or a waiter sent with its age to the range's new home on another device, for a calving. -/
def State.sendMoved (s : State) (id dev age : Nat) (r : TupReq) : State :=
  s.sendRequest portCore 0 id calveKind 0
    { blankFlit .tuple dev r.part (BitVec.ofNat 64 age) with tup := some r, data := r.payload, value := 1 }

/-- A range that has moved: from its calving on its home is a slice of this device, or none here (R392). -/
def State.giveRange (s : State) (part lo hi : Nat) (home : Option Nat) : State :=
  s.modPart part fun p => { p with given := (lo, hi, home) :: p.given }

/-- The new home on another device is told of the range that comes to it. -/
def State.sendRange (s : State) (id part lo hi dev slice : Nat) : State :=
  s.sendRequest portCore 0 id calveKind 0
    { blankFlit .tuple dev part (BitVec.ofNat 64 lo) with size := rangeMark, value := BitVec.ofNat 64 slice, data := leBytes 8 hi }

/-- A waiter of this device then awaits its answer from there. -/
def State.awaitAnswer (s : State) (dev : Nat) (r : TupReq) : State :=
  if r.remote.isSome ∨ r.mode = .c then s
  else
    let u : Unacked := { flit := { blankFlit .tuple dev r.part 0 with tup := some r }, uid := r.uid, tag := r.tag,
                         tval := r.f0.setWidth 64, kind := 3, sent := s.now, since := s.nextTag, acked := true, out := true, strong := false, device := false,
                         via := 0, first := s.now }
    (s.modCore r.core fun c => { c with unacked := c.unacked ++ [u] }).newTag

/-- A waiter whose request has come back to its own device's homes is one of this device, and awaits no answer of another (R184). -/
def State.comeHome (s : State) (r : TupReq) : State × TupReq :=
  match r.remote with
  | some (dev, _, _) =>
    if dev = s.plat.device then
      (s.modCore r.core fun c => { c with unacked := c.unacked.filter fun u => !(u.acked && u.uid == r.uid && u.tag == r.tag && u.flit.kind == .tuple) },
       { r with remote := none })
    else (s, r)
  | none => (s, r)

/-- The range moves to its new home with its ages, in their order (R392, steps 1 and 2). -/
def State.moveRange (s : State) (id part lo hi dev slice : Nat) : State :=
  let ts := s.rangeTuples part lo hi
  let ws := s.rangeWaiters part lo hi
  let s := s.clearRange part lo hi
  if dev = s.plat.device then
    (s.giveRange part lo hi (some slice)).modSlice slice fun x =>
      { x with tuples := ts.foldl (fun l t => addTuple t l) x.tuples
               waiters := ws.foldl (fun l w => addWaiter { w with req := { w.req with home := slice } } l) x.waiters }
  else
    let s := (s.giveRange part lo hi none).sendRange id part lo hi dev slice
    let s := ts.foldl (fun s t => s.sendMoved id dev t.age (s.movedTuple t slice)) s
    ws.foldl (fun s w =>
      let r := { w.req with home := slice, remote := some (w.req.remote.getD (s.plat.device, w.req.core, 0)) }
      (s.awaitAnswer dev w.req).sendMoved id dev w.age r) s

/-- A tuple or a waiter that arrives with its range, at its age (R183, R184, R392): what this device accepts later is younger. -/
def State.takeMoved (s : State) (age : Nat) (r : TupReq) : State :=
  let s := { s with nextAge := max s.nextAge (age / 2 ^ 15 + 1) }
  if r.op = .dep then
    let t : TupleEntry := { age := age, part := r.part, f0 := r.f0, f1 := r.f1, f2 := r.f2, f3 := r.f3, payload := r.payload, sid := r.sid,
                            cid := r.cid, taken := false, copies := 0 }
    s.modSlice r.home fun x => { x with tuples := addTuple t x.tuples }
  else
    let y := s.comeHome r
    y.1.modSlice r.home fun x => { x with waiters := addWaiter { age := age, req := y.2, serving := false } x.waiters }

-- ==== calving (R392, R418) ====

/-- The result word (R418). -/
def calveWord (gen status : Nat) : Word := BitVec.ofNat 64 (gen % 2 ^ 32 * 2 ^ 32 + status)

/-- A calving ends with its result; one that is run for another device reports there. -/
def State.endCalving (s : State) (id : Nat) (c : Calving) (status : Nat) : State :=
  let s : State := { s with calves := s.calves.del id }
  match c.origin with
  | some (dev, n) => s.sendRequest portCore 0 0 calveKind 0
      { blankFlit .tuple dev c.part (BitVec.ofNat 64 n) with size := doneMark, value := BitVec.ofNat 64 status }
  | none => s.within 1000 (.deliver c.uid c.tag (.val (calveWord (s.part c.part).rtgen.toNat status)))

/-- The entry of a range sent to a device: `size` `checkMark` asks the new home's device to check it (R418). -/
def State.sendEntry (s : State) (id : Nat) (c : Calving) (dev size : Nat) : State :=
  s.sendRequest portCore 0 id calveKind 0 { blankFlit .tuple dev c.part 0 with value := c.entry, size := size }

/-- A calving sent to the device that holds the range, which runs it and reports (R392, R418). -/
def State.sendCalving (s : State) (id : Nat) (c : Calving) : State :=
  let s : State := { s with calves := s.calves.set id { c with phase := 3 } }
  (s.sendRequest portCore 0 id calveKind 0 { blankFlit .tuple c.old c.part (BitVec.ofNat 64 id) with
    value := c.entry, size := runMark, data := leBytes 8 c.lo ++ leBytes 8 c.hi ++ c.devs.flatMap (leBytes 2) }).afterArg 10000000 .calveIncomplete
    [c.part, id]

/-- Is a tuple of a range in transfer at this device? The old homes first finish what they have begun. -/
def State.rangeBusy (s : State) (c : Calving) : Bool :=
  s.copies.any fun x => x.2.req.part == c.part && inRange c.lo c.hi x.2.req.f0 x.2.req.f1

/-- The range has moved: this device's table changes, and the named devices are told (R392, step 3). -/
def State.tellCalving (s : State) (id : Nat) (c : Calving) : State :=
  let s := s.addRange c.part c.entry
  let devs := c.devs.filter (· != s.plat.device)
  let c := { c with phase := 2, open_ := devs }
  let s := { s with calves := s.calves.set id c }
  if devs.isEmpty then s.endCalving id c 0
  else (devs.foldl (fun s d => s.sendEntry id c d 0) s).afterArg 10000000 .calveIncomplete [c.part, id]

/-- Are entries of a calving's range on their way? -/
def State.movesOpen (s : State) (id : Nat) : Bool :=
  (s.core portCore).unacked.any fun u => u.kind == calveKind && u.tag == id && (u.flit.tup.isSome || u.flit.size == rangeMark)

/-- The range moves: its old homes match no request of it from now on, and the tables change only when the new home has everything, so that
no request sees a range of which a part has moved (R392). -/
def State.runCalving (s : State) (id : Nat) (c : Calving) : State :=
  let c := { c with phase := 1 }
  let s := { s with calves := s.calves.set id c }
  if s.rangeBusy c then s.afterArg 1 .calveIncomplete [c.part, id, 1]
  else
    let s := s.moveRange id c.part c.lo c.hi (bitsOf c.entry 15 15) (bitsOf c.entry 7 8)
    if s.movesOpen id then s else s.tellCalving id c

/-- A moved entry is at its new home, or lost on the way. -/
def State.movedReply (s : State) (id : Nat) : State :=
  match s.calves.get? id with
  | none => s
  | some c => if c.phase = 1 && !s.movesOpen id then s.tellCalving id c else s

/-- A device has answered a calving, or its answer has failed. -/
def State.calveReply (s : State) (id dev : Nat) (ok : Bool) : State :=
  match s.calves.get? id with
  | none => s
  | some c =>
    if c.phase = 0 then (if !ok then s.endCalving id c 4 else if c.old = s.plat.device then s.runCalving id c else s.sendCalving id c)
    else if c.phase = 3 then (if ok then s else s.endCalving id c 5)
    else if !ok then s
    else
      let c := { c with open_ := c.open_.erase dev }
      if c.open_.isEmpty then s.endCalving id c 0 else { s with calves := s.calves.set id c }

/-- CALVE_INCOMPLETE (R418): partition and calving travel in the step's numbers; a device that has not answered in 10 ms leaves
its table unchanged. With a third number it is a calving that has waited for the range's transfers. -/
def execCalveIncomplete (s : State) : Out :=
  .next (match s.calves.get? (s.argAt 1) with
    | some c =>
      if c.part ≠ s.argAt 0 then s
      else if s.argAt 2 = 1 then (if c.phase = 1 then s.runCalving (s.argAt 1) c else s)
      else if (c.phase = 2 ∧ !c.open_.isEmpty) ∨ c.phase = 3 then s.endCalving (s.argAt 1) c 5 else s
    | none => s)

/-- What another device's calving asks of this device (R392, R418): to check that the new home is a slice of the partition here, to know of a range
that comes to it, to run a calving of a range that is here, to end one that has been run, or to take an entry into its range table, which it
refuses where the table is full. -/
def State.takeCalving (s : State) (f : Flit) : Option State :=
  let p := s.part f.part
  let e := f.value
  if f.size = checkMark then (if p.slices.contains (bitsOf e 7 8) then some s else none)
  else if f.size = rangeMark then some (s.giveRange f.part f.addr.toNat (structNat f.data 0 8) (some (e.toNat % 256)))
  else if f.size = runMark then
    let devs := (List.range ((f.data.length - 16) / 2)).map fun i => structNat f.data (16 + 2 * i) 2
    let c : Calving := { part := f.part, uid := 0, tag := 0, lo := structNat f.data 0 8, hi := structNat f.data 8 8, entry := e, devs := f.src :: devs,
                         open_ := [], phase := 1, old := s.plat.device, origin := some (f.src, f.addr.toNat) }
    some (s.newTag.runCalving s.nextTag c)
  else if f.size = doneMark then
    match s.calves.get? f.addr.toNat with
    | some c => if c.phase = 3 && c.old == f.src then some (s.endCalving f.addr.toNat c e.toNat) else some s
    | none => some s
  else if p.ranges.contains e then some s
  else if 64 ≤ (rangeEntries p.inRange).length then none
  else some (s.addRange f.part e)

/-- A new home's entry from the range descriptor (R171, R417). -/
def descEntry (l : List Byte) : Word :=
  BitVec.ofNat 64 (structNat l 0 4 * 2 ^ 32 + 2 ^ 31 + structNat l 8 2 * 2 ^ 15 + structNat l 10 1 * 2 ^ 13 + structNat l 11 1 * 2 ^ 9
    + structNat l 12 1 * 2 ^ 7)

/-- The devices that a range descriptor names. -/
def descDevices (l : List Byte) : List Nat := (List.range (structNat l 16 2)).map fun i => structNat l (24 + 2 * i) 2

/-- Is the range descriptor without error (R417, R418)? -/
def descOk (l : List Byte) : Bool :=
  let dev := structNat l 8 2
  let n := structNat l 16 2
  structZero l 4 4 && dev < 16416 && structNat l 10 1 < 4 && structNat l 11 1 < 16 && structNat l 12 1 < 4 && structZero l 13 3
    && n ≤ 20 && structZero l 18 6 && (descDevices l).all (· < 16416)
    && (List.range 20).all fun i => i < n || structZero l (24 + 2 * i) 2

/-- The split of a range-table entry by a descriptor: a status that ends it at once, or the calving. -/
def State.calvingOf (s : State) (part uid tag : Nat) (l : List Byte) : Except Nat Calving :=
  let p := s.part part
  let m := structNat l 0 4
  if !descOk l then .error 1
  else if p.ranges.any fun e => bitsOf e 32 32 == m then .error 2
  else if 64 ≤ p.ranges.length then .error 3
  else
    let e := descEntry l
    if bitsOf e 15 15 = s.plat.device ∧ !p.slices.contains (bitsOf e 7 8) then .error 4
    else
      let old := match rangeEntry p.inRange m with
        | some x => if x.getLsbD 30 then s.plat.device else bitsOf x 15 15
        | none => s.plat.device
      .ok { part := part, uid := uid, tag := tag, lo := m, hi := rangeEnd p.inRange m, entry := e, devs := descDevices l, open_ := [], phase := 0,
            old := old, origin := none }

/-- Is a calving of a partition still to change this device's table? The next one acts on the table that it leaves (R419). -/
def State.calvingOpen (s : State) (part : Nat) : Bool := s.calves.any fun c => c.2.part == part && c.2.phase != 2

/-- CALVE (R392, R418). -/
def execCalve (d a : Reg) (xa : Bool) (g : PReg) (s : State) : Out :=
  .next (s.needs 6 (s.guarded g (s.operands [srcA a xa] [d] true
    (s.readStruct (s.rd a) 64 64 fun s l =>
      let t := s.me
      if s.calvingOpen t.id.part then s.waits
      else match s.calvingOf t.id.part t.id.uid s.nextTag l with
      | .error n => s.longWithin d .other 1000 (.val (calveWord (s.part t.id.part).rtgen.toNat n))
      | .ok c =>
        if s.rangeBusy c then s.waits
        else
          let id := s.nextTag
          let home := bitsOf c.entry 15 15
          let s := s.goOn.startLong d .other
          if home ≠ s.plat.device then ({ s with calves := s.calves.set id c } : State).sendEntry id c home checkMark
          else if c.old = s.plat.device then s.runCalving id c
          else s.sendCalving id c))))

end Sys2Proof.Machine
end

