-- ==== Sys2Proof/Machine/Control.lean ====
section
/-! DEFINITION. Control flow, windows and literals (R13-R17, R84-R91). -/

namespace Sys2Proof.Machine

/-- The strand goes on at `pc`; its next bundle is ready `delay` cycles after this one (R86). -/
def State.jumpTo (s : State) (pc : Word) (delay : Nat) : State :=
  (s.withFlow .jump).modMe fun t => { t with pc := pc, front := { t.front with readyAt := s.now + delay } }

/-- PC + 8 x sign_extend(OFF20) (R42). -/
def cbTarget (pc : Word) (off : BitVec 20) : Word := pc + off.signExtend 64 * 8

/-- Is a CB instruction taken (R42)? -/
def State.cbTaken (s : State) (p : PReg) (n : Bool) : Bool := s.src.pred p != n

/-- CNOP (R84). -/
def execCnop (s : State) : Out := .next s.goOn

/-- BR (R85, R86): the fetcher expects fall-through. What follows a bundle at 0x7FFFFFFFFFFFFFF8 the rules leave open (R28): a not-taken one
goes on at PC + 8 and faults in the fetch (DESIGN CHOICE, log 139). -/
def execBr (p : PReg) (n : Bool) (off : BitVec 20) (s : State) : Out :=
  .next (if s.cbTaken p n then s.jumpTo (cbTarget s.me.pc off) 3 else s.jumpTo (s.me.pc + 8) 1)

/-- JMP (R85, R86): the fetcher expects the target. -/
def execJmp (p : PReg) (n : Bool) (off : BitVec 20) (s : State) : Out :=
  .next (if s.cbTaken p n then s.jumpTo (cbTarget s.me.pc off) 1 else s.jumpTo (s.me.pc + 8) 3)

-- ==== windows ====

/-- The number of frames that a window store share holds (R17). -/
def Slot.spillLimit (t : Slot) : Nat := t.share / 144

/-- Is a physical frame free (R13, R14)? -/
def Slot.frameFree (t : Slot) : Bool := t.depth - t.oldest + 1 < 4

/-- The local address at which the next spilled frame would begin: CORE 31, REGION 01 (R17). -/
def Slot.overflowAddr (t : Slot) : Word := BitVec.ofNat 64 (31 * 2 ^ 22 + 2 ^ 20 + (t.shareBase + 144 * t.oldest) % 2 ^ 20)

/-- The window's move of CALL: depth, return slot, and the fresh s16-s31 IDLE (R13, R87). -/
def Slot.pushFrame (t : Slot) (ret : Word) : Slot :=
  let d := t.depth + 1
  let t := { t with depth := d, rets := t.rets.set (d % 4) ret (Nat.mod_lt _ (by decide)) }
  (List.range 16).foldl (fun t i => t.putAbs (16 * d + 16 + i) RegCell.idle) t

/-- A name of a register of a frame that no longer is designates none. -/
def MintEntry.unbindAbove (uid lo : Nat) (e : MintEntry) : MintEntry :=
  if (decide (e.state = .reg) && e.uid == uid && decide (lo ≤ e.reg)) = true then { e with reg := 0 } else e

/-- Deliveries and names that designate a register of a frame that no longer is, above `lo`, designate none (R16, R13). -/
def State.dropAbove (s : State) (lo : Nat) : State :=
  let uid := s.me.id.uid
  let s := s.modMe fun t => { t with pend := { t.pend with out := t.pend.out.map fun o => if lo ≤ o.reg then { o with reg := 0 } else o } }
  { s with cores := s.cores.map fun _ c => { c with mint := c.mint.map fun _ e => e.unbindAbove uid lo } }

/-- May the banks make a move of the issuing slot's window wait (R14): another port, or another strand of the core? -/
def State.moveShared (s : State) : Bool :=
  s.bankShared s.myCore || s.slots.any fun t => decide (t.2.phase = .live) && coreOf t.1 == s.myCore && t.1 != s.cur

/-- A move of the window store is asked for, once, and the bundle waits for it: 144 bytes at 32 for each cycle take 5 cycles, to which the banks'
other users add a free number, 50 in all (R14, log 115). -/
def State.askMove (s : State) (e : Instr) : State :=
  if s.me.front.moving then s.waits
  else (((s.after (5 + (if s.moveShared then s.choose 46 else 0)) e).bump).modMe fun t => { t with front := { t.front with moving := true } }).waits

/-- CALL and CALLR from the spill step onward (R87): overflow of the window stack, the wait for a spill, the new frame. -/
def State.callTo (s : State) (target : Word) (delay : Nat) : State :=
  let t := s.me
  if t.frameFree = true then
    let s := s.dropAbove (16 * (t.depth + 1) + 16)
    (s.modMe fun t => t.pushFrame (t.pc + 8)).jumpTo target delay
  else if t.spillLimit < t.oldest + 1 then s.takeTrap 3 14 t.overflowAddr
  else s.askMove (.windowSpill s.cur)

/-- CALL (R87): one that is not taken neither waits nor traps. -/
def execCall (p : PReg) (n : Bool) (off : BitVec 20) (s : State) : Out :=
  .next (if s.cbTaken p n then s.callTo (cbTarget s.me.pc off) 1 else s.jumpTo (s.me.pc + 8) 3)

/-- The checks of a computed target (R88): bit 63, then alignment, as a fetch (class 3, kind 2). -/
def State.checkTarget (s : State) (t : Word) (k : State) : State :=
  if t.getLsbD 63 then s.takeTrap 3 17 t
  else if t.toNat % 8 ≠ 0 then s.takeTrap 3 16 t
  else k

/-- JMPR (R88). -/
def execJmpr (a : Reg) (xa : Bool) (g : PReg) (s : State) : Out :=
  .next (s.guarded g (s.operands [srcA a xa] [] false (s.checkTarget (s.rd a) (s.jumpTo (s.rd a) 3))))

/-- CALLR (R88): the target is checked before any window change. -/
def execCallr (a : Reg) (xa : Bool) (g : PReg) (s : State) : Out :=
  .next (s.guarded g (s.operands [srcA a xa] [] false (s.checkTarget (s.rd a) (s.callTo (s.rd a) 3))))

/-- RET (R89): the return at depth 0 traps with its word (R45) before the guard is looked at; a caller frame that is not resident is filled
first (R14). -/
def execRet (g : PReg) (s : State) : Out :=
  let t := s.me
  .next (if t.depth = 0 then s.takeTrapNow 0 7 s.issuedWord
    else s.guarded g
      (if t.depth ≤ t.oldest then s.askMove (.windowFill s.cur)
       else (s.modMe fun t => { t with depth := t.depth - 1 }).jumpTo (t.rets.get ⟨t.depth % 4, Nat.mod_lt _ (by decide)⟩) 3))

/-- WINDOW_SPILL (R14-R17): the oldest resident frame moves into the slot's window stack; the poison marks of its registers stay known
(R318). -/
def execWindowSpill (i : Nat) (s : State) : Out :=
  let t := s.slot i
  .next (if t.front.moving && decide (t.phase = .live) then
      let s := s.unmark t.id.uid fun r => decide (8 + 16 * t.oldest ≤ r ∧ r < 24 + 16 * t.oldest) && !(t.absCell r).poison
      (s.writePool (coreOf i) (t.spillAt t.oldest) (t.frameImage t.oldest)).modSlot i fun t =>
        { t with oldest := t.oldest + 1, front := { t.front with moving := false } }
    else s)

/-- WINDOW_FILL (R14, R16): the youngest spilled frame moves back with the states it was spilled with. -/
def execWindowFill (i : Nat) (s : State) : Out :=
  let t := s.slot i
  .next (if t.front.moving && decide (t.phase = .live) && t.oldest != 0 then
      let f := t.oldest - 1
      let image := s.readPool (coreOf i) (t.spillAt f) 144
      s.modSlot i fun t => let t := t.loadFrame f image (s.marked t.id.uid)
        { t with oldest := f, front := { t.front with moving := false } }
    else s)

-- ==== literals (R91) ====

/-- LIT (R91). -/
def execLit (d : Reg) (g : PReg) (v : BitVec 32) (s : State) : Out :=
  .next (s.guarded g (s.operands [] [d] false (s.short d (v.signExtend 64))))

/-- LITH (R91): D is also a source without an X-bit. -/
def execLith (d : Reg) (g : PReg) (v : BitVec 32) (s : State) : Out :=
  .next (s.guarded g (s.operands [srcPlain d] [d] false (s.short d (v ++ BitVec.extractLsb' 0 32 (s.rd d)))))

end Sys2Proof.Machine
end

