-- ==== Sys2Proof/Machine/Fabric.lean ====
section
/-! DEFINITION. The Dzidar fabric: the target's side of a request (R385, R386, R388), the source's side of its outcome
(R387-R391), links (R378-R384), and FFENCE (R410, R411). -/

namespace Sys2Proof.Machine

-- ==== the target: performing one request (R385) ====

/-- What the target answers to a request. -/
structure Reply where
  kind  : FlitKind
  value : Word
  data  : List Byte
deriving DecidableEq, Repr

def Reply.ack : Reply := { kind := .acknowledge, value := 0, data := [] }

/-- A refusal with its class 10 reason (R389); 6 says that a consuming fetch met an ORDINARY granule (R196). -/
def Reply.refuse (reason : Nat) : Reply := { kind := .refusal, value := BitVec.ofNat 64 reason, data := [] }

/-- May a device of this group reach a partition, by its FADMIT table (R385)? -/
def State.admits (s : State) (part dev : Nat) : Bool :=
  ((s.part part).fadmit.get 0 (groupOf dev / 64)).getLsbD (groupOf dev % 64)

/-- The storage of this device that a request names in its partition (R385). -/
def State.servedTarget (s : State) (f : Flit) : Option Target :=
  match s.resolve { core := portCore, part := f.part, asid := 0, priv := .u } false
    (BitVec.ofNat 64 (s.plat.device * 2 ^ 49 + f.addr.toNat % 2 ^ 49)) with
  | .ok (.hbm a) => some (.hbm a)
  | .ok (.host p a) => some (.host p a)
  | _ => none

-- ==== the sources that this device serves (R386, R388) ====

def FabSource.blank : FabSource := { epoch := 0, next := 0, held := [], kept := [], half := none, snaps := [] }

/-- The key of a flit's source core. -/
def sourceKey (f : Flit) : Nat := f.src * 2048 + f.core % 2048

def State.source (s : State) (k : Nat) : FabSource := s.fab.sources.get FabSource.blank k

def State.setSource (s : State) (k : Nat) (x : FabSource) : State := { s with fab := { s.fab with sources := s.fab.sources.set k x } }

/-- Is a fetch one piece of a granule that a command consumes (R390)? -/
def consumes (f : Flit) : Bool := f.kind == .fetch && f.value.getLsbD 0

/-- The command of a consuming fetch at its source. -/
def consumer (f : Flit) : Nat := f.value.toNat / 2

/-- A piece of a granule that a consuming fetch takes (R196, R390): the first one takes one of the granule's count and keeps its bytes for the
others, which follow it in order. None while the granule is FILLING. -/
def State.serveConsume (s : State) (f : Flit) (key : Nat) : Option (State × Reply) :=
  let gran := key / 2048 * 2048
  let k := sourceKey f
  let mine (e : Nat × Nat × List Byte) : Bool := e.1 == consumer f && e.2.1 == gran
  let piece (l : List Byte) : Reply := { kind := .response, value := 0, data := (l.drop (key % 2048)).take 64 }
  match (s.source k).snaps.find? mine with
  | some e =>
    let x := s.source k
    some (if key % 2048 = 1984 then s.setSource k { x with snaps := x.snaps.filter fun e => !mine e } else s, piece e.2.2)
  | none => match s.melts.find? fun m => m.key == gran with
    | none => some (s, .refuse 6)
    | some m =>
      if !m.live then none
      else if s.poisoned (meltKey gran) 2048 then some (s, .refuse 5)
      else
        let l := s.mem.readBytes (meltKey gran) 2048
        let s := if m.count = 1 then s.meltGone m.key
          else { s with melts := s.melts.map fun x => if x.key = m.key then { x with count := m.count - 1 } else x }
        let x := s.source k
        some (s.setSource k { x with snaps := x.snaps ++ [(consumer f, gran, l)] }, piece l)

/-- A load, store, atomic, RED, flagged fence or operand fetch at its home (R385, R410); none while a granule is FILLING. Between an atomic's
load and its store no other write comes (R212). -/
def State.serveMemory (s : State) (f : Flit) (t : Target) : Option (State × Reply) :=
  let key := targetKey f.part t
  let granule := match t with
    | .hbm _ => s.meltAt key f.size
    | _ => none
  match f.kind with
  | .load | .fetch =>
    if consumes f then s.serveConsume f key
    else if granule.any fun m => !m.live then none
    else if s.poisoned key f.size then some (s, .refuse 5)
    else
      let x := s.homeRead deviceCore key f.size
      some (x.1, { kind := .response, value := leWord (x.2.take 8), data := x.2 })
  | .store | .ffence =>
    if granule.isSome then some (s, .refuse 2) else some (s.writeHome deviceCore key f.data, .ack)
  | .atomic | .red =>
    if granule.isSome then some (s, .refuse 2)
    else if s.poisoned key f.size then some (s, .refuse 5)
    else match f.rmw with
      | none => some (s, .refuse 2)
      | some r =>
        let x := (s.closeSplits deviceCore 0 key f.size).homeRead deviceCore key f.size
        let old := leWord x.2
        let s := match rmwNew r f.core f.size old f.value with
          | some v => x.1.writeHome deviceCore key (wordBytes f.size v)
          | none => x.1
        some (s, { kind := .response, value := rmwOld r f.size old, data := [] })
  | _ => some (s, .refuse 2)

-- ==== requests that end (R389) ====

/-- The reason by which a requester's port leaves a selection with its home until the context holds its core again (R230, log 121). -/
def notYet : Nat := 7

/-- A request of a core is over; those that have waited for it leave. -/
def State.forgetRequest (s : State) (core : Nat) (u : Unacked) : State :=
  (s.modCore core fun c => { c with unacked := c.unacked.erase u }).pump core

/-- A request of a tuple counts no more among its core's 64. -/
def State.tupleGone (s : State) (u : Unacked) : State :=
  match u.flit.kind, u.flit.tup with
  | .tuple, some r => s.tupleOver r
  | _, _ => s

/-- A calving's request has an answer, or none: a moved entry or range is over, another one is the other device's answer. -/
def State.calvingAnswered (s : State) (u : Unacked) (ok : Bool) : State :=
  if u.flit.tup.isSome || u.flit.size == rangeMark then s.movedReply u.tag else s.calveReply u.tag u.flit.dst ok

/-- A request ends with a reason of R389: the strand's failure is owed to it and its destination is IDLE; a SUSPEND's store sets
its strand free; a command is FAULTED; an answer's take returns, or waits for its context (R230); a run is LOST; a .C request is counted as
lost (R391); a continuation whose record cannot be read is refused (R192); a host record is sent again (R373). -/
def State.failRequest (s : State) (core : Nat) (u : Unacked) (reason : Nat) : State :=
  let s := (s.forgetRequest core u).tupleGone u
  if flitIsCont u.flit then { s with fab := { s.fab with lost := s.fab.lost + 1 } }
  else if u.kind = engineKind then s.after 0 (.engineFault u.tag (if reason = 6 then 18 else 20) u.tval)
  else if u.kind = answerKind then
    (if reason = notYet then s.after 64 (.tupleDeliveryDone u.tag) else s.finishCopy u.tag false)
  else if u.kind = contKind then s.contAnswer u.tag none
  else if u.kind = pealKind then
    match u.flit.peal with
    | some p => if p.notice = 0 then s.after 0 (.pealNotice u.flit.part p.group p.seq true) else s
    | none => s
  else if u.kind = calveKind then s.calvingAnswered u false
  else if u.uid = 0 then
    match u.flit.tup with
    | some r => if r.host.isSome then s.after 1024 (.depositResend r) else s
    | none => s
  else
    let s := s.owe u.uid (if u.kind = structKind then 0 else u.kind) reason u.tval
    (s.waitFailed u.uid u.tag).deliverTo u.uid u.tag .idle

-- ==== tuple requests and their answers (R391) ====

/-- A tuple request of another device handed to its home's match engine (R173, R386). -/
def State.handTuple (s : State) (f : Flit) (r : TupReq) : State :=
  if f.value = 1 then s.takeMoved f.addr.toNat r
  else
    let r := { r with remote := some (f.src, f.core, f.seq.toNat), rel := none }
    s.arrive 1 (match r.op with
      | .dep => .depositAtHome r
      | .cancel => .cancelAtHome r
      | _ => .matchAtHome r)

/-- The request of this device that a home's answer is for: taken by a home, its answer still to come, from that home or, for a waiter that a calving
has moved on, from its new one (R184, R392). -/
def State.awaiting (s : State) (r : TupReq) : Option Unacked :=
  (s.core r.core).unacked.find? fun u => u.acked && u.flit.kind == .tuple && u.uid == r.uid && u.tag == r.tag

/-- The forward of a HOMEMOVED answer enters the forward cache of the requester's stop, 32 entries (R392). -/
def State.installForward (s : State) (q part : Nat) (l : List Byte) : State :=
  if l.isEmpty then s
  else s.modCluster q fun c => { c with fwd := ((part, structNat l 8 8, leWord (l.take 8)) :: c.fwd).take 32 }

/-- A home's answer delivered at its requester (R178, R184, R391). -/
def State.giveAnswer (s : State) (f : Flit) (r : TupReq) : State :=
  let sc := remoteScope s.plat.device f.src
  let own := { r with remote := none, host := none }
  let result (s : State) : State :=
    if r.mode = .c then (s.landAt r.part r.name f.value sc).1
    else (s.tupleOver own).deliverTo r.uid r.tag (if f.value = tupleWord matchStatus r.len64 ∨ !f.data.isEmpty then .acq f.value sc else .val f.value)
  if bitsOf f.value 0 8 = movedStatus ∧ r.tries < 15 then
    (s.installForward (clusterOf r.core) r.part f.data).after 0 (.homemoved { own with host := r.host })
  else if r.host.isSome then s.tupleAnswer { own with host := r.host } (bitsOf f.value 0 8) 0
  else if f.data.isEmpty then result s
  else if r.mode ≠ .c ∧ (s.outOf r.uid r.tag).isNone then s
  else result (s.writeArea own f.data)

/-- Does an answer bring a payload for an area whose core the requester's context does not hold now (R230)? A .P delivery, for which a pre-emption
waits, is taken while the context is being saved (R328). -/
def State.answerEarly (s : State) (f : Flit) (r : TupReq) : Bool :=
  !f.data.isEmpty && bitsOf f.value 0 8 != movedStatus && r.host.isNone && !s.holdsFor r

/-- A home's answer reaches its requester's port (R391): a host record's is counted (R373), a withdrawal that has missed its home is sent on (R172);
one that nobody awaits is refused, so that a taken tuple returns. -/
def State.serveAnswer (s : State) (f : Flit) (r : TupReq) : State × Reply :=
  if f.size = resetMark then
    (match s.awaiting r with
      | some u => s.failRequest r.core u 3
      | none => if r.host.isSome then s.after 1024 (.depositResend { r with remote := none }) else s, .ack)
  else if r.host.isSome || (isWithdrawal r && bitsOf f.value 0 8 == movedStatus) then (s.giveAnswer f r, .ack)
  else if r.mode = .c then
    match s.findName r.part r.name with
    | .error _ => (s, .refuse 2)
    | .ok _ => if s.answerEarly f r then (s, .refuse notYet) else (s.giveAnswer f r, .ack)
  else match s.awaiting r with
    | none => (s, .refuse 2)
    | some u =>
      if s.answerEarly f r then (s, .refuse notYet)
      else ((s.modCore r.core fun c => { c with unacked := c.unacked.erase u }).giveAnswer f r, .ack)

/-- One request performed at this device (R385, R389, R391); none where it cannot be performed yet. -/
def State.serve (s : State) (f : Flit) : Option (State × Reply) :=
  let p := s.part f.part
  if !s.admits f.part f.src then some (s, .refuse 2)
  else if !p.active then some (s, .refuse 3)
  else match f.kind, f.tup, f.peal with
    | .tuple, some r, _ => some (s.handTuple f r, .ack)
    | .tuple, none, _ =>
      match s.takeCalving f with
      | some s => some (s, .ack)
      | none => some (s, .refuse 2)
    | .landing, some r, _ => some (s.serveAnswer f r)
    | .landing, none, _ =>
      let x := s.landAt f.part f.addr f.value f.scope
      some (x.1, { kind := .response, value := BitVec.ofNat 64 x.2, data := [] })
    | .collective, _, some x =>
      some (s.after 0 (if x.notice = 0 then .pealArrival f.part x else .pealNotice f.part x.group x.seq (x.notice == 2)), .ack)
    | .collective, _, none => some (s.after 0 (.pealNotice f.part (bitsOf f.value 0 24) (bitsOf f.value 24 32) (f.value.getLsbD 56)), .ack)
    | _, _, _ => match s.servedTarget f with
      | none => some (s, .refuse 2)
      | some t => s.serveMemory f t

-- ==== the target: order and duplicates (R386, R388) ====

/-- Is epoch `a` later than `b`, modulo 2^8? -/
def laterEpoch (a b : BitVec 8) : Bool := decide (1 ≤ (a - b).toNat) && decide ((a - b).toNat < 128)

def State.dropFlit (s : State) : State := { s with fab := { s.fab with dropped := s.fab.dropped + 1 } }

/-- Does the step's first number say that the link's tag check has failed (R431, log 134)? -/
def State.forged (s : State) : Bool := s.argAt 0 == 1

/-- A flit or packet whose tag fails is counted in LINKEV, which saturates (R431, R432). -/
def State.countForged (s : State) : State :=
  { s with plat := { s.plat with linkev := putBits s.plat.linkev 16 16 (min (bitsOf s.plat.linkev 16 16 + 1) 0xffff) } }

def State.tagFailed (s : State) : State := s.countForged.dropFlit

/-- The response flit of a request. -/
def State.responseTo (s : State) (f : Flit) (r : Reply) : Flit :=
  { f with kind := r.kind, vc := 1, hop := 0, src := s.plat.device, dst := f.src, value := r.value, data := r.data, rmw := none, tup := none,
           peal := none }

/-- The request of a source that comes next. -/
def FabSource.head (x : FabSource) : Option Flit := x.held.find? fun f => f.seq == x.next

/-- Is an atomic of another device one that its scope lets act as a load and a later store toward other devices (R212, R421)? -/
def divisible (f : Flit) : Bool := (f.kind == .atomic || f.kind == .red) && decide (f.scope.code ≤ 4)

/-- Do a scope and a core of a device contain another of its cores, as that device numbers them (R120)? -/
def portScope (sc : Scope) (a b : Nat) : Bool :=
  match sc with
  | .core => a == b
  | .quad => quadOf a == quadOf b
  | .cluster => clusterOf a == clusterOf b
  | .die => dieOf a == dieOf b
  | _ => true

/-- Is a request one that may not fall between the load and the store of another core's atomic: a store in its scope, or an atomic where each has
the other in its own (R212)? -/
def State.divides (s : State) (f : Flit) : Bool :=
  let writes := f.kind == .store || f.kind == .ffence
  let atomic := f.kind == .atomic || f.kind == .red
  s.fab.sources.any fun e => e.1 != sourceKey f && e.2.half.isSome && match e.2.head with
    | some g => g.src == f.src && g.part == f.part && overlaps (g.addr.toNat % 2 ^ 49) g.size (f.addr.toNat % 2 ^ 49) f.size
        && portScope g.scope g.core f.core && (writes || (atomic && portScope f.scope f.core g.core))
    | none => false

/-- What an atomic of another device reads at its home now. -/
def State.halfRead (s : State) (f : Flit) : Option Word :=
  (s.servedTarget f).map fun t => leWord (s.homeRead deviceCore (targetKey f.part t) f.size).2

/-- The store of an atomic of another device that has read `old`. -/
def State.halfStore (s : State) (f : Flit) (old : Word) : State :=
  match s.servedTarget f, f.rmw with
  | some t, some r => match rmwNew r f.core f.size old f.value with
    | some v => s.writeHome deviceCore (targetKey f.part t) (wordBytes f.size v)
    | none => s
  | _, _ => s

/-- A request that meets a FILLING granule is held there in arrival order (R196), once. -/
def State.holdFlit (s : State) (f : Flit) : State :=
  match s.servedTarget f with
  | none => s
  | some t =>
    let key := targetKey f.part t
    if s.melts.any fun m => m.held.any fun h => h.uid == 0 && h.flit == some f then s
    else s.holdAtMelt key f.size
      { uid := 0, tag := 0, area := none, key := key, size := f.size, sext := false, acq := none, cmd := none, flit := some f }

/-- A request of a source is performed: its answer leaves, and is kept with the last 256 (R388). -/
def State.finishRequest (s : State) (k : Nat) (f : Flit) (r : Reply) : State :=
  let g := s.responseTo f r
  let x := s.source k
  let kept := x.kept ++ [(f.seq, g)]
  (s.setSource k { x with next := x.next + 1, held := x.held.erase f, half := none, kept := kept.drop (kept.length - 256) }).answerTo g

/-- Requests of one source performed in SEQ order as far as they are there (R386). One that meets a FILLING granule waits there; one that would
divide another core's atomic waits for it. -/
def State.performSource (s : State) (k : Nat) : Nat → State
  | 0 => s
  | n + 1 =>
    match (s.source k).head with
    | none => s
    | some f =>
      if s.divides f then s.after 1 (.fabricRequest f)
      else
        let half := (s.source k).half
        let split := divisible f && half.isNone && s.coin
        let s := if divisible f && half.isNone then s.bump else s
        match s.serve f with
        | none => s.holdFlit f
        | some (t, r) =>
          if r.kind ≠ .response then (t.finishRequest k f r).performSource k n
          else match half, f.rmw with
            | some old, some m => ((s.halfStore f old).finishRequest k f { r with value := rmwOld m f.size old }).performSource k n
            | _, _ =>
              if split then (s.setSource k { s.source k with half := s.halfRead f }).within 4 (.fabricRequest f)
              else (t.finishRequest k f r).performSource k n

/-- The KINDs that ask a target for something (R379). -/
def isRequest : FlitKind → Bool
  | .load | .store | .atomic | .red | .tuple | .landing | .ffence | .fetch | .collective => true
  | _ => false

/-- A request at its target (R386, R388): an older epoch is discarded, a newer one starts its numbers again, a duplicate is answered
with the kept response, and a request ahead of its predecessors waits in the window of 256. -/
def State.takeRequest (s : State) (f : Flit) : State :=
  let k := sourceKey f
  if laterEpoch (s.source k).epoch f.epoch then s.dropFlit
  else
    let s := if f.epoch = (s.source k).epoch then s else s.setSource k { FabSource.blank with epoch := f.epoch }
    let x := s.source k
    match x.kept.find? fun p => p.1 == f.seq with
    | some p => s.answerTo p.2
    | none =>
      if 256 ≤ (f.seq - x.next).toNat then s.dropFlit
      else
        let s := if x.held.any fun g => g.seq == f.seq then s else s.setSource k { x with held := x.held ++ [f] }
        s.performSource k 256

/-- FABRIC_REQUEST (R385, R386, R388, R431). -/
def execFabricRequest (f : Flit) (s : State) : Out :=
  .next (if s.forged then s.tagFailed else if isRequest f.kind then s.takeRequest f else s.dropFlit)

-- ==== the source: outcomes (R387-R391) ====

/-- The value that a load returns, as its strand asked for it (R92, R219). -/
def loadAnswer (u f : Flit) : DelVal :=
  let v := leWord (f.data.take u.size)
  let x := if u.value.getLsbD 0 then signExtend (8 * u.size) v else v
  if u.value.getLsbD 1 then .acq x u.scope else .val x

/-- A request has succeeded. -/
def State.requestDone (s : State) (core : Nat) (u : Unacked) (f : Flit) : State :=
  let s := s.forgetRequest core u
  if u.kind = engineKind then
    match u.flit.kind with
    | .fetch => match s.cmds.get? u.tag with
      | some c =>
        (s.putCmd (c.gotPiece u.flit.dst (u.flit.addr.toNat % 2 ^ 49) (u.flit.value.getLsbD 0) f.data)).after 0 (.iterationCommit u.tag)
      | none => s
    | .landing => s.landStatus (.engine core u.tag) 0 (bitsOf f.value 0 8)
    | _ => s
  else if u.kind = answerKind then s.finishCopy u.tag true
  else if u.kind = calveKind then s.calvingAnswered u true
  else if u.kind = contKind then s.contAnswer u.tag (some f.data)
  else if u.kind = structKind then s.givePiece u.uid u.tag u.flit.dst (u.flit.addr.toNat % 2 ^ 49) f.data
  else if u.uid = 0 then s.tupleGone u
  else match u.flit.kind with
    | .tuple =>
      if flitIsCont u.flit then s.tupleGone u
      else s.modCore core fun c => { c with unacked := c.unacked ++ [{ u with acked := true }] }
    | .load => s.deliverTo u.uid u.tag (loadAnswer u.flit f)
    | .store => s.answerMelt u.uid u.tag (.served 0)
    | .ffence => s.deliverTo u.uid u.tag (.val 0)
    | _ => s.deliverTo u.uid u.tag (.val f.value)

/-- The request that a response answers. -/
def State.answeredBy (s : State) (f : Flit) : Option Unacked :=
  (s.core f.core).unacked.find? fun u => u.out && !u.acked && u.flit.dst == f.src && u.flit.seq == f.seq && u.flit.epoch == f.epoch

/-- FABRIC_RESPONSE (R387, R389, R431): a response that no request awaits is dropped. -/
def execFabricResponse (f : Flit) (s : State) : Out :=
  .next (if s.forged then s.tagFailed else match s.answeredBy f with
    | none => s.dropFlit
    | some u =>
      match f.kind with
      | .refusal => s.failRequest f.core u (bitsOf f.value 0 3)
      | .response | .acknowledge => s.requestDone f.core u f
      | _ => s.dropFlit)

/-- Has the route table no route to a device's group at all (R382, R389)? Links that are down may come back, its entries are the supervisor's. -/
def State.unrouted (s : State) (dev : Nat) : Bool := !routeUsable (s.fab.routes.get 0 (groupOf dev))

/-- FABRIC_RESEND (R388, R389, R391): over another route with the same EPOCH and SEQ. Where the route table has no route the request ends, but a .C
request waits; where every link of its routes is down it is tried again until it ends UNCERTAIN (R422, DEDUCED, log 152). -/
def execFabricResend (core dev : Nat) (seq : BitVec 16) (s : State) : Out :=
  .next (match (s.core core).unacked.find? fun u => u.out && !u.acked && u.flit.dst == dev && u.flit.seq == seq with
    | none => s
    | some u =>
      if s.now < u.sent + 50000 then s
      else
        let again (k : Nat) : State :=
          let c := { u with sent := s.now, via := k }
          (s.modCore core fun x => { x with unacked := x.unacked.map fun y => if y = u then c else y }).after 50000 (.fabricResend core dev seq)
        match s.routeTo dev u.flit.vc (some u.via) with
        | some (k, r) => ((again k).turned dev k).emit u.flit r
        | none => if flitIsCont u.flit || !s.unrouted dev then again u.via else s.failRequest core u 1)

/-- The request whose time the step's numbers say is over, by SEQ and EPOCH, or, with a third number of 2, one that had no route, by the place in
its core's order. -/
def State.overdue (s : State) (core dev : Nat) : Option Unacked :=
  (s.core core).unacked.find? fun u =>
    if s.argAt 2 = 2 then u.flit.dst == dev && u.since == s.argAt 0
    else u.flit.dst == dev && u.out && !u.acked && u.flit.seq.toNat == s.argAt 0 && u.flit.epoch.toNat == s.argAt 1
      && (s.argAt 2 == 1 || decide (u.first + 10000000 ≤ s.now))

/-- All that a core has outstanding toward a device ends, oldest first, and the pair starts a new epoch with SEQ 0 (R388). -/
def State.endPair (s : State) (core dev reason : Nat) (l : List Unacked) : State :=
  let s := s.modCore core fun c => { c with epochs := c.epochs.set dev (c.epochs.get 0 dev + 1), seqs := c.seqs.set dev 0 }
  l.foldl (fun s u => s.failRequest core u reason) s

/-- UNCERTAIN (R388, R389): the unacknowledged requests of a core to a device end. The step's numbers name the request whose time is over: a third
one of 1 says that on every route tried the tag check has failed (R431, log 130), of 2 that it has had no route. Without numbers the pair ends
together with the answers that it awaits (R391). A .C request without a route waits on (R391). -/
def execUncertain (core dev : Nat) (s : State) : Out :=
  let all := (s.core core).unacked.filter fun u => u.flit.dst == dev
  .next (if s.arg.isEmpty then s.endPair core dev 0 all
    else match s.overdue core dev with
      | none => s
      | some u =>
        if s.argAt 2 = 2 then s.failRequest core u 1
        else if flitIsCont u.flit && (s.routeTo dev u.flit.vc none).isNone then s.afterArg 10000000 (.uncertain core dev) s.arg
        else s.endPair core dev (if s.argAt 2 = 1 then 4 else 0) (all.filter fun u => !u.acked))

-- ==== links (R378, R380, R381, R383, R384) ====

/-- The device at the far end of an own link (R377). -/
def State.peerOf (s : State) (link : Nat) : Nat :=
  let g := groupOf s.plat.device
  let m := memberOf s.plat.device
  if link < 32 then g * 32 + (if link < m then link else link + 1)
  else
    let h := if m * 16 + (link - 32) < g then m * 16 + (link - 32) else m * 16 + (link - 32) + 1
    h * 32 + (globalEnd h g).1

/-- The entries that a flit has left go back to the sender in a credit flit (R380). -/
def State.returnCredit (s : State) (link : Nat) (f : Flit) : State :=
  let c : Flit := { blankFlit .credit (s.peerOf link) 0 0 with
    src := s.plat.device, vc := f.vc, hop := f.hop, value := BitVec.ofNat 64 (flitData f * 65536 + 1) }
  { s with fab := { s.fab with sent := s.fab.sent ++ [{ link := link, flit := c, route := [] }] } }

def State.pealOf (s : State) (r : PealRun) : Option Peal := s.engine.peals.get? r.peal

/-- The run of a group's sequence number at a partition. -/
def State.runAt (s : State) (part group seq : Nat) : Option (Nat × PealRun) :=
  s.engine.runs.find fun _ r => r.peal / 128 == part && r.seq == seq && ((s.pealOf r).any fun p => p.group == group)

/-- Has the run of a group's sequence number begun at this member? -/
def State.runBegun (s : State) (part group seq : Nat) : Bool := (s.runAt part group seq).any fun x => x.2.begun

/-- The flits that the device holds for runs that have not begun: 4,096 at most (R405). -/
def State.heldEarly (s : State) : Nat := (s.engine.held.filter fun x => !s.runBegun x.1 x.2.group x.2.seq).length

/-- Does the collective engine hold all the flits of runs to come that it can, so that it withholds the credit of one more (R405)? -/
def State.pealFull (s : State) (f : Flit) : Bool :=
  f.kind == .collective && !(f.peal.any fun p => s.runBegun f.part p.group p.seq) && decide (4096 ≤ s.heldEarly)

/-- A credit or link-state flit acts at once at the device to which it comes (R380, R383): the credit for the link on which it came. -/
def State.linkFlit (s : State) (f : Flit) (back : Nat) : State :=
  if f.kind = .credit then
    (if back = 0 then s.dropFlit
     else s.afterArg 0 (.credit (back - 1) f.vc.toNat (bitsOf f.value 0 16) (bitsOf f.value 16 16)) [f.hop.toNat])
  else s.after 0 (.linkState (groupOf f.src) (memberOf f.src) (f.value.getLsbD 8) (bitsOf f.value 0 8))

/-- FLIT_FORWARD (R381): at the end of its route a flit is served here, else it goes to the next device of the route, one class
higher (R380). The step's second number is one more than the link on which it came, and its buffer entries go back there; without the number
no link is told. A flit whose tag fails is dropped (R431). -/
def execFlitForward (f : Flit) (route : List Nat) (s : State) : Out :=
  let back := s.argAt 1
  let forged := s.forged
  let full := !forged && route.isEmpty && f.dst == s.plat.device && s.pealFull f
  let s := if back = 0 ∨ f.kind = .credit ∨ full = true then s else s.returnCredit (back - 1) f
  .next (if full then s.afterArg 64 (.flitForward f route) s.arg else if forged then s.tagFailed else match route with
    | [] =>
      if f.dst ≠ s.plat.device then s.dropFlit
      else match f.kind with
        | .response | .acknowledge | .refusal => s.after 0 (.fabricResponse f)
        | .credit | .linkState => s.linkFlit f back
        | _ => s.after 0 (.fabricRequest f)
    | r => if f.hop = 6 then s.dropFlit else s.emit { f with hop := f.hop + 1 } r)

/-- CREDIT (R380): freed entries of a channel and of the class that the step's number gives return to the sender, whose waiting flits go on. -/
def execCredit (link : Nat) (vc : Nat) (control data : Nat) (s : State) : Out :=
  let u := s.usedOf link vc (s.argAt 0)
  .next (({ s with fab := { s.fab with used := s.fab.used.set (pairKey link vc (s.argAt 0)) (u.1 - control, u.2 - data) } } : State).launch link)

/-- The link of a port: local ports 0-30, global ports from 32. -/
def linkOf (glob : Bool) (port : Nat) : Nat := if glob then 32 + port % 16 else port % 31

/-- The group that a global port of a member reaches (R377). -/
def reachedGroup (g m port : Nat) : Nat := if m * 16 + port < g then m * 16 + port else m * 16 + port + 1

/-- GDOWN in the entry of the group that a member's global link reaches (R383). -/
def State.markGroup (s : State) (m port : Nat) : State :=
  let h := reachedGroup (groupOf s.plat.device) m port
  { s with fab := { s.fab with routes := s.fab.routes.set h (s.fab.routes.get 0 h ||| BitVec.ofNat 64 (2 ^ 60)) } }

/-- LINK_STATE (R383): a member of the own group has lost a link; new requests avoid it. -/
def execLinkState (group member : Nat) (globalPort : Bool) (port : Nat) (s : State) : Out :=
  .next (if group ≠ groupOf s.plat.device then s
    else if globalPort then s.markGroup member port
    else { s with fab := { s.fab with downs := (member, port) :: s.fab.downs.filter fun x => x != (member, port) } })

/-- A link is down: its bit, the entry of the group that it reaches, and a link-state flit to every member of the group (R383). -/
def State.loseLink (s : State) (glob : Bool) (port : Nat) : State :=
  let m := memberOf s.plat.device
  let g := groupOf s.plat.device
  if s.linkLost (linkOf glob port) then s
  else
    let s := if glob then
        (({ s with fab := { s.fab with glink := s.fab.glink ||| BitVec.ofNat 64 (2 ^ (port % 16)) } } : State).markGroup m port)
      else { s with fab := { s.fab with llink := s.fab.llink ||| BitVec.ofNat 64 (2 ^ (port % 31)) } }
    ((List.range 32).filter (· != m)).foldl (fun s k =>
      match s.localHops k with
      | some r =>
        let v := BitVec.ofNat 64 ((if glob then 256 else 0) + port)
        s.emit { blankFlit .linkState (g * 32 + k) 0 0 with src := s.plat.device, value := v } r
      | none => s) s

/-- LINK_DOWN (R378, R383): a link with no working lane; its kind and port travel in the step's numbers. -/
def execLinkDown (s : State) : Out := .next (s.loseLink (s.argAt 0 == 1) (s.argAt 1))

/-- FABRIC_LANE_LOSS (R378): kind, port and lane travel in the step's numbers. The link goes on with its other lanes; a lost control
lane is replaced by the highest working one, so that the link is down only without any lane. -/
def execFabricLaneLoss (s : State) : Out :=
  let glob := s.argAt 0 == 1
  let link := linkOf glob (s.argAt 1)
  let lost := s.fab.lanes.get 0 link ||| BitVec.ofNat 8 (2 ^ (s.argAt 2 % 8))
  let s := { s with fab := { s.fab with lanes := s.fab.lanes.set link lost } }
  .next (if lost = 255 then s.loseLink glob (s.argAt 1) else s)

/-- The lane that carries control flits: lane 0, or the highest that works (R378). -/
def controlLane (lost : BitVec 8) : Option Nat :=
  if !lost.getLsbD 0 then some 0 else [7, 6, 5, 4, 3, 2, 1].find? fun i => !lost.getLsbD i

/-- LINK_DEGRADED (R384): kind, port and the usable control and data entries travel in the step's numbers. Below 28 pairs the link
goes on with the two escape channels, below 14 it is down. -/
def execLinkDegraded (s : State) : Out :=
  let glob := s.argAt 0 == 1
  let port := s.argAt 1
  let n := s.argAt 2
  let m := s.argAt 3
  .next (if n < 14 ∨ m < 14 then s.loseLink glob port
    else
      let link := linkOf glob port
      let c := s.entriesOf link
      let s := { s with fab := { s.fab with entries := s.fab.entries.set link (min n c.1, min m c.2) } }
      if 28 ≤ n ∧ 28 ≤ m then s
      else if glob then { s with fab := { s.fab with glink := s.fab.glink ||| BitVec.ofNat 64 (2 ^ (16 + port % 16)) } }
      else { s with fab := { s.fab with llink := s.fab.llink ||| BitVec.ofNat 64 (2 ^ (32 + port % 31)) } })

-- ==== FFENCE (R410, R411) ====

/-- FFENCE (R410, R411, R387): to the own device the store of ST.REL.D at the scope, else a flagged fence in SEQ order. -/
def execFfence (d a b : Reg) (xa xb : Bool) (g : PReg) (sc : Scope) (s : State) : Out :=
  .next (s.needs 3 (s.guarded g (s.operands [srcA a xa, srcB b xb] [d] true
    (let ea := s.rd a
     let v := s.rd b
     let t := s.me
     s.accessMe .store 8 ea fun s x =>
       match x.target with
       | .remote dev lpa =>
         if !s.windowOpen s.myCore dev then s.waits
         else (s.goOn.startLong d .atomic).sendRequest s.myCore t.id.uid s.nextTag 3 ea
           { blankFlit .ffence dev t.id.part (BitVec.ofNat 64 lpa) with size := 8, scope := sc, value := v, data := wordBytes 8 v }
       | .control lpa => match s.writeControlOk s.whoMe lpa 8 v with
         | .error r => s.takeTrap 3 (8 + r) ea
         | .ok _ => if s.awaitsRemote sc then s.waits
           else
             let ev := s.controlEvent s.whoMe lpa 8 v
             ((s.releaseMe sc).afterArg 0 ev.1 ev.2).longWithin d .other 420 (.val 0)
       | tg =>
         if (match tg with | .hbm lpa => (s.meltAt (hbmKey t.id.part lpa) 8).isSome | _ => false) then s.takeTrap 6 6 ea
         else if s.awaitsRemote sc then s.waits
         else ((s.releaseMe sc).performStore s.myCore t.id.part tg x.melt true sc (wordBytes 8 v)).longWithin d .other 420 (.val 0)))))

-- ==== granules that have become LIVE (R196) ====

/-- A request that a granule has held is served (R196). -/
def State.serveHeld (s : State) (h : MeltHeld) : State :=
  match h.area, h.cmd, h.flit with
  | some a, _, _ => s.ldmServe h.uid h.tag h.key a
  | none, some c, _ => s.serveRead c h.key (h.size == 2048)
  | none, none, some f =>
    if h.uid = 0 then s.performSource (sourceKey f) 256
    else s.givePiece h.uid h.tag s.plat.device (f.addr.toNat % 2 ^ 49) (s.readHome h.key h.size)
  | none, none, none => s.serveLoad h

/-- MELT_FILL_DONE (R196): the granule is LIVE, and the requests that it holds are served in their order. -/
def execMeltFillDone (key : Nat) (s : State) : Out :=
  .next (match s.melts.find? fun m => m.key == key && !m.live with
    | none => s
    | some m =>
      let s := match m.src with
        | some k => s.fillPieces key k
        | none => s
      let s := { s with melts := s.melts.map fun x => if x.key = key then { x with live := true, held := [] } else x }
      m.held.foldl State.serveHeld s)


end Sys2Proof.Machine
end

