-- ==== Sys2Proof/Machine/Drift.lean ====
section
/-! DEFINITION. The pending list of a context image (R336), and drift transport (R393-R397, R412-R414). -/

namespace Sys2Proof.Machine

-- ==== the pending list (R330, R336) ====

/-- The memory key of a table entry's image. -/
def State.imageOf (s : State) (q entry : Nat) : Nat := hbmKey ((s.ownerOf q).getD 0) (tableImage ((s.cluster q).ctable.get 0 entry))

/-- The table entry of a context whose state stands in an image on a cluster. -/
def State.awayEntry (s : State) (q ctxKey : Nat) : Option Nat :=
  (s.cluster q).imaged.find? fun e => s.entryKey q e == ctxKey

/-- A firing appended to a pending list; none while its 32 entries are taken (R336). -/
def State.appendPending (s : State) (q entry kind port id trigger : Nat) : Option State :=
  let key := s.imageOf q entry
  let n := leNat (s.mem.readBytes (key + 0x18) 8)
  if 32 ≤ n then none
  else
    let l := leBytes 2 kind ++ leBytes 2 port ++ leBytes 4 id ++ leBytes 8 trigger ++ leBytes 8 (s.now - s.plat.bootTime) ++ leBytes 8 0
    some { s with mem := (s.mem.writeBytes (key + 0x400 + 32 * n) l).writeBytes (key + 0x18) (leBytes 8 (n + 1)) }

-- ==== memory under an ASID ====

/-- Where `n` bytes of one page lie, for an access of a unit under an ASID; none where it faults. -/
def State.reachAs (s : State) (part asid : Nat) (priv : Priv) (k : AccKind) (va : Word) (n : Nat) : Option Target :=
  match (s.placeAs part asid priv k 1 va).2 with
  | some (.hbm a) => if k = .store ∧ (s.meltAt (hbmKey part a) n).isSome then none else some (.hbm a)
  | some (.host p a) => some (.host p a)
  | _ => none

/-- The homes of a range are ready to be read under an ASID: what its walks read and the range itself is merged, and is present in its slices
(R157, R213, R322). -/
def State.mergeAs (s : State) (part asid : Nat) (priv : Priv) (ps : List (Nat × Nat)) (k : AccKind := .load) : State :=
  ps.foldl (fun s p =>
    let x := s.placeAs part asid priv k 1 (BitVec.ofNat 64 p.1)
    match x.2 with
    | some (.hbm a) => (x.1.mergePartials (hbmKey part a) p.2).touchHome (hbmKey part a) p.2 false
    | _ => x.1) s

/-- Bytes of ready homes read under an ASID; none where a page faults. -/
def State.gatherAs (s : State) (part asid : Nat) (priv : Priv) (k : AccKind) : List (Nat × Nat) → Option (List Byte)
  | [] => some []
  | (va, n) :: r =>
    match s.reachAs part asid priv k (BitVec.ofNat 64 va) n, State.gatherAs s part asid priv k r with
    | some (.hbm a), some l => some ((s.readMerged (hbmKey part a) n).2 ++ l)
    | some t, some l => some (s.mem.readBytes (targetKey part t) n ++ l)
    | _, _ => none

/-- Bytes read under an ASID with the permission of an access; none where a page faults. The reader goes on in the state `s.mergeAs`. -/
def State.readAs (s : State) (part asid : Nat) (priv : Priv) (ps : List (Nat × Nat)) (k : AccKind := .load) : Option (List Byte) :=
  (s.mergeAs part asid priv ps k).gatherAs part asid priv k ps

/-- Bytes written under an ASID; none, with nothing written, where a page faults. -/
def State.writeAs (s : State) (part asid : Nat) (priv : Priv) : List (Nat × Nat) → List Byte → Option State
  | [], _ => some s
  | (va, n) :: r, l =>
    match s.reachAs part asid priv .store (BitVec.ofNat 64 va) n with
    | none => none
    | some t => match State.writeAs s part asid priv r (l.drop n) with
      | none => none
      | some s => some (s.writeHome deviceCore (targetKey part t) (l.take n))

-- ==== queues and their descriptors (R394, R412) ====

/-- A doubleword of a queue's descriptor: of the one that it had, while the supervisor rewrites it; what hardware keeps stands in memory (R412,
R419). -/
def State.descWord (s : State) (part n off : Nat) : Word :=
  match (s.dqueue part n).old with
  | some (_, t, l) => if off < 56 ∧ s.now < t + rewriteTime then leWord ((l.drop off).take 8) else s.hbmWord part (s.descAt part n + off)
  | none => s.hbmWord part (s.descAt part n + off)

def State.putDesc (s : State) (part n off : Nat) (w : Word) : State := s.putHbmWord part (s.descAt part n + off) w

/-- A queue's ERROR bit in memory. -/
def State.errorBit (s : State) (part n : Nat) : Bool := (s.hbmWord part (s.descAt part n + 16)).getLsbD 47

/-- Is a queue in ERROR (R412)? -/
def State.queueFailed (s : State) (part n : Nat) : Bool := (s.descWord part n 16).getLsbD 47 || ((s.dqueue part n).old.isSome && (s.dqueue part n).error)

/-- A rewrite whose time is over ends; a queue whose ERROR the supervisor has cleared starts again: held requests discarded, counters and PSN 0
(R412). -/
def State.syncQueue (s : State) (part n : Nat) : State :=
  let s := if (s.dqueue part n).old.any fun o => decide (o.2.1 + rewriteTime ≤ s.now) then s.modQueue part n fun q => { q with old := none } else s
  if (s.dqueue part n).error && (s.dqueue part n).old.isNone && !s.errorBit part n then (s.setQueue part n DriftQueue.empty).putDesc part n 56 0 else s

/-- May a queue be used under an ASID: in range, enabled, VALID, of that ASID (R394, R413)? -/
def State.queueOk (s : State) (part n asid : Nat) : Bool :=
  decide (n < 4096) && (s.part part).qbase.getLsbD 0 && (s.descWord part n 16).getLsbD 31 && bitsOf (s.descWord part n 16) 32 12 == asid

/-- ARRIVALS and DONES of a queue. -/
def State.arrivals (s : State) (part n : Nat) : Nat := bitsOf ((s.syncQueue part n).descWord part n 56) 0 32

def State.dones (s : State) (part n : Nat) : Nat := bitsOf ((s.syncQueue part n).descWord part n 56) 32 32

/-- The wrapping test of triggers and XWAIT (R414). -/
def reached (count goal : Nat) : Bool := (count + 2 ^ 32 - goal % 2 ^ 32) % 2 ^ 32 < 2 ^ 31

/-- The result word (R413). -/
def queueWord (count status : Nat) : Word := BitVec.ofNat 64 (count % 2 ^ 32 * 2 ^ 32 + status)

/-- A queue enters ERROR: its waiting results are QERROR, each with its count (R412-R414). -/
def State.queueError (s : State) (part n : Nat) : State :=
  let q := s.dqueue part n
  let a := s.arrivals part n
  let s := s.putDesc part n 16 (s.hbmWord part (s.descAt part n + 16) ||| BitVec.ofNat 64 (2 ^ 47))
  let s := s.modQueue part n fun q => { q with error := true, flushes := [], waits := [] }
  let s := q.flushes.foldl (fun s f => s.after 1 (.deliver f.1 f.2.1 (.val (queueWord f.2.2.2 3)))) s
  q.waits.foldl (fun s f => s.after 1 (.deliver f.1 f.2.1 (.val (queueWord a 3)))) s

/-- Queues of a partition whose triggers are to be looked at again. -/
def State.pokeTriggers (s : State) (part : Nat) : State :=
  s.drift.queues.foldl (fun s q =>
    if q.1 / 4096 = part ∧ q.2.held.any fun w => !w.fired && w.trig != 3 then s.after 0 (.driftTrigger part (q.1 % 4096)) else s) s

/-- XWAITs whose count is reached are delivered, an acquire at DEVICE scope (R396, R414). -/
def State.serveWaits (s : State) (part n : Nat) : State :=
  let a := s.arrivals part n
  let q := s.dqueue part n
  let s := s.modQueue part n fun q => { q with waits := q.waits.filter fun w => !reached a w.2.2 }
  (q.waits.filter fun w => reached a w.2.2).foldl (fun s w => s.after 1 (.deliver w.1 w.2.1 (.acq (queueWord a 0) .device))) s

/-- The completion of a queue (R239, R246): to its word under its ASID and a privilege, or by landing, with an interrupt for `uid` where the control
word asks for one. -/
def State.queueCompletion (s : State) (part n uid seq : Nat) (priv : Priv) : State :=
  let target := s.descWord part n 40
  let control := s.descWord part n 48
  let v := BitVec.ofNat 64 (seq % 2 ^ 48 * 65536)
  let asid := bitsOf (s.descWord part n 16) 32 12
  let s := if target = 0 then s
    else if control.getLsbD 3 then
      s.after 1 (.landingArrival { name := target, value := v, scope := .device, part := part, src := .ccb, rel := none })
    else s.storeAs part asid priv target (wordBytes 8 v)
  if target ≠ 0 ∧ control.getLsbD 8 ∧ uid ≠ 0 then s.raiseInterrupt uid v target else s

-- ==== sending (R395, R397) ====

/-- Does the trigger of a work request hold (R394, R414)? -/
def State.triggered (s : State) (part : Nat) (w : WorkReq) : Bool :=
  match w.trig with
  | 0 => true
  | 1 => reached (s.arrivals part w.trigq) w.trigcnt
  | 2 => reached (s.dones part w.trigq) w.trigcnt
  | _ => false

/-- The first work request of a list that satisfies `p`, changed. -/
def changeFirst {α : Type} (p : α → Bool) (f : α → α) : List α → List α
  | [] => []
  | x :: r => if p x then f x :: r else x :: changeFirst p f r

def State.changeReq (s : State) (part n : Nat) (p : WorkReq → Bool) (f : WorkReq → WorkReq) : State :=
  s.modQueue part n fun q => { q with held := changeFirst p f q.held }

def State.portOf (s : State) (part n : Nat) : Nat := bitsOf (s.descWord part n 16) 24 2

/-- A firing of a queue's request whose context is away goes to the pending list; one that finds no room waits (R336). -/
def State.pendReq (s : State) (part n entry : Nat) (w : WorkReq) : State :=
  match s.appendPending w.cluster entry 1 (s.portOf part n) n w.trigcnt with
  | some s => (s.changeReq part n (fun x => x == w) fun x => { x with trig := 3, fired := false }).after 0 (.driftTrigger part n)
  | none => s.after 64 (.driftTrigger part n)

/-- DRIFT_TRIGGER (R336, R395, R397): the first request whose trigger holds becomes sendable, or its firing is kept for its context. -/
def execDriftTrigger (part queue : Nat) (s : State) : Out :=
  let s := s.syncQueue part queue
  .next (if s.queueFailed part queue then s
    else match (s.dqueue part queue).held.find? fun w => !w.fired && s.triggered part w with
      | none => s
      | some w => match s.awayEntry w.cluster (w.uid / 2 ^ 32) with
        | some e => s.pendReq part queue e w
        | none =>
          ((s.changeReq part queue (fun x => x == w) fun x => { x with fired := true }).after 0 (.driftSend part queue)).after 0
            (.driftTrigger part queue))

/-- Packets of a work request (R393). -/
def packetsOf (len : Nat) : Nat := max 1 ((len + 8191) / 8192)

def State.sendFrame (s : State) (part n : Nat) (p : DriftPacket) : State :=
  let raddr := (s.descWord part n 0).toNat + (s.descWord part n 8).toNat * 2 ^ 64
  let f : Frame := { port := s.portOf part n, raddr := raddr, pkt := p, peal := none }
  { s with drift := { s.drift with sent := s.drift.sent ++ [f] } }

/-- The send window in force (R393). -/
def State.windowOf (s : State) (q : DriftQueue) : Nat := max 1 (if s.now < q.half then Config.driftWindow / 2 else Config.driftWindow)

/-- A packet of a request leaves with its data: a copy in the retransmit store, resent after 100 us (R395). -/
def State.sendPacket (s : State) (part n : Nat) (w : WorkReq) (l : List Byte) : State :=
  let q := s.dqueue part n
  let last := w.len ≤ w.off + l.length
  let p : DriftPacket := { kind := if last && w.op != 1 then 4 else 1, last := last, dq := bitsOf (s.descWord part n 16) 0 24,
                           psn := BitVec.ofNat 32 q.next, sq := n, roff := w.roff + BitVec.ofNat 64 w.off, imm := w.imm, data := l, op := w.op }
  let first := w.off == 0
  let begun := if first then q.begun + packetsOf w.len else q.begun
  let q := { q with next := q.next + 1, begun := begun, marks := if first then q.marks ++ [begun] else q.marks,
                    store := q.store ++ [{ num := q.next, pkt := p, first := s.now }],
                    held := if last then q.held.drop 1 else changeFirst (fun _ => true) (fun x => { x with off := x.off + l.length }) q.held }
  let s := ((s.setQueue part n q).sendFrame part n p).after 100000 (.driftRetransmit part n p.psn)
  if last then
    let s := s.queueCompletion part n w.uid w.seq w.priv
    let s := s.putDesc part n 56 (putBits (s.descWord part n 56) 32 32 (s.dones part n + 1))
    (s.pokeTriggers part).after 1 (.driftSend part n)
  else s.after 1 (.driftSend part n)

/-- DRIFT_SEND (R336, R395, R412): the next packet of the queue's first request, in posting order. A data address that faults puts the
queue in ERROR, or, while the context is away, the firing in the pending list. -/
def execDriftSend (part queue : Nat) (s : State) : Out :=
  let s := s.syncQueue part queue
  let q := s.dqueue part queue
  .next (match q.held with
    | [] => s
    | w :: _ =>
      if !w.fired || s.queueFailed part queue || s.windowOf q ≤ q.next - q.acked then s
      else
        let asid := bitsOf (s.descWord part queue 16) 32 12
        let n := min 8192 (w.len - w.off)
        let ps := piecesOf (w.va.toNat + w.off) n
        match s.readAs part asid w.priv ps with
        | some l => (s.mergeAs part asid w.priv ps).sendPacket part queue w l
        | none => match s.awayEntry w.cluster (w.uid / 2 ^ 32) with
          | some e => s.pendReq part queue e w
          | none => s.queueError part queue)

-- ==== receiving (R395, R396) ====

/-- An acknowledgement (kind 2) or a negative one (kind 3) to the sender of a packet. -/
def State.answerPacket (s : State) (part : Nat) (p : DriftPacket) (kind : Nat) : State :=
  s.sendFrame part p.dq { kind := kind, last := false, dq := p.sq, psn := p.psn, sq := p.dq, roff := 0, imm := 0, data := [], op := 0 }

/-- A packet placed at the receiver; the last one of a message counts an arrival and completes the queue, as a release (R396). The SEQ
of that completion is a free value (log 25). -/
def State.placePacket (s : State) (part : Nat) (p : DriftPacket) : State :=
  let n := p.dq
  let s := (s.modQueue part n fun q => { q with expect := q.expect + 1 }).answerPacket part p 2
  if p.last && p.kind == 4 then
    let s := s.putDesc part n 56 (putBits (s.descWord part n 56) 0 32 (s.arrivals part n + 1))
    let seq := (Config.freeWord s.tick).toNat
    ((s.bump.queueCompletion part n 0 seq .s).serveWaits part n).pokeTriggers part
  else s

/-- Is an address space that of a context in a table of the partition's clusters: the ASID check of a remote queue (R412, DEDUCED, log 154)? -/
def State.asidBound (s : State) (part asid : Nat) : Bool :=
  (quantaOf (s.part part).quanta).any fun q => (s.cluster q).ctable.any fun e => tableWeight e.2 != 0 && s.asidOf part (tableCtx e.2) == asid

/-- Does a context of an address space hold a cluster of the partition? -/
def State.asidHeld (s : State) (part asid : Nat) : Bool :=
  (quantaOf (s.part part).quanta).any fun q => match s.holderKey q with
    | some k => k / 65536 == part && s.asidOf part (k % 65536) == asid
    | none => false

/-- DRIFT_DATA (R393, R395, R396, R412): packets are taken in PSN order; one that comes again is acknowledged again. A receive buffer that faults
puts the queue in ERROR; while no context of its address space holds a cluster the packet is not taken, and its sender sends it again (log 135).
A packet whose tag fails is dropped (R431). -/
def execDriftData (part : Nat) (p : DriftPacket) (s : State) : Out :=
  let drop (s : State) : State := { s with drift := { s.drift with dropped := s.drift.dropped + 1 } }
  .next (if s.forged then drop s.countForged else match p.kind with
    | 2 => s.after 0 (.driftAck part p.dq p.psn)
    | 3 => s.after 0 (.driftNack part p.dq p.psn)
    | 1 | 4 =>
      if 4096 ≤ p.dq then drop s
      else
        let s := s.syncQueue part p.dq
        let asid := bitsOf (s.descWord part p.dq 16) 32 12
        let q := s.dqueue part p.dq
        if !s.queueOk part p.dq asid || !s.asidBound part asid || s.queueFailed part p.dq then s.answerPacket part p 3
        else if p.psn ≠ q.expect then (if (q.expect - p.psn).toNat < 2 ^ 31 then s.answerPacket part p 2 else s)
        else if (s.descWord part p.dq 32).toNat < p.roff.toNat + p.data.length then s.answerPacket part p 3
        else
          let va := (s.descWord part p.dq 24).toNat + p.roff.toNat
          match s.writeAs part asid .s (piecesOf va p.data.length) p.data with
          | some s => s.placePacket part p
          | none => if s.asidHeld part asid then s.queueError part p.dq else s
    | _ => drop s)

-- ==== acknowledgements (R395, R412) ====

/-- XFLUSHes whose packets are all placed are delivered (R395, R414). -/
def State.serveFlushes (s : State) (part n : Nat) : State :=
  let q := s.dqueue part n
  let s := s.modQueue part n fun q => { q with flushes := q.flushes.filter fun f => q.acked < f.2.2.1 }
  (q.flushes.filter fun f => f.2.2.1 ≤ q.acked).foldl (fun s f => s.after 1 (.deliver f.1 f.2.1 (.val (queueWord f.2.2.2 0)))) s

/-- DRIFT_ACK (R395): every packet up to the number is placed. -/
def execDriftAck (part queue : Nat) (psn : BitVec 32) (s : State) : Out :=
  let s := s.syncQueue part queue
  let q := s.dqueue part queue
  let d := (psn - BitVec.ofNat 32 q.acked).toNat
  .next (if q.next ≤ q.acked + d then s
    else
      let n := q.acked + d + 1
      let s := s.setQueue part queue { q with acked := n, store := q.store.filter (fun k => n ≤ k.num), marks := q.marks.filter (n < ·) }
      (s.serveFlushes part queue).after 0 (.driftSend part queue))

/-- DRIFT_NACK (R412): the queue enters ERROR. -/
def execDriftNack (part queue : Nat) (psn : BitVec 32) (s : State) : Out :=
  let s := s.syncQueue part queue
  .next (if (s.dqueue part queue).store.any fun k => k.pkt.psn == psn then s.queueError part queue else s)

/-- DRIFT_RETRANSMIT (R395): a packet that is not acknowledged is sent again every 100 us; after 1 s its queue is in ERROR. -/
def execDriftRetransmit (part queue : Nat) (psn : BitVec 32) (s : State) : Out :=
  let s := s.syncQueue part queue
  .next (match (s.dqueue part queue).store.find? fun k => k.pkt.psn == psn with
    | none => s
    | some k =>
      if s.queueFailed part queue then s
      else if k.first + 1000000000 ≤ s.now then s.after 0 (.driftQueueError part queue)
      else (s.sendFrame part queue k.pkt).after 100000 (.driftRetransmit part queue psn))

/-- DRIFT_QUEUE_ERROR (R395): a packet of the queue has not been acknowledged for 1 s. -/
def execDriftQueueError (part queue : Nat) (s : State) : Out :=
  let s := s.syncQueue part queue
  .next (if (s.dqueue part queue).store.any fun k => k.first + 1000000000 ≤ s.now then s.queueError part queue else s)

/-- ECN_MARK (R393): the send window is halved for 100 us. -/
def execEcnMark (part queue : Nat) (s : State) : Out :=
  .next ((s.modQueue part queue fun q => { q with half := s.now + 100000 }).after 100000 (.ecnWindowRestore part queue))

/-- ECN_WINDOW_RESTORE (R393). -/
def execEcnWindowRestore (part queue : Nat) (s : State) : Out :=
  .next (if (s.dqueue part queue).half ≤ s.now then
      (s.modQueue part queue fun q => { q with half := 0 }).after 0 (.driftSend part queue)
    else s)

-- ==== XPOST, XFLUSH, XWAIT (R413, R414) ====

/-- The work request in 64 bytes; none where it is malformed (R394, R414). -/
def State.workReq (s : State) (l : List Byte) : Option WorkReq :=
  let op := structNat l 0 1
  let trig := structNat l 1 1
  let trigq := structNat l 4 4
  let len := structNat l 24 8
  if op = 0 || 3 < op || 2 < trig || !structZero l 2 2 || (trig != 0 && 4096 ≤ trigq) || 2 ^ 24 ≤ trigq || 2 ^ 32 ≤ structNat l 8 8
      || 2 ^ 32 < len || (op == 3 && len != 0) || !structZero l 56 8 then none
  else some { op := op, trig := trig, trigq := trigq, trigcnt := structNat l 8 8, va := BitVec.ofNat 64 (structNat l 16 8), len := len,
              roff := BitVec.ofNat 64 (structNat l 32 8), imm := BitVec.ofNat 64 (structNat l 40 8), seq := structNat l 48 8 % 2 ^ 48,
              uid := s.me.id.uid, cluster := clusterOf s.myCore, priv := s.me.status.priv, fired := false, off := 0 }

/-- The queue operand's checks that the three share: a status with the queue's count, 0 where no queue is named (log 155), or the queue in use
(R413). -/
def State.onQueue (s : State) (v : Word) (count : State → Nat → Nat) (fail : Nat → Nat → State) (k : State → Nat → State) : State :=
  let part := s.me.id.part
  if bitsOf v 12 52 ≠ 0 || !s.queueOk part v.toNat s.me.id.asid then fail 0 1
  else
    let s' := s.syncQueue part v.toNat
    if s'.queueFailed part v.toNat then fail (count s' v.toNat) 3 else k s' v.toNat

/-- XPOST (R394, R395, R414): a release at DEVICE scope. -/
def execXpost (d a b : Reg) (xa xb : Bool) (g : PReg) (s : State) : Out :=
  .next (s.needs 4 (s.guarded g (s.operands [srcA a xa, srcB b xb] [d] true
    (s.readStruct (s.rd b) 64 64 fun s l =>
      let fail (m n : Nat) : State := s.longWithin d .other 200 (.val (queueWord m n))
      let held (t : State) (n : Nat) : Nat := (t.dqueue s.me.id.part n).held.length
      s.onQueue (s.rd a) held fail fun s' n =>
        let part := s.me.id.part
        match s.workReq l with
        | none => fail (held s' n) 2
        | some w =>
          let q := s'.dqueue part n
          if 256 ≤ q.held.length then fail (held s' n) 4
          else
            let s' := (s'.releaseMe .device).modQueue part n fun q => { q with held := q.held ++ [w] }
            (s'.after 0 (.driftTrigger part n)).longWithin d .other 200 (.val (queueWord (q.held.length + 1) 0))))))

/-- XFLUSH (R395, R414): it covers the work requests whose sending had begun. -/
def execXflush (d a : Reg) (xa : Bool) (g : PReg) (s : State) : Out :=
  .next (s.needs 4 (s.guarded g (s.operands [srcA a xa] [d] true
    (let fail (m n : Nat) : State := s.longWithin d .other 200 (.val (queueWord m n))
     s.onQueue (s.rd a) (fun t n => (t.dqueue s.me.id.part n).marks.length) fail fun s' n =>
       let part := s.me.id.part
       let q := s'.dqueue part n
       if q.begun ≤ q.acked then s'.longWithin d .other 200 (.val (queueWord 0 0))
       else
         let f := (s.me.id.uid, s.nextTag, q.begun, q.marks.length)
         (s'.goOn.startLong d .other).modQueue part n fun q => { q with flushes := q.flushes ++ [f] }))))

/-- XWAIT (R396, R409, R414): an acquire at DEVICE scope once the arrivals reach the count. -/
def execXwait (d a b : Reg) (xa xb : Bool) (g : PReg) (s : State) : Out :=
  .next (s.needs 4 (s.guarded g (s.operands [srcA a xa, srcB b xb] [d] true
    (let fail (m n : Nat) : State := s.longWithin d .other 200 (.val (queueWord m n))
     if bitsOf (s.rd b) 32 32 ≠ 0 then fail 0 1
     else s.onQueue (s.rd a) (fun t n => t.arrivals s.me.id.part n) fail fun s' n =>
       let part := s.me.id.part
       let w := (s.me.id.uid, s.nextTag, (s.rd b).toNat)
       ((s'.goOn.startLong d .await).modQueue part n fun q => { q with waits := q.waits ++ [w] }).serveWaits part n))))

end Sys2Proof.Machine
end

