-- ==== Sys2Proof/Machine/Peal.lean ====
section
/-! DEFINITION. Collectives as peals (R398-R408, R415, R416): loading a graph, running it, matching what arrives. -/

namespace Sys2Proof.Machine

-- ==== the graph (R398-R400) ====

/-- Node `j` of a graph in memory form (R399). -/
def graphNode (l : List Byte) : GraphNode :=
  { op := structNat l 0 1, partk := structNat l 1 1, srcb := structNat l 2 1, dstb := structNat l 3 1, flags := structNat l 4 1,
    depcnt := structNat l 5 1, tag := structNat l 6 2, srcoff := BitVec.ofNat 64 (structNat l 8 8),
    dstoff := BitVec.ofNat 64 (structNat l 16 8), len := structNat l 24 4, succ0 := structNat l 28 2, succ1 := structNat l 30 2 }

def GraphNode.srcPair (n : GraphNode) : Bool := n.flags % 2 == 1

def GraphNode.dstPair (n : GraphNode) : Bool := n.flags / 2 % 2 == 1

def GraphNode.isRecv (n : GraphNode) : Bool := n.op == 2 || n.op == 4

/-- The successors of a node. -/
def GraphNode.succs (n : GraphNode) : List Nat :=
  if n.succ0 = n.succ1 then [n.succ0].filter (· != 0xffff) else [n.succ0, n.succ1].filter (· != 0xffff)

/-- Do the fields of a node have values of R399; fields that its OP does not use are zero? -/
def GraphNode.fieldsOk (n : GraphNode) (nbase : Nat) : Bool :=
  let usesSrc := n.op == 1 || n.op == 3
  let usesDst := n.op != 1
  decide (1 ≤ n.op) && decide (n.op ≤ 4) && (decide (n.partk ≤ 18) || decide (0xfd ≤ n.partk)) && decide (n.srcb < 16) && decide (n.dstb < 16)
    && decide (n.flags < 4) && decide (1 ≤ n.len) && decide (n.len ≤ 2 ^ 24)
    && (if usesSrc then decide (n.srcb < nbase) else n.srcb == 0 && !n.srcPair && n.srcoff == 0)
    && (if usesDst then decide (n.dstb < nbase) else n.dstb == 0 && !n.dstPair && n.dstoff == 0)
    && (n.op != 3 || n.tag == 0)

/-- The largest power of two not above `n` (R401). -/
def pow2Below (n : Nat) : Nat := 2 ^ n.log2

/-- Nodes from which a set grows along the successor links. -/
def reachFrom (nodes : List GraphNode) : Nat → List Nat → List Nat → List Nat
  | 0, _, seen => seen
  | f + 1, front, seen =>
    let next := (front.flatMap fun j => match nodes[j]? with | some n => n.succs | none => []).filter fun j => !seen.contains j
    if next.isEmpty then seen else reachFrom nodes f next.eraseDups (seen ++ next.eraseDups)

/-- The first node that fails a condition. -/
def firstBad (nodes : List GraphNode) (ok : Nat → GraphNode → Bool) : Option Nat :=
  (List.range nodes.length).find? fun j => match nodes[j]? with | some n => !ok j n | none => false

/-- The reasons 2 to 9 of a graph in their order, each with the first node refused (R400, R415). Nodes that are not `known`, since their page faults,
break none of them, and the conditions on the whole graph, 4, 5 and 9, are looked at only where every node is known (DEDUCED, log 156). -/
def graphFault (nodes : List GraphNode) (known : Nat → Bool) (nbase rop rfmt p : Nat) : Option (Nat × Nat) :=
  let n := nodes.length
  let sum32 := rop == 0 && rfmt == 0
  let count (j : Nat) : Nat := (nodes.filter fun x => x.succs.contains j).length
  let tests : List (Nat × (Nat → GraphNode → Bool)) :=
    [(2, fun _ x => x.fieldsOk nbase),
     (3, fun _ x => x.succs.all (· < n)),
     (4, fun j x => x.depcnt == count j),
     (5, fun j x => !(reachFrom nodes n x.succs x.succs).contains j),
     (6, fun _ x => 18 < x.partk || 2 ^ x.partk < p),
     (7, fun _ x => (x.op == 3) == (x.partk == 0xff)),
     (8, fun _ x => if sum32 then !x.isRecv || x.dstPair else !x.srcPair && !x.dstPair),
     (9, fun j x => x.op != 1 || (!((List.range j).any fun k => match nodes[k]? with | some y => y.op == 1 && y.tag == x.tag | none => false)
            && nodes.any fun y => y.isRecv && y.tag == x.tag && y.partk == x.partk))]
  let whole := (List.range n).all known
  (tests.filter fun t => whole || !(t.1 == 4 || t.1 == 5 || t.1 == 9)).findSome? fun t =>
    (firstBad nodes fun j x => !known j || t.2 j x).map fun j => (t.1, j)

/-- Is the header of R398 without error? -/
def headerOk (l : List Byte) : Bool :=
  let nnode := structNat l 0 2
  let nbase := structNat l 2 1
  let nrank := structNat l 12 4
  decide (1 ≤ nnode) && decide (nnode ≤ 4096) && decide (1 ≤ nbase) && decide (nbase ≤ 16) && structNat l 3 1 ≤ 2
    && (structNat l 4 1 == 0 || structNat l 4 1 == 9) && decide (5 ≤ structNat l 5 1) && structNat l 5 1 ≤ 7 && structZero l 6 2
    && structZero l 11 1 && decide (2 ≤ nrank) && decide (nrank ≤ 410400) && structNat l 16 4 < nrank && structZero l 20 4
    && structNat l 32 8 % 8 == 0 && structZero l 40 24

/-- Is a rank-map entry without error (R398)? -/
def State.rankOk (s : State) (scope rank i : Nat) (e : Word) : Bool :=
  let via := e.getLsbD 15
  let dev := bitsOf e 0 15
  bitsOf e 40 24 == 0
    && (i != rank || (!via && dev == s.plat.device))
    && (if via then bitsOf e 16 24 < 4096
        else dev < 16416 && (scope != 5 || groupOf dev == groupOf s.plat.device))

-- ==== PEAL.LOAD (R415) ====

/-- The result word of a load (R415). -/
def loadWord (node reason id : Nat) : Word := BitVec.ofNat 64 (node * 65536 + reason * 256 + id)

def pealKey (part id : Nat) : Nat := part * 128 + id

/-- The lowest id of a partition without a peal. -/
def State.freePeal (s : State) (part : Nat) : Option Nat :=
  ((List.range 64).map (· + 1)).find? fun i => (s.engine.peals.get? (pealKey part i)).isNone

/-- The nodes loaded in the device. -/
def State.loadedNodes (s : State) : Nat := s.engine.peals.foldl (fun n p => n + p.2.nodes.length) 0

/-- All of a list, where nothing of it is missing. -/
def allOf {α : Type} : List (Option α) → Option (List α)
  | [] => some []
  | none :: _ => none
  | some x :: r => (allOf r).map (x :: ·)

/-- The bytes of a piece of a graph as PEAL.LOAD reads it under the issuing context's ASID, from this device or, once they have come, from another
one; none where the page faults. -/
def State.pealPiece (s : State) (p : Nat × Nat) : Option (List Byte) :=
  let t := s.me
  match (s.placeAs t.id.part t.id.asid t.status.priv .load 1 (BitVec.ofNat 64 p.1)).2 with
  | some (.remote dev lpa) => (allOf ((lineParts lpa p.2).map fun x => s.pieceGot dev x.1)).map List.flatten
  | _ => s.readAs t.id.part t.id.asid t.status.priv [p]

/-- `n` bytes of a graph, those of faulting pages missing. -/
def State.pealBytes (s : State) (a n : Nat) : List (Option Byte) :=
  (piecesOf a n).flatMap fun p => match s.pealPiece p with
    | some l => l.map some
    | none => List.replicate p.2 none

def State.pealMerged (s : State) (a n : Nat) : State := s.mergeAs s.me.id.part s.me.id.asid s.me.status.priv (piecesOf a n)

/-- The pieces of a graph and its rank map, as far as its header is known. -/
def State.pealRanges (s : State) (va : Nat) : List (Nat × Nat) :=
  piecesOf va 64 ++ match allOf (s.pealBytes va 64) with
    | some h => if headerOk h then piecesOf (va + 64) (32 * structNat h 0 2) ++ piecesOf (structNat h 32 8) (8 * structNat h 12 4) else []
    | none => []

/-- The first piece of a graph that lies at another device and has not come: its address, device, local physical address and length (R385). -/
def State.pealMissing (s : State) (va : Nat) : Option (Nat × Nat × Nat × Nat) :=
  (s.pealRanges va).findSome? fun p =>
    match (s.placeAs s.me.id.part s.me.id.asid s.me.status.priv .load 1 (BitVec.ofNat 64 p.1)).2 with
    | some (.remote dev lpa) => if (lineParts lpa p.2).any fun x => (s.pieceGot dev x.1).isNone then some (p.1, dev, lpa, p.2) else none
    | _ => none

/-- A graph read under the issuing context's ASID: refused with node and reason, the lowest reason that holds, or a peal and its id (R415). -/
def State.readPeal (s : State) (va : Nat) : State × Except (Nat × Nat) (Nat × Peal) :=
  let t := s.me
  let part := t.id.part
  let full (s : State) (n r : Nat) : Nat := if (s.freePeal part).isNone then 11 else if 65536 < s.loadedNodes + n then 12 else r
  let s1 := s.pealMerged va 64
  match allOf (s.pealBytes va 64) with
  | none => (s1, .error (0xffff, full s1 1 13))
  | some h =>
    if !headerOk h then (s1, .error (0xffff, 1))
    else
      let nnode := structNat h 0 2
      let nrank := structNat h 12 4
      let rank := structNat h 16 4
      let scope := structNat h 5 1
      let l := s1.pealBytes (va + 64) (32 * nnode)
      let s2 := s1.pealMerged (va + 64) (32 * nnode)
      let part_ (j : Nat) : List (Option Byte) := (l.drop (32 * j)).take 32
      let nodes := (List.range nnode).map fun j => graphNode ((part_ j).map fun b => b.getD 0)
      match graphFault nodes (fun j => (part_ j).all Option.isSome) (structNat h 2 1) (structNat h 3 1) (structNat h 4 1) (pow2Below nrank) with
      | some (r, j) => (s2, .error (j, r))
      | none =>
        let m := s2.pealBytes (structNat h 32 8) (8 * nrank)
        let s3 := s2.pealMerged (structNat h 32 8) (8 * nrank)
        let entry (i : Nat) : Option Word := (allOf ((m.drop (8 * i)).take 8)).map leWord
        if !((List.range nrank).all fun i => match entry i with | some e => s3.rankOk scope rank i e | none => true) then (s3, .error (0xffff, 10))
        else match s3.freePeal part with
          | none => (s3, .error (0xffff, 11))
          | some id =>
            if 65536 < s3.loadedNodes + nnode then (s3, .error (0xffff, 12))
            else if !(l.all Option.isSome && m.all Option.isSome) then (s3, .error (0xffff, 13))
            else (s3, .ok (id, { ctx := contextKey part t.id.ctx, nbase := structNat h 2 1, rop := structNat h 3 1, rfmt := structNat h 4 1,
                                 scope := scope, group := structNat h 8 3, nrank := nrank, rank := rank, sig := BitVec.ofNat 64 (structNat h 24 8),
                                 ranks := (List.range nrank).map fun i => (entry i).getD 0, nodes := nodes, readyAt := 0 }))

/-- PEAL.LOAD (R415). -/
def execPealLoad (d a : Reg) (xa : Bool) (g : PReg) (s : State) : Out :=
  .next (s.needs 5 (s.guarded g (s.operands [srcA a xa] [d] true
    (let va := s.rd a
     if va.getLsbD 63 then s.takeTrap 3 1 va
     else if va.toNat % 64 ≠ 0 then s.takeTrap 3 0 va
     else match s.pealMissing va.toNat with
       | some (a, dev, lpa, n) => s.readRemote (BitVec.ofNat 64 a) dev lpa n fun s _ => s
       | none => match s.readPeal va.toNat with
       | (s, .error e) => s.longWithin d .other 4000 (.val (loadWord e.1 e.2 0))
       | (s, .ok (id, p)) =>
         let n := 1 + s.choose (4000 + 2 * ((64 + 32 * p.nodes.length + 8 * p.nrank) / 64))
         let eng := { s.engine with peals := s.engine.peals.set (pealKey s.me.id.part id) { p with readyAt := s.now + n } }
         ({ s with engine := eng } : State).bump.long d .other n (.val (loadWord 0xffff 0 id))))))

-- ==== ranks and partners (R401) ====

/-- The partner of a node at a rank: none where it does not act; a COPY acts without one. -/
def GraphNode.partner (n : GraphNode) (nrank r : Nat) : Option Nat :=
  let p := pow2Below nrank
  let e := nrank - p
  let send := n.op == 1
  if n.partk = 0xff then none
  else if n.partk ≤ 18 then (if r < p then some (r ^^^ 2 ^ n.partk) else none)
  else if (n.partk = 0xfd) == send then (if p ≤ r then some (r - p) else none)
  else (if r < e then some (r + p) else none)

def GraphNode.acts (n : GraphNode) (nrank r : Nat) : Bool := n.op == 3 || (n.partner nrank r).isSome

-- ==== elements (R403) ====

/-- s + t rounded once to FP32, to nearest even (R403). -/
def pealSum (a b : Nat) : Nat × EFlags :=
  let x := fp32.value a
  let y := fp32.value b
  match nanPick [x, y] with
  | some c => (c, EFlags.none)
  | none => match x.add 0 y with
    | none => (newNaN 0x7ff, { EFlags.none with nan := true })
    | some v => let q := v.to32 0; (q.code, EFlags.ofRounded q)

def specialCode (c : Nat) : Bool := match fp32.value c with | .num _ => false | _ => true

/-- combine of R403 on pairs (s in bits 31-0, e in bits 63-32). -/
def pealCombine (a b : Word) : Word × EFlags :=
  let s1 := bitsOf a 0 32
  let s2 := bitsOf b 0 32
  let e1 := bitsOf a 32 32
  let e2 := bitsOf b 32 32
  let s := pealSum s1 s2
  if specialCode s.1 then (BitVec.ofNat 64 s.1, s.2)
  else match fp32.value s1, fp32.value s2, fp32.value s.1, fp32.value e1, fp32.value e2 with
    | .num x1, .num x2, .num y, .num z1, .num z2 =>
      let t := (x1.add 0 x2).add 0 y.negate
      let e := fp32.round 0 ((z1.add 0 z2).add 0 t)
      (BitVec.ofNat 64 (e.code * 2 ^ 32 + s.1), s.2.or (EFlags.ofRounded e))
    | _, _, _, _, _ =>
      let e := pealSum e1 e2
      (BitVec.ofNat 64 (e.1 * 2 ^ 32 + s.1), s.2.or e.2)

/-- The element that a RECVRED leaves (R403). -/
def pealReduce (rop rfmt : Nat) (dst x : Word) : Word × EFlags :=
  let a := bitsOf dst 0 32
  let b := bitsOf x 0 32
  let sa := (BitVec.ofNat 32 a).toInt
  let sb := (BitVec.ofNat 32 b).toInt
  if rfmt = 9 then
    (BitVec.ofNat 64 (match rop with
      | 0 => (a + b) % 2 ^ 32
      | 1 => if sa < sb then b else a
      | _ => if sb < sa then b else a), EFlags.none)
  else if rop = 0 then pealCombine dst x
  else
    let v := fp32.value a
    let w := fp32.value b
    (BitVec.ofNat 64 (match nanPick [v, w] with
      | some c => c
      | none => if (rop == 1) == v.below w && (v.below w || w.below v) then b else a), EFlags.none)

-- ==== runs (R402, R403) ====

def State.run (s : State) (n : Nat) : Option PealRun := s.engine.runs.get? n

def State.putRun (s : State) (n : Nat) (r : PealRun) : State := { s with engine := { s.engine with runs := s.engine.runs.set n r } }

/-- Bytes of one element. -/
def elemSize (pair : Bool) : Nat := if pair then 8 else 4

/-- The address of a node's source or destination; none where it is not aligned (R402). -/
def PealRun.addr (r : PealRun) (slot : Nat) (off : Word) (pair : Bool) : Option Nat :=
  let a := (r.base.getD slot 0 + off).toNat
  if a % elemSize pair = 0 then some a else none

/-- The elements of a buffer, with the permission of a load for a source and of a store for a destination (R402); none where it faults. -/
def State.pealRead (s : State) (r : PealRun) (slot : Nat) (off : Word) (pair : Bool) (n : Nat) (k : AccKind := .load) : Option (List Word) :=
  (r.addr slot off pair).bind fun a =>
    (s.readAs (r.peal / 128) r.asid r.priv (piecesOf a (n * elemSize pair)) k).map fun l =>
      (List.range n).map fun i => leWord ((l.drop (i * elemSize pair)).take (elemSize pair))

/-- The state in which a buffer has been read. -/
def State.pealMerge (s : State) (r : PealRun) (slot : Nat) (off : Word) (pair : Bool) (n : Nat) (k : AccKind := .load) : State :=
  match r.addr slot off pair with
  | some a => s.mergeAs (r.peal / 128) r.asid r.priv (piecesOf a (n * elemSize pair)) k
  | none => s

/-- Elements written to a buffer; none where it faults. -/
def State.pealWrite (s : State) (r : PealRun) (slot : Nat) (off : Word) (pair : Bool) (v : List Word) : Option State :=
  (r.addr slot off pair).bind fun a =>
    s.writeAs (r.peal / 128) r.asid r.priv (piecesOf a (v.length * elemSize pair)) (v.map (wordBytes (elemSize pair))).flatten

/-- A flit of a run to the member of a rank: on this device, on another of the domain, or through a drift queue (R398, R405). -/
def State.toRank (s : State) (run : Nat) (r : PealRun) (p : Peal) (rank : Nat) (f : Flit) (own : State → State) : State :=
  let e := p.ranks.getD rank 0
  let part := r.peal / 128
  if e.getLsbD 15 then
    let n := bitsOf e 16 24
    let k : DriftPacket := { kind := 4, last := true, dq := bitsOf (s.descWord part n 16) 0 24, psn := 0, sq := n, roff := 0, imm := f.value,
                             data := [], op := 3 }
    let x : Frame := { port := s.portOf part n, raddr := (s.descWord part n 0).toNat + (s.descWord part n 8).toNat * 2 ^ 64, pkt := k, peal := f.peal }
    { s with drift := { s.drift with sent := s.drift.sent ++ [x] } }
  else if bitsOf e 0 15 = s.plat.device then own s
  else s.sendRequest portCore 0 run pealKind 0 { f with dst := bitsOf e 0 15, part := part }

/-- The word of a notice: GROUP, SEQ, and whether the run is LOST (R405, R408). -/
def noticeWord (group seq : Nat) (lost : Bool) : Word := BitVec.ofNat 64 (group + seq % 2 ^ 32 * 2 ^ 24 + (if lost then 2 ^ 56 else 0))

/-- The status word of a run (R407). -/
def PealRun.word (r : PealRun) (status : Nat) : Word := BitVec.ofNat 64 (r.seq * 65536 + r.flags.toNat * 256 + status)

/-- The runs of a peal, oldest first. -/
def State.runsOf (s : State) (key : Nat) : List (Nat × PealRun) := s.engine.runs.select fun _ r => r.peal == key

/-- PEAL.WAITs whose oldest run has ended are delivered, an acquire at SCOPE for DONE; the slot is free (R407, R416). -/
def State.servePealWaits (s : State) (key : Nat) : Nat → State
  | 0 => s
  | n + 1 =>
    match s.runsOf key, s.engine.waits.find? fun w => w.1 == key with
    | (i, r) :: _, some w =>
      match r.status with
      | none => s
      | some st =>
        let sc : Scope := match (s.pealOf r).map (·.scope) with
          | some 5 => .group
          | some 6 => .domain
          | _ => .system
        let v := r.word st
        let s := { s with engine := { s.engine with runs := s.engine.runs.del i, waits := s.engine.waits.erase w } }
        (s.after 1 (.deliver w.2.1 w.2.2 (if st = 0 then .acq v sc else .val v))).servePealWaits key n
    | _, _ => s

/-- The mark of a notice (R405, R408): MISMATCH or LOST; 0 is data. -/
def noticeMark (lost : Bool) : Nat := if lost then 2 else 1

/-- A held notice of a run that has not begun: of the flit its GROUP and SEQ count alone (R405). -/
def noticeFlit (group seq : Nat) (lost : Bool) : PealFlit :=
  { group := group, seq := seq, tag := 0, sig := 0, nrank := 0, rop := 0, rfmt := 0, src := 0, data := [], notice := noticeMark lost }

/-- The step of a flit of a run at its member. -/
def pealStep (part : Nat) (f : PealFlit) : Instr :=
  if f.notice = 0 then .pealArrival part f else .pealNotice part f.group f.seq (f.notice == 2)

/-- The notice that a member sends in place of node `n`: like every flit of a run it carries GROUP, SEQ, TAG, SIG, NRANK, ROP and RFMT (R405). -/
def Peal.noticeOf (p : Peal) (r : PealRun) (n : GraphNode) (lost : Bool) : PealFlit :=
  { group := p.group, seq := r.seq, tag := n.tag, sig := p.sig, nrank := p.nrank, rop := p.rop, rfmt := p.rfmt, src := p.rank, data := [],
    notice := noticeMark lost }

/-- Is an arrival for a receive node that acts at this member (R405)? -/
def Peal.takes (p : Peal) (n : GraphNode) (f : PealFlit) : Bool :=
  n.isRecv && n.tag == f.tag && n.partner p.nrank p.rank == some f.src

/-- The check of an arrival against a running run (R405). -/
def Peal.accepts (p : Peal) (f : PealFlit) : Bool :=
  f.sig == p.sig && f.nrank == p.nrank && f.rop == p.rop && f.rfmt == p.rfmt && p.nodes.any fun n => p.takes n f

def heldFor (part group seq : Nat) (x : Nat × PealFlit) : Bool := x.1 == part && x.2.group == group && x.2.seq == seq

/-- A run ends with a status; unless it is DONE its held arrivals go and its open nodes' partners get notices (R405, R408). -/
def State.closeRun (s : State) (i : Nat) (r : PealRun) (status : Nat) : State :=
  let s := s.putRun i { r with status := some status }
  match s.pealOf r with
  | none => s
  | some p =>
    let part := r.peal / 128
    let s := { s with engine := { s.engine with held := s.engine.held.filter fun x => !heldFor part p.group r.seq x } }
    let lost := status != 1
    let s := if status = 0 then s
      else ((List.range p.nodes.length).filter fun j => !(r.ended.getD j false)).foldl (fun s j =>
        let n := p.nodes.getD j (graphNode [])
        match n.partner p.nrank p.rank with
        | some q => s.toRank i r p q { blankFlit .collective 0 part 0 with value := noticeWord p.group r.seq lost, peal := some (p.noticeOf r n lost) }
            fun s => s.after 1 (.pealNotice part p.group r.seq lost)
        | none => s) s
    s.servePealWaits r.peal 4

/-- A node without open dependencies is to act. When it does is open, so that nodes without an order between them may act in any order (R404, log
136); one that does not act at this rank completes at once (R401). -/
def State.pokeNode (s : State) (i j : Nat) (r : PealRun) : State :=
  let acts := match s.pealOf r with
    | some p => (p.nodes.getD j (graphNode [])).acts p.nrank p.rank
    | none => true
  if acts then s.within 63 (.pealNode (r.peal / 128) i j) else s.after 0 (.pealNode (r.peal / 128) i j)

/-- The nodes of a run without open dependencies that are not over are to act. -/
def State.pokeNodes (s : State) (i : Nat) (r : PealRun) : State :=
  (List.range r.cnt.length).foldl (fun s j => if r.cnt.getD j 1 = 0 && !(r.ended.getD j false) then s.pokeNode i j r else s) s

/-- The oldest run of a peal that has not ended begins, if no earlier one is running; what is held for it is checked, and where that ends it the next
one begins, of the peal's four at most (R402, R405). -/
def State.beginRuns (s : State) (key : Nat) : Nat → State
  | 0 => s
  | m + 1 => match (s.runsOf key).find? fun x => x.2.status.isNone with
    | none => s
    | some (i, r) =>
      if r.begun then s
      else match s.pealOf r with
        | none => s
        | some p =>
          let r := { r with begun := true }
          let mine := s.engine.held.filter (heldFor (key / 128) p.group r.seq)
          let s := s.putRun i r
          match mine.find? fun x => x.2.notice != 0 || !p.accepts x.2 with
          | some x => (s.closeRun i r (if x.2.notice = 2 then 2 else 1)).beginRuns key m
          | none => s.pokeNodes i r

def State.beginRun (s : State) (key : Nat) : State := s.beginRuns key 4

/-- A run ends; the next run of its peal begins. -/
def State.endRun (s : State) (i : Nat) (r : PealRun) (status : Nat) : State := (s.closeRun i r status).beginRun r.peal

/-- A node has completed: its successors count down, and the run ends when every node has (R402). -/
def State.nodeDone (s : State) (i j : Nat) (r : PealRun) (n : GraphNode) (fl : EFlags) : State :=
  let cnt := n.succs.foldl (fun c k => c.set k (c.getD k 1 - 1)) r.cnt
  let r := { r with cnt := cnt, ended := r.ended.set j true, flags := r.flags ||| fl.byte }
  let s := s.putRun i r
  if r.ended.all id then s.endRun i r 0
  else n.succs.foldl (fun s k => if cnt.getD k 1 = 0 then s.pokeNode i k r else s) s

def orFlags (l : List (Word × EFlags)) : EFlags := l.foldl (fun f x => f.or x.2) EFlags.none

/-- What one node does: none where a buffer faults; it is not over where its arrival is not there (R402, R403). -/
def State.nodeActs (s : State) (i : Nat) (r : PealRun) (p : Peal) (n : GraphNode) : Option (State × Option EFlags) :=
  let part := r.peal / 128
  let sum32 := p.rop == 0 && p.rfmt == 0
  match n.op with
  | 3 =>
    (s.pealRead r n.srcb n.srcoff n.srcPair n.len).bind fun v =>
      let out := if n.srcPair && !n.dstPair then v.map fun w => let q := pealSum (bitsOf w 0 32) (bitsOf w 32 32); (BitVec.ofNat 64 q.1, q.2)
        else v.map fun w => (w, EFlags.none)
      ((s.pealMerge r n.srcb n.srcoff n.srcPair n.len).pealWrite r n.dstb n.dstoff n.dstPair (out.map (·.1))).map fun s => (s, some (orFlags out))
  | 1 =>
    (s.pealRead r n.srcb n.srcoff n.srcPair n.len).map fun v =>
      let q := (n.partner p.nrank p.rank).getD 0
      let f : PealFlit := { group := p.group, seq := r.seq, tag := n.tag, sig := p.sig, nrank := p.nrank, rop := p.rop, rfmt := p.rfmt,
                            src := p.rank, data := v, notice := 0 }
      let size := if sum32 then 8 else 4
      let g := { blankFlit .collective 0 part 0 with size := size * v.length, data := (v.map (wordBytes size)).flatten, peal := some f }
      ((s.pealMerge r n.srcb n.srcoff n.srcPair n.len).toRank i r p q g fun s => s.after 1 (.pealArrival part f), some EFlags.none)
  | _ =>
    match s.engine.held.find? fun x => heldFor part p.group r.seq x && p.takes n x.2 with
    | none => some (s, none)
    | some x =>
      let v := x.2.data ++ List.replicate (n.len - x.2.data.length) 0
      let s := { s with engine := { s.engine with held := s.engine.held.erase x } }
      if n.op = 4 then (s.pealWrite r n.dstb n.dstoff n.dstPair (v.take n.len)).map fun s => (s, some EFlags.none)
      else (s.pealRead r n.dstb n.dstoff n.dstPair n.len .store).bind fun d =>
        let out := (d.zip v).map fun q => pealReduce p.rop p.rfmt q.1 q.2
        ((s.pealMerge r n.dstb n.dstoff n.dstPair n.len .store).pealWrite r n.dstb n.dstoff n.dstPair (out.map (·.1))).map fun s => (s, some (orFlags out))

/-- The result of a node's attempt. -/
inductive Attempt
  | done (s : State)
  | faulted
deriving DecidableEq, Repr

/-- A ready node of a running run acts, or is skipped where it does not act at this rank (R401-R403). -/
def State.runNode (s : State) (i j : Nat) (r : PealRun) (p : Peal) (n : GraphNode) : Attempt :=
  if !n.acts p.nrank p.rank then .done (s.nodeDone i j r n EFlags.none)
  else match s.nodeActs i r p n with
    | none => .faulted
    | some (s, none) => .done s
    | some (s, some fl) => .done (s.nodeDone i j r n fl)

/-- Does a pending list hold a node of a run (R336)? -/
def State.nodePending (s : State) (q entry id trigger : Nat) : Bool :=
  let key := s.imageOf q entry
  (List.range (min 32 (leNat (s.mem.readBytes (key + 0x18) 8)))).any fun i =>
    let l := s.mem.readBytes (key + 0x400 + 32 * i) 32
    structNat l 0 2 == 2 && structNat l 4 4 == id && structNat l 8 8 == trigger

/-- The table entry of a context on a cluster. -/
def State.entryOfKey (s : State) (q k : Nat) : Option Nat :=
  ((s.cluster q).ctable.find fun e w => tableWeight w != 0 && s.entryKey q e == k).map (·.1)

/-- Is a node's arrival held, if it needs one (R402)? -/
def State.nodeReady (s : State) (r : PealRun) (p : Peal) (n : GraphNode) : Bool :=
  !n.isRecv || s.engine.held.any fun x => heldFor (r.peal / 128) p.group r.seq x && p.takes n x.2

/-- PEAL_NODE (R401-R403, R408): a node that does not act completes; while its context is away a ready node goes to the pending list, once, and it acts
from there; a buffer that faults ends the run with FAULT. -/
def execPealNode (part run node : Nat) (s : State) : Out :=
  .next (match s.run run with
    | none => s
    | some r =>
      if !r.begun || r.status.isSome || r.peal / 128 ≠ part || r.cnt.getD node 1 ≠ 0 || r.ended.getD node true then s
      else match s.pealOf r with
        | none => s
        | some p => match p.nodes[node]? with
          | none => s
          | some n =>
            let trigger := node + r.seq % 2 ^ 32 * 65536
            if !n.acts p.nrank p.rank then s.nodeDone run node r n EFlags.none
            else if !s.nodeReady r p n then s
            else if (s.entryOfKey r.cluster p.ctx).any fun e => s.nodePending r.cluster e (r.peal % 128) trigger then s
            else match s.awayEntry r.cluster p.ctx with
              | some e => match s.appendPending r.cluster e 2 0 (r.peal % 128) trigger with
                | some s => s
                | none => s.after 64 (.pealNode part run node)
              | none => match s.runNode run node r p n with
                | .done s => s
                | .faulted => s.endRun run r 3)

-- ==== arrivals and notices (R405, R408) ====

/-- GROUP counters (R402). -/
def State.groupSeq (s : State) (part group : Nat) : Nat := s.engine.seqs.get 0 (part * 2 ^ 24 + group)

/-- Is a sequence number of a group still to come at this member? -/
def State.seqAhead (s : State) (part group seq : Nat) : Bool := (seq + 2 ^ 32 - s.groupSeq part group) % 2 ^ 32 < 2 ^ 31

/-- A flit of a run is held; of those for runs that have not begun, one beyond the device's 4,096 waits. -/
def State.holdArrival (s : State) (part : Nat) (f : PealFlit) : State :=
  if !s.runBegun part f.group f.seq && decide (4096 ≤ s.heldEarly) then s.after 64 (pealStep part f)
  else { s with engine := { s.engine with held := s.engine.held ++ [(part, f)] } }

def State.dropArrival (s : State) : State := { s with engine := { s.engine with dropped := s.engine.dropped + 1 } }

/-- PEAL_ARRIVAL (R405). -/
def execPealArrival (part : Nat) (f : PealFlit) (s : State) : Out :=
  .next (match s.runAt part f.group f.seq with
    | none => if s.seqAhead part f.group f.seq then s.holdArrival part f else s.dropArrival
    | some (i, r) =>
      if r.status.isSome then s.dropArrival
      else if !r.begun then s.holdArrival part f
      else match s.pealOf r with
        | none => s
        | some p => if p.accepts f then (s.holdArrival part f).pokeNodes i r else s.endRun i r 1)

/-- PEAL_NOTICE (R405, R408): the run ends with MISMATCH or LOST; one that has not begun ends so when it does. -/
def execPealNotice (part : Nat) (group seq : Nat) (lost : Bool) (s : State) : Out :=
  .next (match s.runAt part group seq with
    | none => if s.seqAhead part group seq then s.holdArrival part (noticeFlit group seq lost) else s
    | some (i, r) =>
      if r.status.isSome then s
      else if !r.begun then s.holdArrival part (noticeFlit group seq lost)
      else s.endRun i r (if lost then 2 else 1))

-- ==== PEAL.RUN, PEAL.WAIT (R416) ====

/-- The peal of an id operand that the issuing context may use (R416, R419). -/
def State.pealFor (s : State) (v : Word) : Option Peal :=
  if bitsOf v 7 57 ≠ 0 then none
  else match s.engine.peals.get? (pealKey s.me.id.part v.toNat) with
    | some p => if v.toNat ≠ 0 ∧ p.ctx = contextKey s.me.id.part s.me.id.ctx ∧ p.readyAt ≤ s.now then some p else none
    | none => none

/-- The scope of a peal. -/
def Peal.sc (p : Peal) : Scope := match p.scope with | 5 => .group | 6 => .domain | _ => .system

/-- PEAL.RUN (R402, R407, R416): a release at SCOPE. -/
def execPealRun (d a b : Reg) (xa xb : Bool) (g : PReg) (s : State) : Out :=
  .next (s.needs 5 (s.guarded g (s.operands [srcA a xa, srcB b xb] [d] true
    (match s.pealFor (s.rd a) with
     | none => s.longWithin d .other 100 (.val 1)
     | some p => s.readStruct (s.rd b) (8 * p.nbase) 8 fun s l =>
       let t := s.me
       let key := pealKey t.id.part (s.rd a).toNat
       if 4 ≤ (s.runsOf key).length || s.awaitsRemote p.sc then s.waits
       else
         let seq := s.groupSeq t.id.part p.group
         let r : PealRun := { peal := key, seq := seq, base := (List.range p.nbase).map fun i => leWord ((l.drop (8 * i)).take 8),
                              asid := t.id.asid, cluster := clusterOf s.myCore, priv := t.status.priv, begun := false,
                              cnt := p.nodes.map (·.depcnt), ended := p.nodes.map fun _ => false, flags := 0, status := none }
         let s := s.releaseMe p.sc
         let run := s.nextTag
         let eng := { s.engine with runs := s.engine.runs.set run r, seqs := s.engine.seqs.set (t.id.part * 2 ^ 24 + p.group) ((seq + 1) % 2 ^ 32) }
         (({ s with engine := eng } : State).newTag.longWithin d .other 100 (.val (BitVec.ofNat 64 (seq * 65536)))).beginRun key))))

/-- PEAL.WAIT (R407, R409, R416). -/
def execPealWait (d a : Reg) (xa : Bool) (g : PReg) (s : State) : Out :=
  .next (s.needs 5 (s.guarded g (s.operands [srcA a xa] [d] true
    (match s.pealFor (s.rd a) with
     | none => s.longWithin d .other 100 (.val 0xffffffffffff0003)
     | some _ =>
       let key := pealKey s.me.id.part (s.rd a).toNat
       let w := (key, s.me.id.uid, s.nextTag)
       let s := s.goOn.startLong d .await
       ({ s with engine := { s.engine with waits := s.engine.waits ++ [w] } } : State).servePealWaits key 1))))

end Sys2Proof.Machine
end

