-- ==== Sys2Proof/Machine/System.lean ====
section
/-! DEFINITION. Traps by instruction and the returns (R305, R343-R346), user completion interrupts (R247), TLB upkeep (R347,
R348), parking (R353, R432), and failures that are owed to a strand (R389). -/

namespace Sys2Proof.Machine

/-- The privilege check of R343: below it, trap (9, 4) with TVAL 0. -/
def State.atPriv (s : State) (p : Priv) (k : State) : State :=
  if privGe s.me.status.priv p then k else s.takeTrap 9 4 0

/-- TRAP (R344). -/
def execTrap (n : BitVec 5) (g : PReg) (s : State) : Out := .next (s.guarded g (s.takeTrap 9 (16 + n.toNat) 0))

/-- The slot whose pc an instruction has set: the next bundle is ready `n` cycles later. -/
def Slot.resumeAt (t : Slot) (at_ : Nat) : Slot := { t with front := { t.front with readyAt := at_, fetch := none } }

/-- The wait that the handler of a trap level has set aside goes on (R389). -/
def Slot.takeBack (t : Slot) (n : Nat) : Slot :=
  { t with front := { t.front with wait := t.front.held.get t.front.wait n, held := t.front.held.del n } }

/-- RETT (R305, R306, R345). -/
def execRett (g : PReg) (s : State) : Out :=
  .next (s.guarded g
    (if s.me.status.tl = 0 then s.takeTrap 9 5 0
     else (s.modMe fun t => (t.leaveTrap.takeBack t.status.tl).resumeAt (s.now + 3)).withFlow .jump))

/-- s1-s3 and PW taken back from the shadow copies (R247). -/
def Slot.unshadow (t : Slot) : Slot :=
  let full (c : RegCell) : RegCell := { val := c.val, mark := .full, poison := false }
  let t := ((t.putReg 1 (full t.uint.shadow.s1)).putReg 2 (full t.uint.shadow.s2)).putReg 3 (full t.uint.shadow.s3)
  { t with pw := pwOf t.uint.shadow.pw, status := { t.status with ui := false }, pc := pcOf t.uint.uhpc,
           front := { t.front with wait := t.front.held.get .none 0, held := t.front.held.del 0 } }

/-- The names of s1-s3 destroyed, as a short producer's write destroys them (R22). -/
def State.freeShadowed (s : State) (i : Nat) : State :=
  let t := s.slot i
  [1, 2, 3].foldl (fun s n => if (t.reg (BitVec.ofNat 5 n)).mark = .named then s.freeRegName t.id.uid n else s) s

/-- UIRET (R247, R346). -/
def execUiret (g : PReg) (s : State) : Out :=
  let t := s.me
  .next (s.guarded g
    (if !t.status.ui then s.takeTrap 9 6 0
     else if [1, 2, 3].any fun n => decide ((s.src.reg (BitVec.ofNat 5 n)).mark = .pending) then s.waits
     else ((s.freeShadowed s.cur).modMe fun t => t.unshadow.resumeAt (s.now + 3)).withFlow .jump))

/-- A handler sets the slot's wait aside under a number (R247, R389). -/
def Slot.setAside (t : Slot) (n : Nat) : Slot :=
  { t with front := { t.front with wait := .none, held := if t.front.wait = .none then t.front.held else t.front.held.set n t.front.wait } }

/-- The slot at the entry of a user completion-interrupt handler (R247). -/
def Slot.enterHandler (t : Slot) (value target : Word) (rest : List (Word × Word)) : Slot :=
  let full (v : Word) : RegCell := { val := v, mark := .full, poison := false }
  let shadow : Shadow := { s1 := t.reg 1, s2 := t.reg 2, s3 := t.reg 3, pw := t.pw }
  let dropped := t.uint.dropped
  let t := ((t.putReg 1 (full value)).putReg 2 (full target)).putReg 3 (full (if dropped then 1 else 0))
  { t.setAside 0 with
    uint := { t.uint with shadow := shadow, uhpc := pcOf t.pc, pending := rest, dropped := false }
    pc := pcOf t.uint.uhvec
    status := { t.status with ui := true }
    front := { (t.setAside 0).front with halted := false } }

/-- USER_INTERRUPT_ENTRY (R247). -/
def execUserInterruptEntry (i : Nat) (s : State) : Out :=
  let t := s.slot i
  .next (match t.uint.pending with
    | [] => s
    | (v, tg) :: rest =>
      if t.status.tl ≠ 0 || t.status.ui || t.phase ≠ .live then s
      else (s.freeShadowed i).modSlot i fun t => (t.enterHandler v tg rest).resumeAt (s.now + 1))

-- ==== TLBs (R347, R348) ====

/-- Does a TLBINV drop an entry (R347)? -/
def TlbEntry.dropped (e : TlbEntry) (part asid : Nat) (va : Word) (k : TlbKind) : Bool :=
  e.part == part && match k with
    | .page => (e.asid == asid || e.leaf.getLsbD 6) && e.page == va.toNat / 2 ^ e.bits
    | .asid => e.asid == asid && !e.leaf.getLsbD 6
    | .all => true

/-- Could a walk of an address under an ASID produce an entry that a TLBINV drops (R347)? A page is of 1 GiB at most, and may be global. -/
def reachedBy (k : TlbKind) (asid : Nat) (va : Word) (asid' : Nat) (va' : Nat) : Bool :=
  match k with
  | .page => va' / 2 ^ 30 == va.toNat / 2 ^ 30
  | .asid => asid' == asid
  | .all => true

/-- Does an entry translate to a byte of this device's memory, by its key? -/
def TlbEntry.leadsTo (e : TlbEntry) (key : Nat) : Bool :=
  key / 2 ^ 49 == e.part && key % 2 ^ 49 / 2 ^ e.bits == e.leaf.toNat % 2 ^ 49 / 2 ^ e.bits

/-- The ASID under which a strand's accesses are translated (R313). -/
def State.asidFor (s : State) (uid : Nat) : Nat :=
  match s.slotOf uid with
  | some i => (s.slot i).id.asid
  | none => s.asidOf (uid / 2 ^ 48) (uid / 2 ^ 32 % 65536)

/-- Is an access of a strand to an address one that dropped entries translated (R347)? -/
def State.through (s : State) (gone : List TlbEntry) (part uid : Nat) (va : Word) : Bool :=
  gone.any fun e => e.hits part (s.asidFor uid) va

/-- Is a load of a strand under way at another device, or held at a FILLING granule? -/
def State.elsewhere (s : State) (uid tag : Nat) : Bool :=
  s.cores.any (fun c => c.2.unacked.any fun u => u.uid == uid && u.tag == tag) || s.melts.any fun m => m.held.any fun h => h.uid == uid && h.tag == tag

/-- The tags of a slot's own loads that are under way, an LD.M's among them. -/
def Slot.loads (t : Slot) : List Nat :=
  ((t.pend.out.filter fun o => decide (o.kind = .load)).map fun o => o.tag) ++ match t.front.wait with
    | .melt tag => [tag]
    | _ => []

/-- Are the accesses performed that a partition's strands and commands had issued before a tag and that dropped entries had translated: stores, whether
here or on their way to another device, atomics, and requests to other devices and to FILLING granules by their addresses; the other loads, which
end within the times of R164, all of them (R347)? -/
def State.drained (s : State) (part tag : Nat) (gone : List TlbEntry) : Bool :=
  !(s.cores.any fun c =>
      (c.2.sb.any fun e => e.part == part && e.id < tag && s.through gone part e.uid e.va)
        || (c.2.atomics.any fun r => r.part == part && r.tag < tag && gone.any fun e => e.leadsTo r.key)
        || c.2.unacked.any fun u => u.flit.part == part && u.since ≤ tag && !u.acked && s.through gone part u.uid u.tval)
    && !(s.melts.any fun m => m.part == part && m.held.any fun h => h.cmd.isNone && h.flit.isNone && h.tag < tag && gone.any fun e => e.leadsTo h.key)
    && !(!gone.isEmpty && s.slots.any fun t => t.2.id.part == part && t.2.loads.any fun n => n < tag && !s.elsewhere t.2.id.uid n)

/-- The walks that could produce a dropped entry start again: who waits for one looks anew (R347). -/
def State.rewalk (s : State) (part asid : Nat) (va : Word) (k : TlbKind) : State :=
  let hit (p a : Nat) (w : Option Word) : Bool := p == part && w.any fun v => reachedBy k asid va a v.toNat
  { s with
    walks := s.walks.filter fun w => !(w.part == part && reachedBy k asid va w.asid (w.page * 65536))
    slots := s.slots.map fun i t =>
      if i ≠ s.cur && hit t.id.part t.id.asid t.front.walked then
        { t with front := { t.front with walked := none, walkFault := none, readyAt := min t.front.readyAt (s.now + 1) } }
      else t
    cmds := s.cmds.map fun _ c => if hit c.part c.asid c.walked then { c with walked := none, walkFault := none } else c }

/-- The entries that a TLBINV drops, from every core and cluster TLB. -/
def State.dropEntries (s : State) (p : TlbEntry → Bool) : State :=
  { s with cores := s.cores.map fun _ c => { c with tlb := c.tlb.filter fun e => !p e },
           clusters := s.clusters.map fun _ c => { c with tlb := c.tlb.filter fun e => !p e } }

/-- The entries of all TLBs that a TLBINV drops. -/
def State.entriesWhere (s : State) (p : TlbEntry → Bool) : List TlbEntry :=
  (s.cores.flatMap fun c => c.2.tlb.filter p) ++ s.clusters.flatMap fun c => c.2.tlb.filter p

/-- TLBINV (R343, R347): the entries go at once, and the bundle completes when the accesses made through them are
performed. -/
def execTlbinv (a b : Reg) (xa xb : Bool) (g : PReg) (k : TlbKind) (s : State) : Out :=
  let part := s.me.id.part
  .next (s.guarded g (match s.me.front.wait with
    | .drain tag gone =>
      if s.drained part tag gone then s.goOn.modMe fun t => { t with front := { t.front with wait := .none } } else s.waits
    | _ => s.operands [srcA a xa, srcB b xb] [] false (s.atPriv .s
      (let va := s.rd a
       let asid := s.rd b
       if k ≠ .all && bitsOf asid 12 52 ≠ 0 then s.takeTrap 9 9 asid
       else if k = .page && bitsOf va 48 16 ≠ 0 then s.takeTrap 9 9 va
       else
         let p (e : TlbEntry) : Bool := e.dropped part (bitsOf asid 0 12) va k
         let s' := (s.dropEntries p).rewalk part (bitsOf asid 0 12) va k
         (s'.newTag.modMe fun t => { t with front := { t.front with wait := .drain s.nextTag (s.entriesWhere p) } }).withFlow .held))))

/-- TLBPROBE (R343, R348): a hit in a TLB delivers after 4 cycles; else the walk of R323, for which a walker must be free. -/
def execTlbprobe (d a : Reg) (xa : Bool) (g : PReg) (s : State) : Out :=
  .next (s.guarded g (s.operands [srcA a xa] [d] true (s.atPriv .s
    (let va := s.rd a
     let w := s.whoMe
     let hits (l : List TlbEntry) : Option TlbEntry := l.find? fun e => e.hits w.part w.asid va
     if va.getLsbD 63 then s.takeTrap 9 9 va
     else match (hits (s.core w.core).tlb).orElse fun _ => hits (s.cluster (clusterOf w.core)).tlb with
       | some e => s.long d .arith 4 (.val (probeWord e.leaf e.bits va true))
       | none => match s.walkFor w.core w.part w.asid va with
         | some (t, done) =>
           (t.goOn.startLong d .arith).afterArg (done - s.now) (.tlbWalk w.core w.asid va .load) [w.part, s.me.id.uid, s.nextTag]
         | none => (s.modMe fun t => { t with front := { t.front with readyAt := max t.front.readyAt (s.now + 1) } }).waits))))

-- ==== parking (R353, R432) ====

/-- HALT (R343, R353): a wake event of the same cycle wakes the strand at once. -/
def execHalt (g : PReg) (s : State) : Out :=
  .next (s.guarded g (s.atPriv .m (s.goOn.modMe fun t => { t with front := { t.front with halted := t.front.woken != s.now + 1 } })))

/-- WAKE (R432): core and slot travel in the step's numbers; a slot that is not halted takes no effect. -/
def execWake (s : State) : Out :=
  let i := s.argAt 0 * 8 + s.argAt 1
  .next (s.wake (· == i))

-- ==== failures owed to a strand (R389) ====

/-- REMOTE_FAILURE_TRAP (R389): the oldest failure owed to the strand is taken at its bundle boundary, or where it waits, as a class 10 trap; a wait
at a barrier or for an answer goes on after the handler, as after that of a completion interrupt (R247, log 144). -/
def execRemoteFailureTrap (i : Nat) (s : State) : Out :=
  let t := s.slot i
  .next (match s.owed.find? fun o => o.1 == t.id.uid with
    | none => s
    | some o => (({ s with owed := s.owed.erase o }).modSlot i fun t => t.setAside (t.status.tl + 1)).trapSlot i 10 o.2.1 o.2.2)

end Sys2Proof.Machine
end

