-- ==== Sys2Proof/Machine/Preempt.lean ====
section
/-! DEFINITION. Pre-emption and context images (R326-R341), CTXSAVE, CTXLOAD and FOLDSET (R349-R352), the context table (R327), kills
(R308-R311) and soft errors that cannot be corrected (R318). -/

namespace Sys2Proof.Machine

-- ==== images (R330) ====

def State.putImage (s : State) (key off : Nat) (l : List Byte) : State := { s with mem := s.mem.writeBytes (key + off) l }

def State.zeroImage (s : State) (key off n : Nat) : State := { s with mem := s.mem.clear (key + off) (key + off + n) }

/-- Does a core's pool belong to a context? -/
def State.serves (s : State) (core k : Nat) : Bool := (s.core core).poolFor.any fun p => p.1 == k

/-- The virtual cores that a context has occupied in a cluster, or whose core has received a message for it (R125), each with its physical core. -/
def State.present (s : State) (q k : Nat) : List (Nat × Nat) :=
  (s.virtualCores q).filter fun p => s.serves p.2 k || (s.core p.2).recvq.any fun f => f.uid / 2 ^ 32 == k

/-- NVC of the image that a save writes (R330). -/
def State.nvcOf (s : State) (q k : Nat) : Nat := (s.present q k).foldl (fun a p => max a (p.1 + 1)) 0

/-- Regions of a virtual core: its base unfolded, then its physical core, base and limit, in 16 KiB units (R332, R338). -/
def State.regionsOf (s : State) (q k v : Nat) : List (Nat × Nat × Nat × Nat) :=
  [1, 0, 2].filterMap fun r => (s.explicitCore q k v r).map fun p => ((poolRegion (s.context k).pool r).1, p)

/-- The 2 KiB blocks of a virtual core: the block of the image and the block of the physical pool (R332, R333). -/
def State.blockMap (s : State) (q k v : Nat) : List (Nat × Nat) :=
  (s.regionsOf q k v).flatMap fun g => (List.range (8 * g.2.2.2)).map fun i => (8 * g.1 + i, 8 * g.2.2.1 + i)

/-- The written ones; none where the pool is to be cleared before its next use (R150, R333). -/
def State.writtenOf (s : State) (q k v core : Nat) : List (Nat × Nat) :=
  if (s.core core).poolFor = some (k, (s.context k).latch) then (s.blockMap q k v).filter fun p => (s.core core).written.contains p.2
  else []

/-- The virtual core and slot of a strand: the physical ones, or, folded, those of SEG (R339). -/
def State.placeOf (s : State) (q i : Nat) : Nat × Nat :=
  if (s.cluster q).folded then (segVcore (s.slot i).id.seg, segVslot (s.slot i).id.seg) else (coreNo (coreOf i), slotNo i)

/-- The commands of a virtual core of a context, in queue order. -/
def State.cmdsOf (s : State) (core v k : Nat) : List Cmd :=
  (s.cmds.select fun _ c => c.core == core && c.vcore == v && contextKey c.part c.ctx == k).map (·.2)

/-- KiB that a save or a restore moves: the header, and 4 KiB, 2 KiB a slot and 2 KiB a block for each virtual core (R335). -/
def kibOf (cores slots blocks : Nat) : Nat := 8 + 4 * cores + 2 * slots + 2 * blocks

/-- The cycles that this takes (R335). -/
def moveTime (kib : Nat) : Nat := (kib * 1024 + 399) / 400

/-- KiB of the image that a save writes. -/
def State.saveKib (s : State) (q k : Nat) : Nat :=
  kibOf (s.nvcOf q k) (s.slotsOf q k).length ((s.present q k).foldl (fun n p => n + (s.writtenOf q k p.1 p.2).length) 0)

-- ==== saving (R328, R329) ====

/-- A barrier wait outlasts a save; a message send is withdrawn, and every other wait has come to its end (R328). -/
def Wait.kept : Wait → Wait
  | .barrier k => .barrier k
  | _ => .none

/-- A wait that a handler has set aside: an answer that has come stays for its bundle, too. -/
def Wait.heldKept : Wait → Wait
  | .served v => .served v
  | .refused => .refused
  | w => w.kept

/-- One slot written to its slot record. -/
def State.saveSlot (s : State) (q k key i : Nat) : State :=
  let t := s.slot i
  let p := s.placeOf q i
  let at_ := key + sectionAt p.1
  let a : Away := { key := at_ + 2048 * p.2, pool := at_ + sectionPool, out := t.pend.out, seq := t.pend.seq, wait := t.front.wait.kept,
                    held := List.map (fun p => (p.1, p.2.heldKept)) t.front.held, own := decide (t.id.seg ≠ s.segFor q i p.1 p.2 (s.context k).pool), rets := t.rets }
  { s with mem := s.mem.writeBytes (at_ + 2048 * p.2) t.record, away := s.away.set t.id.uid a }

/-- The 32 bytes of a flit in a saved receive queue (log 26). -/
def flitBytes (f : MsgFlit) (src : Word) : List Byte :=
  padTo 32 (wordBytes 8 f.value ++ wordBytes 8 src ++ leBytes 2 f.ctx)

/-- A list of records of `n` bytes written one after the other. -/
def State.putRecords (s : State) (key off n : Nat) (l : List (List Byte)) : State :=
  (l.foldl (fun p x => (p.1.putImage key (off + n * p.2) x, p.2 + 1)) (s, 0)).1

/-- The lowest virtual core that a physical core serves: it takes what virtual cores folded together share. -/
def State.firstOn (s : State) (q core v : Nat) : Bool := !((s.virtualCores q).any fun p => p.2 == core && p.1 < v)

/-- Row marks by pool offset, moved between bases in 16 KiB units. -/
def moveMarks (m : Tab (Nat × Nat)) (from_ dest n : Nat) : Tab (Nat × Nat) :=
  (m.select fun x _ => decide (from_ * 256 ≤ x) && decide (x < (from_ + n) * 256)).map fun p => (p.1 - from_ * 256 + dest * 256, p.2)

/-- The key of what stands beside a section: the context, the image's local physical address, and the virtual core. -/
def savedKey (k image v : Nat) : Nat := (k * 2 ^ 49 + image % 2 ^ 49) * 32 + v

/-- The section of a virtual core without its slot records (R330). -/
def State.saveSection (s : State) (q k key v core : Nat) : State :=
  let c := s.core core
  let first := s.firstOn q core v
  let base := sectionAt v
  let flits := (c.recvq.filter fun f => f.dst == coreAt q v).take 16
  let cmds := s.cmdsOf core v k
  let blocks := s.writtenOf q k v core
  let log := if first then c.log else []
  let leases := if first then c.leases else { marker := none, cur := none, left := c.leases.left }
  let acc := (s.regionsOf q k v).getD 2 (0, 0, 0, 0)
  let saved : SavedCore := { marks := moveMarks c.marks acc.2.2.1 acc.1 acc.2.2.2, leases := leases, log := log }
  let word := flits.length + leases.marker.getD 0 * 2 ^ 16 + (leases.cur.getD (0, 0)).2 % 32 * 2 ^ 24
  let src (f : MsgFlit) : Word := BitVec.ofNat 64 (f.slot * 2 ^ 26 + (s.cidOf f.core).toNat)
  let s := s.putRecords key (base + 0x4000) 32 ((List.range 8).map fun r => leBytes 32 (c.rings.get 0 (8 * v + r)).toNat)
  let s := s.putRecords key (base + 0x4100) 32 (flits.map fun f => flitBytes f (src f))
  let s := s.putImage key (base + 0x4300) (leBytes 8 word)
  let s := s.putImage key (base + 0x4308) (leBytes 48 (blocks.foldl (fun n p => n + 2 ^ p.1) 0))
  let s := s.putRecords key (base + 0x4400) 192 (cmds.map fun c => c.record (if c.state = .faulted then 4 else 3))
  let s := s.putRecords key (base + 0x4880) 16 (log.map fun e => wordBytes 8 e.target ++ wordBytes 8 e.value)
  let s := blocks.foldl (fun s p => s.putImage key (base + sectionPool + 2048 * p.1) (s.readPool core (2048 * p.2) 2048)) s
  { s with saved := s.saved.set (savedKey k key v) saved }

/-- The combining node's windows close, and what a context's commands shared of a fetch ends (R251, R329). -/
def State.stopCommands (s : State) (q k : Nat) : State :=
  let mine (c : Cmd) : Bool := clusterOf c.core == q && contextKey c.part c.ctx == k
  let pass (_ : Nat) (c : Cmd) : Cmd := if mine c then { c with held := false, readyAt := s.now, group := 0 } else c
  let keep (m : Merge) : Bool := !m.cmds.any fun i => (s.cmds.get? i).any mine
  ({ s with cmds := s.cmds.map pass, merged := s.merged.filter fun m => keep m.2 } : State).modCluster q fun c => { c with windows := [] }

/-- No unit of a cluster is leased. -/
def State.dropLeases (s : State) (q : Nat) : State :=
  (List.range 6).foldl (fun s i => s.modQuad (q * 8 + i) fun x => { x with lease := none, leaseFrom := 0 }) s

/-- A context's unanswered messages withdrawn (R328). -/
def State.withdrawMessages (s : State) (q k : Nat) : State :=
  let mine (uid : Nat) : Bool := (s.slotsOf q k).any fun i => (s.slot i).id.uid == uid
  let keep (d : Due) : Bool := match d.ev with
    | .messageFlit f => !mine f.uid
    | .messageResend u => !mine u
    | .messageAnswer u _ => !mine u
    | _ => true
  { s with agenda := s.agenda.filter keep }

/-- The whole context of a cluster written to its image but for the header (R328-R333): a release at DEVICE scope. -/
def State.saveAll (s : State) (q entry k : Nat) : State :=
  let key := s.imageOf q entry
  let nvc := s.nvcOf q k
  let slots := s.slotsOf q k
  let here := s.present q k
  let s := here.foldl (fun s p => s.writeBack p.2) s
  let s := ((s.stopCommands q k).dropLeases q).withdrawMessages q k
  let s := (List.range nvc).foldl (fun s v => s.zeroImage key (sectionAt v) sectionPool) s
  let s := here.foldl (fun s p => s.saveSection q k key p.1 p.2) s
  let s := slots.foldl (fun s i => s.saveSlot q k key i) s
  let s := here.foldl (fun s p => s.modCore p.2 Core.left) s
  let s := slots.foldl (fun s i => s.setSlot i Slot.empty) s
  let away (_ : Nat) (c : Cmd) : Cmd := if clusterOf c.core == q && contextKey c.part c.ctx == k then { c with state := .saved } else c
  { s with cmds := s.cmds.map away }

/-- May a context be saved: its slots are at their boundaries with nothing outstanding but what an image holds, no command of it is executing,
no completion is on its way to another device, and no barrier of the cluster is releasing (R328, R329)? -/
def State.saveReady (s : State) (q k : Nat) : Bool :=
  ((s.slotsOf q k).all fun i => s.savable i && !(s.slot i).front.moving)
    && !(s.cmds.any fun p => clusterOf p.2.core == q && contextKey p.2.part p.2.ctx == k && (p.2.sent || decide (p.2.state = .running) || s.cmdRemoteOpen p.2))
    && !(s.barriers.any fun b => b.2.releasing && barrierScope b.1 < 3 && b.1 / 16 % 2 ^ 22 == k)

/-- The counter of a scope instance by its number. -/
def localBarrier (k scope i b : Nat) : Nat := ((scope * 2048 + i) * 2 ^ 22 + k) * 16 + b

/-- The counters of a cluster that an image holds, each with its offset in the header (R330). -/
def headerBarriers (q k : Nat) : List (Nat × Nat) :=
  ((List.range 24).flatMap fun v => (List.range 16).map fun b => (0x800 + 128 * v + 8 * b, localBarrier k 0 (q * 32 + v) b))
    ++ ((List.range 6).flatMap fun v => (List.range 16).map fun b => (0x1400 + 128 * v + 8 * b, localBarrier k 1 (q * 32 + v) b))
    ++ (List.range 16).map fun b => (0x1700 + 8 * b, localBarrier k 2 q b)

/-- A table of fold entries as 192 bytes (R337). -/
def foldBytes (t : Tab Word) : List Byte := ((List.range 24).map fun v => wordBytes 8 (t.get 0 v)).flatten

def foldValid (t : Tab Word) : Bool := t.any fun e => e.2.getLsbD 63

/-- The header of an image (R330). The pending list and PFAULT stay as they are in an image that the device has written before. -/
def State.writeHeader (s : State) (q entry k nvc : Nat) (fold : Tab Word) : State :=
  let key := s.imageOf q entry
  let kept := (s.cluster q).headed.contains entry
  let old := s.mem.readBytes (key + 0x18) 0x18
  let list := s.mem.readBytes (key + 0x400) 0x400
  let s := (s.zeroImage key 0 0x2000).putImage key 0 (leBytes 2 (k % 65536) ++ leBytes 1 nvc ++ leBytes 1 (if foldValid fold then 1 else 0)
    ++ leBytes 4 0 ++ wordBytes 8 (s.poolNow (k / 65536) (k % 65536)) ++ wordBytes 8 (s.cidOf (coreAt q 0)))
  let s := if kept then (s.putImage key 0x18 old).putImage key 0x400 list else s
  let s := s.putImage key 0x100 (foldBytes fold)
  let s := (headerBarriers q k).foldl (fun s p =>
    let w := (s.barrier p.2).word
    if w = 0 then s else s.putImage key p.1 (wordBytes 8 w)) s
  s.modCluster q fun c => { c with headed := if kept then c.headed else entry :: c.headed }

/-- The status word of R349. -/
def saveWord (kib status : Nat) : Word := BitVec.ofNat 64 (kib % 2 ^ 32 * 256 + status)

/-- The status to the strand of a CTXSAVE, where one asked for the save; an acquire at DEVICE scope (R350). -/
def State.tellSaver (s : State) (uid tag : Nat) (w : Word) : State :=
  if uid = 0 then s else s.after 1 (.deliver uid tag (.acq w .device))

/-- A save ends: the cluster chooses its next holder. -/
def State.saveDone (s : State) (q : Nat) : State := (s.modCluster q fun c => { c with saving := none }).startSlice q

/-- CONTEXT_SAVE (R328, R329, R335, R350). The step's numbers are its phase, the strand and tag of a CTXSAVE, and KiB and NVC: phase 0
waits for the slots, phase 1 ends the save with its header. A kill leaves a header with NVC 0. Phase 2 waits for the commands of a context that has come
to its end (R133); phase 3 stands for a CTXSAVE or CTXLOAD whose status is on its way (R355). -/
def execContextSave (cluster entry : Nat) (s : State) : Out :=
  let k := s.entryKey cluster entry
  let uid := s.argAt 1
  let tag := s.argAt 2
  .next (if (s.cluster cluster).saving ≠ some entry ∨ s.argAt 0 = 3 then s
    else if s.argAt 0 = 2 then
      (if (s.context k).live = 0 && s.commandsIn cluster k && decide (s.now < (s.cluster cluster).sliceEnd) then
         s.afterArg 1 (.contextSave cluster entry) [2]
       else if (s.context k).live = 0 && !s.commandsIn cluster k then (s.leaveCores cluster k).saveDone cluster
       else (s.stopHolder cluster k).afterArg 0 (.contextSave cluster entry) [0])
    else if (s.context k).dead then
      ((s.putImage (s.imageOf cluster entry) 2 [0]).saveDone cluster).tellSaver uid tag (saveWord 0 3)
    else if s.argAt 0 = 0 then
      let s := s.stopHolder cluster k
      if !s.saveReady cluster k then s.afterArg 1 (.contextSave cluster entry) [0, uid, tag]
      else
        let kib := s.saveKib cluster k
        let nvc := s.nvcOf cluster k
        (s.saveAll cluster entry k).afterArg (64 + moveTime kib) (.contextSave cluster entry) [1, uid, tag, kib, nvc]
    else
      let s := (s.writeHeader cluster entry k (s.argAt 4) (s.cluster cluster).fold).modCluster cluster fun c =>
        { c with folds := c.folds.set entry c.fold, imaged := entry :: c.imaged.erase entry }
      ((s.saveDone cluster).tellSaver uid tag (saveWord (s.argAt 3) 0)).afterArg 1 (.contextSave cluster entry) [3, 0])

-- ==== restoring (R334, R338, R351) ====

/-- The fold table of an image: its 24 entries where FOLDED is set (R330). -/
def State.imageFold (s : State) (key : Nat) : Tab Word :=
  if s.imageNat key 3 1 % 2 = 1 then (List.range 24).map fun v => (v, BitVec.ofNat 64 (s.imageNat key (0x100 + 8 * v) 8)) else []

/-- The written blocks that an image holds of a virtual core (R330). -/
def State.imageBlocks (s : State) (key v : Nat) : List Nat :=
  let m := s.imageNat key (sectionAt v + 0x4308) 48
  (List.range 384).filter fun b => m / 2 ^ b % 2 == 1

/-- KiB of a restore (R335). -/
def State.restoreKib (s : State) (key : Nat) : Nat :=
  let nvc := s.imageNat key 2 1
  kibOf nvc ((List.range nvc).foldl (fun n v => n + (s.liveRecords key v).length) 0)
    ((List.range nvc).foldl (fun n v => n + (s.imageBlocks key v).length) 0)

/-- The pool blocks of a virtual core back in the pool; they count as written. -/
def State.restoreBlocks (s : State) (q k key v core : Nat) : State :=
  let have_ := s.imageBlocks key v
  ((s.blockMap q k v).filter fun p => have_.contains p.1).foldl (fun s p =>
    s.writePool core (2048 * p.2) (s.mem.readBytes (key + sectionAt v + sectionPool + 2048 * p.1) 2048)) s

/-- A flit from a saved receive queue (log 26). -/
def flitOf (part dst : Nat) (l : List Byte) : MsgFlit :=
  let src := leWord ((l.drop 8).take 8)
  { dst := dst, value := leWord (l.take 8), ctx := leNat ((l.drop 16).take 2), core := bitsOf src 0 11, slot := bitsOf src 26 3,
    uid := strandKey part (leNat ((l.drop 16).take 2)) 0, xa := false, num := 0 }

/-- Leases of virtual cores that now share a core. -/
def Leases.merge (a b : Leases) : Leases :=
  { marker := a.marker.orElse fun _ => b.marker
    cur := a.cur.orElse fun _ => b.cur
    left := b.left.foldl (fun t p => t.set p.1 p.2) a.left }

/-- The completion log of a section (R246, R330): an entry that this device saved keeps its command and its LANDRES (log 131). -/
def State.imageLog (s : State) (section_ : Nat) (saved : List LogEntry) : List LogEntry :=
  ((List.range 64).map fun i =>
    let target := BitVec.ofNat 64 (s.imageNat section_ (0x4880 + 16 * i) 8)
    let value := BitVec.ofNat 64 (s.imageNat section_ (0x4888 + 16 * i) 8)
    match saved[i]? with
    | some e => if e.target = target ∧ e.value = value then e else { id := 0, uid := 0, target := target, value := value, result := 0 }
    | none => { id := 0, uid := 0, target := target, value := value, result := 0 }).filter fun e => e.target != 0 || e.value != 0

/-- Rings, receive queue, leases, row marks and log of a virtual core on its physical core again. -/
def State.restoreCore (s : State) (q k key v core : Nat) : State :=
  let base := sectionAt v
  let id := savedKey k key v
  let x := s.saved.get { marks := [], leases := { marker := none, cur := none, left := [] }, log := [] } id
  let word := BitVec.ofNat 64 (s.imageNat key (base + 0x4300) 8)
  let flits := (List.range (min 16 (bitsOf word 0 5))).map fun i => flitOf (k / 65536) (coreAt q v) (s.mem.readBytes (key + base + 0x4100 + 32 * i) 32)
  let rings := (List.range 8).map fun r => (8 * v + r, BitVec.ofNat 256 (s.imageNat key (base + 0x4000 + 32 * r) 32))
  let log := s.imageLog (key + base) x.log
  let acc := (s.regionsOf q k v).getD 2 (0, 0, 0, 0)
  let marks := moveMarks x.marks acc.1 acc.2.2.1 acc.2.2.2
  let leases := { x.leases with marker := if bitsOf word 16 5 = 0 then none else some (bitsOf word 16 5)
                                cur := x.leases.cur.map fun p => (p.1, bitsOf word 24 5) }
  let put (c : Core) : Core :=
    { c with
      recvq := c.recvq ++ flits
      rings := rings.foldl (fun t p => t.set p.1 p.2) c.rings
      marks := marks.foldl (fun t p => t.set p.1 p.2) c.marks
      log := c.log ++ log
      leases := c.leases.merge leases }
  ({ s with saved := s.saved.del id } : State).modCore core put

/-- The spilled frames of a strand at their place in its new share of the window store (R338, R339). -/
def State.moveFrames (s : State) (i pool : Nat) (old : Word) : State :=
  let t := s.slot i
  let from_ : Slot := { Slot.empty with id := { Slot.empty.id with seg := old } }
  if old = t.id.seg then s
  else (List.range t.oldest).foldl (fun s f =>
    s.writePool (coreOf i) (t.spillAt f) (s.mem.readBytes (pool + from_.shareBase + 144 * f) 144)) s

/-- A wait of a strand as it goes on: a barrier that still lists it, or an answer that has come. -/
def State.stillWaits (s : State) (uid : Nat) : Wait → Wait
  | .barrier k => if (s.barrier k).waiters.contains uid || (s.barrier k).next.contains uid then .barrier k else .none
  | .served v => .served v
  | .refused => .refused
  | _ => .none

/-- What stands beside the slot record of a strand whose record this device has not written: nothing is outstanding, and the return
addresses are free values (log 29). -/
def State.strange (s : State) : Away :=
  { key := 0, pool := 0, out := [], seq := 0, wait := .none, held := [], own := false,
    rets := Vector.ofFn fun i => pcOf (Config.freeWord (s.tick + i.val)) }

/-- A strand placed in slot `i` from its slot record: an acquire at DEVICE scope, and its waiting MFS of MSGIN waits again (R328, R334,
R339). -/
def State.placeSlot (s : State) (q k key v n i : Nat) : State :=
  let at_ := key + sectionAt v + 2048 * n
  let l := s.mem.readBytes at_ 2048
  let part := k / 65536
  let ctx := k % 65536
  let idw := recWord l 8
  let strand := BitVec.ofNat 32 (bitsOf idw 0 32)
  let uid := strandKey part ctx strand
  let a := s.away.get s.strange uid
  let s := if (s.away.get? uid).isSome then s else { s with tick := s.tick + 4 }
  let seg := if a.own then recWord l 0x30 else s.segFor q i v n (s.context k).pool
  let id : StrandId := { part := part, ctx := ctx, strand := strand, place := BitVec.ofNat 16 (bitsOf idw 32 16), uid := uid,
                         asid := s.asidOf part ctx, seg := seg }
  let t := Slot.ofRecord id l
  let t := { t with phase := .live
                    rets := a.rets
                    front := { t.front with readyAt := s.now, wait := s.stillWaits uid a.wait, held := List.map (fun p => (p.1, s.stillWaits uid p.2)) a.held }
                    pend := { out := a.out, seq := a.seq, lastStore := a.seq } }
  let s := { (s.selfInvalidate (coreOf i)).setSlot i t with away := s.away.del uid }
  let s := s.moveFrames i (key + sectionAt v + sectionPool) (recWord l 0x30)
  let waits := (a.out.filter fun o => decide (o.kind = .msgin)).map fun o => ({ uid := uid, slot := i, tag := o.tag, served := false } : MsgWaiter)
  s.modCore (coreOf i) fun c => { c with waiters := c.waiters ++ waits }

/-- One LIVE slot record: refused with REASON 2 for a bad PC, else placed (R334, R338, R351). -/
def State.restoreSlot (s : State) (q k key v core n : Nat) : State :=
  let at_ := key + sectionAt v + 2048 * n
  let pc := BitVec.ofNat 64 (s.imageNat at_ 0 8)
  let part := k / 65536
  let ctx := k % 65536
  let uid := strandKey part ctx (BitVec.ofNat 32 (s.imageNat at_ 8 4))
  if pc.toNat % 8 ≠ 0 || pc.getLsbD 63 then
    ((({ s with away := s.away.del uid } : State).refuseRecord part ctx (BitVec.ofNat 64 (at_ % 2 ^ 49)) 2).endStrand uid).liveDown part ctx
  else match if (s.cluster q).folded then s.freeSlotOf core else some (core * 8 + n) with
    | some i => s.placeSlot q k key v n i
    | none => s

/-- A saved command queued again from its progress record (R329, R334): one whose record is gone or is no command is dropped. -/
def State.restoreCmd (s : State) (core : Nat) (c : Cmd) (l : List Byte) : State :=
  let state := recNat l 6 1
  match recordCmd c l [3, 4] with
  | none => s.delCmd c
  | some x =>
    let x := { x with core := core, slot := (s.slotOf c.uid).getD c.slot, readyAt := s.now, owed := c.owed && state == 4,
                      state := if state = 4 then .faulted else if x.done then .finished else if x.prog.all (· == 0) then .waiting else .suspended }
    let s := (s.putCmd x).poke core x.unit 0
    if x.state = .finished then s.after 1 (.engineCompletion x.id) else s

/-- A command of a progress record that this device has not written: one of no strand, at privilege U, with its stride table read now
(R237, log 131). -/
def State.strangeCmd (s : State) (q k v core : Nat) (l : List Byte) : Option Cmd :=
  let w : Issuer := { q := q, ctxKey := k, vcore := v, rings := s.ringsOf core v }
  (recordCmd
    { id := s.nextCmd, core := core, slot := 0, uid := 0, part := k / 65536, ctx := k % 65536, asid := s.asidOf (k / 65536) (k % 65536),
      priv := .u, unit := .vector, ins := .cnop, fmt := 0, target := 0, control := 0, hasComp := false, hd := 0, ha := 0, hb := 0, hl := 0,
      vcore := v, strides := [], state := .saved, prog := [0, 0, 0, 0, 0], flags := 0, detail := 0, tval := 0, owed := false, spent := [],
      pieces := [], lease := 0, readyAt := 0, held := false, sent := false, group := 0, counted := false, popped := false, walked := none, walkFault := none } l [3, 4]).map
    fun c => { c with strides := s.stridesOf w c.hl, popped := c.done }

/-- The commands of a virtual core, queued again in their order (R329, R330, R334). -/
def State.restoreCmds (s : State) (q k key v core : Nat) : State :=
  let mine := (s.cmds.select fun _ c => clusterOf c.core == q && c.vcore == v && contextKey c.part c.ctx == k && decide (c.state = .saved)).map (·.2)
  (List.range 6).foldl (fun s i =>
    let l := s.mem.readBytes (key + sectionAt v + 0x4400 + 192 * i) 192
    match mine[i]? with
    | some c => s.restoreCmd core c l
    | none => match s.strangeCmd q k v core l with
      | some c => ({ s with nextCmd := s.nextCmd + 1 } : State).restoreCmd core c l
      | none => s) s

/-- A counter of an image (R135): its waiters go on waiting. -/
def Barrier.reload (b : Barrier) (w : Word) : Barrier :=
  { b with round := BitVec.ofNat 8 (bitsOf w 56 8), count := bitsOf w 28 28, arrived := bitsOf w 0 28, releasing := false }

/-- The whole context back from its image (R334). -/
def State.restoreAll (s : State) (q entry k : Nat) : State :=
  let key := s.imageOf q entry
  let fold := s.imageFold key
  let s := s.modCluster q fun c => { c with fold := fold, folds := c.folds.set entry fold }
  let pool := BitVec.ofNat 64 (s.imageNat key 8 8)
  let s := s.modContext k fun c => { c with pool := pool }
  let nvc := s.imageNat key 2 1
  let here := (s.virtualCores q).filter fun p => p.1 < nvc
  let own (core : Nat) (s : State) : State :=
    (s.clearPool core).modCore core fun c => { c.left with poolWord := pool, poolFor := some (k, (s.context k).latch) }
  let s := here.foldl (fun s p => own p.2 s) s
  let s := (headerBarriers q k).foldl (fun s p =>
    let w := BitVec.ofNat 64 (s.imageNat key p.1 8)
    if w = (s.barrier p.2).word then s else s.modBarrier p.2 fun b => b.reload w) s
  let s := here.foldl (fun s p => (s.restoreBlocks q k key p.1 p.2).restoreCore q k key p.1 p.2) s
  let s := here.foldl (fun s p => (s.liveRecords key p.1).foldl (fun s n => s.restoreSlot q k key p.1 p.2 n) s) s
  let s := here.foldl (fun s p => s.restoreCmds q k key p.1 p.2) s
  here.foldl (fun s p => s.serveMessages p.2) s

-- ==== the pending list at restore (R336, R408) ====

/-- The first address of a range that has no translation, with the reason of class 4. -/
def State.translationFault (s : State) (part asid : Nat) (ps : List (Nat × Nat)) : Option (Nat × Nat) :=
  ps.findSome? fun p => match (s.walk 0 part asid (BitVec.ofNat 64 p.1)).2.result with
    | .error r => some (p.1, r)
    | .ok _ => none

/-- The first buffer of a peal node that has no translation; `store` says which buffer it is. -/
def State.nodeFault (s : State) (r : PealRun) (n : GraphNode) : Option (Nat × Nat) :=
  let part := r.peal / 128
  let look (slot : Nat) (off : Word) (pair : Bool) (kind : Nat) : Option (Nat × Nat) :=
    (s.translationFault part r.asid (piecesOf (r.base.getD slot 0 + off).toNat (n.len * elemSize pair))).map fun x => (x.1, kind + x.2)
  let src := if n.op = 1 ∨ n.op = 3 then look n.srcb n.srcoff n.srcPair 0 else none
  match src with
  | some x => some x
  | none => if n.op = 1 then none else look n.dstb n.dstoff n.dstPair 8

/-- What an entry of a pending list comes to: it has acted, or its buffer's address faults with a class 4 detail. -/
inductive Fired
  | acted (s : State)
  | faulted (va detail : Nat)
deriving DecidableEq, Repr

/-- A drift firing acts: the request that it names becomes sendable. -/
def State.fireDrift (s : State) (q k part n : Nat) : Fired :=
  let mine (w : WorkReq) : Bool := w.trig == 3 && w.cluster == q && w.uid / 2 ^ 32 == k
  match (s.dqueue part n).held.find? mine with
  | none => .acted s
  | some w =>
    match s.translationFault part (bitsOf (s.descWord part n 16) 32 12) (piecesOf (w.va.toNat + w.off) (w.len - w.off)) with
    | some x => .faulted x.1 x.2
    | none => .acted ((s.changeReq part n mine fun w => { w with trig := 0, fired := true }).after 0 (.driftSend part n))

/-- A peal node's firing acts. -/
def State.firePeal (s : State) (part id trigger : Nat) : Fired :=
  let key := pealKey part id
  match (s.runsOf key).find? fun x => x.2.seq % 2 ^ 32 == trigger / 65536 % 2 ^ 32 with
  | none => .acted s
  | some (i, r) =>
    match (s.pealOf r).bind fun p => p.nodes[trigger % 65536]? with
    | none => .acted s
    | some n => match s.nodeFault r n with
      | some x => .faulted x.1 x.2
      | none => .acted (s.after 0 (.pealNode part i (trigger % 65536)))

/-- The entries of a pending list in order: those that act, and those that stay with the first fault among them. -/
def State.fireAll (s : State) (q k key : Nat) : Nat → Nat → List (List Byte) → Option (Nat × Nat × Nat) → State × List (List Byte) × Option (Nat × Nat × Nat)
  | 0, _, stay, f => (s, stay, f)
  | n + 1, i, stay, f =>
    let l := s.mem.readBytes (key + 0x400 + 32 * i) 32
    let part := k / 65536
    let x := match structNat l 0 2 with
      | 1 => s.fireDrift q k part (structNat l 4 4)
      | 2 => s.firePeal part (structNat l 4 4) (structNat l 8 8)
      | _ => .acted s
    match x with
    | .acted s => s.fireAll q k key n (i + 1) stay f
    | .faulted va d => s.fireAll q k key n (i + 1) (stay ++ [l]) (match f with | some f => some f | none => some (stay.length, va, d))

/-- The pending list acts; a fault goes to PFAULT with VALID, and the exception completion word completes (R336). -/
def State.actPending (s : State) (q entry k : Nat) : State :=
  let key := s.imageOf q entry
  let n := min 32 (s.imageNat key 0x18 8)
  if n = 0 then s
  else
    let x := s.fireAll q k key n 0 [] none
    let s := (x.1.zeroImage key 0x400 0x400).putRecords key 0x400 32 x.2.1
    let s := s.putImage key 0x18 (leBytes 8 x.2.1.length)
    match x.2.2 with
    | none => s
    | some (i, va, d) =>
      let s := s.putImage key 0x20 (leBytes 8 va ++ leBytes 8 (2 ^ 63 + i * 2 ^ 16 + 4 * 32 + d))
      (s.completeCcb (k / 65536) (k % 65536) 64 0).after 64 (.pfaultClear q entry)

/-- PFAULT_CLEAR (R336): once the supervisor has written zero to PFAULT the pending entries act, if the context holds the cluster; until
then the device looks again. -/
def execPfaultClear (cluster entry : Nat) (s : State) : Out :=
  let key := s.imageOf cluster entry
  let c := s.cluster cluster
  .next (if c.holder ≠ some entry || c.saving.isSome then s
    else if s.imageNat key 0x28 8 ≠ 0 then s.after 64 (.pfaultClear cluster entry)
    else s.actPending cluster entry (s.entryKey cluster entry))

/-- CONTEXT_RESTORE (R334, R335). The step's number is its phase: phase 0 begins the restore, phase 1 ends it. -/
def execContextRestore (cluster entry : Nat) (s : State) : Out :=
  let c := s.cluster cluster
  let k := s.entryKey cluster entry
  let key := s.imageOf cluster entry
  .next (if c.holder ≠ some entry ∨ c.saving ≠ some entry then s
    else if (s.context k).dead then s.saveDone cluster
    else if s.argAt 0 = 0 then s.afterArg (moveTime (s.restoreKib key)) (.contextRestore cluster entry) [1]
    else
      let s := (s.restoreAll cluster entry k).modCluster cluster fun c => { c with saving := none, imaged := c.imaged.erase entry }
      let s := s.actPending cluster entry k
      let s := ((s.after 0 (.dispatchRecord cluster)).after (c.sliceEnd - s.now) (.sliceExpiry cluster)).after 0 (.sliceEarlyEnd cluster)
      let s := s.after 0 (.steal cluster)
      if tableRun (c.ctable.get 0 entry) then s else s.preempt cluster entry)

-- ==== the context table (R327) ====

/-- Zero fields of a table entry (R327). -/
def tableZero (w : BitVec 256) : Bool :=
  hbits w 177 79 == 0 && hbits w 113 15 == 0 && hbits w 21 43 == 0 && hbits w 128 13 == 0

/-- Does some cluster of a partition hold an entry for a context? -/
def State.bound (s : State) (part ctx : Nat) : Bool :=
  (quantaOf (s.part part).quanta).any fun q => ((s.cluster q).entryOf ctx).isSome

/-- The context of no entry is released: its names and its peals go, and its LIVE granules end (R195, R196, R415). -/
def State.releaseContext (s : State) (part ctx : Nat) : State :=
  let k := contextKey part ctx
  let s := s.freeNames fun e => decide (e.state ≠ .free) && e.ctx == k
  let s := s.endMelts part ctx
  let keys := (s.engine.peals.select fun _ p => p.ctx == k).map (·.1)
  { s with engine := { s.engine with peals := s.engine.peals.filter fun p => !keys.contains p.1
                                     runs := s.engine.runs.filter fun r => !keys.contains r.2.peal
                                     waits := s.engine.waits.filter fun w => !keys.contains w.1 } }

/-- The clusters of a die look whether they may steal now (R110). -/
def State.pokeDie (s : State) (q : Nat) : State := (List.range 16).foldl (fun s i => s.after 0 (.steal (q / 16 * 16 + i))) s

/-- Do the image and the control block that an entry names lie in its partition's memory (R5)? The image takes 8 KiB and 24 sections of 832 KiB, the
block 256 bytes. -/
def State.entryInside (s : State) (part : Nat) (v : BitVec 256) : Bool :=
  tableImage v + 0x1382000 ≤ (s.part part).capacity && tableCcb v + 256 ≤ (s.part part).capacity

/-- An entry takes its new value. -/
def State.putEntry (s : State) (q entry : Nat) (v : BitVec 256) : State :=
  let old := (s.cluster q).ctable.get 0 entry
  let part := (s.ownerOf q).getD 0
  let fresh := tableWeight v != 0 && (tableWeight old == 0 || tableCtx old != tableCtx v || tableImage old != tableImage v)
  let wasBound := s.bound part (tableCtx v)
  let s := s.modCluster q fun c =>
    { c with
      ctable := c.ctable.set entry v
      credit := if fresh || !tableRun v then c.credit.set entry 0 else c.credit
      starve := if fresh || !tableRun v then c.starve.set entry 0 else c.starve
      imaged := if fresh then c.imaged.erase entry else c.imaged
      headed := if fresh then c.headed.erase entry else c.headed
      folds := if fresh then c.folds.del entry else c.folds }
  let s := if tableWeight v = 0 then s
    else s.modContext (contextKey part (tableCtx v)) fun c =>
      { c with ccb := BitVec.ofNat 64 (tableCcb v), dead := c.dead && wasBound, kill := if wasBound then c.kill else none }
  let s := if fresh then s.pokeDie q else s
  if tableWeight old ≠ 0 && !s.bound part (tableCtx old) then s.releaseContext part (tableCtx old) else s

/-- CONTEXT_TABLE_WRITE (R327): clearing RUN of the holder pre-empts it; an entry that is being saved or restored, or whose context must
first be saved, takes its value after that. A value with a zero field nonzero is refused, and so is one whose image or control block reaches beyond
its partition's memory (R5, DESIGN CHOICE, log 148). -/
def execContextTableWrite (cluster entry : Nat) (v : BitVec 256) (s : State) : Out :=
  let c := s.cluster cluster
  let old := c.ctable.get 0 entry
  let other := tableCtx old != tableCtx v || tableImage old != tableImage v || tableWeight v == 0
  .next (if !tableZero v || 16 ≤ entry || (tableWeight v != 0 && !s.entryInside ((s.ownerOf cluster).getD 0) v) then s
    else if c.saving = some entry then s.after 64 (.contextTableWrite cluster entry v)
    else if c.holder = some entry && !(s.context (s.entryKey cluster entry)).dead && (other || !tableRun v) then
      if (s.slotsOf cluster (s.entryKey cluster entry)).isEmpty && c.saving.isNone && other then (s.putEntry cluster entry v).startSlice cluster
      else
        let s := if other then s.after 64 (.contextTableWrite cluster entry v) else s.putEntry cluster entry v
        let s := s.modCluster cluster fun c => { c with ctable := c.ctable.set entry ((c.ctable.get 0 entry) &&& ~~~(BitVec.ofNat 256 (2 ^ 20))) }
        if c.saving.isNone then s.preempt cluster entry else s
    else (s.putEntry cluster entry v).after 0 (.sliceEarlyEnd cluster))

-- ==== CTXSAVE, CTXLOAD, FOLDSET (R349-R352) ====

/-- The entry that an IMAGE address names among a partition's clusters (R349). -/
def State.entryNamed (s : State) (part : Nat) (image : Word) : Option (Nat × Nat) :=
  (quantaOf (s.part part).quanta).findSome? fun q =>
    ((s.cluster q).ctable.find fun _ w => tableWeight w != 0 && tableImage w == image.toNat).map fun p => (q, p.1)

/-- May a word name an image (R349)? -/
def imageOperand (w : Word) : Bool := bitsOf w 49 15 == 0 && bitsOf w 0 13 == 0

/-- Is the status of a CTXSAVE (0) or a CTXLOAD (1) of an entry still on its way (R355)? -/
def State.statusOpen (s : State) (q e kind : Nat) : Bool := s.agenda.any fun d => d.arg == [3, kind] && d.ev == .contextSave q e

/-- The status of a CTXSAVE (0) or a CTXLOAD (1) of an entry that ends at once, within 1,000 cycles; until then the other finds the entry BUSY (R349,
R355). -/
def State.entryAnswer (s : State) (d : Reg) (q e kind : Nat) (v : DelVal) : State :=
  (s.longWithin d .other 1000 v).afterArg (1 + s.choose 1000) (.contextSave q e) [3, kind]

/-- The status that ends CTXSAVE (0) or CTXLOAD (1) at once (R349, R355). -/
def State.entryStatus (s : State) (kind : Nat) (p : Option (Nat × Nat)) : Except Nat (Nat × Nat) :=
  match p with
  | none => .error 1
  | some (q, e) =>
    let k := s.entryKey q e
    if q = clusterOf s.myCore ∧ k = contextKey s.me.id.part s.me.id.ctx then .error 4
    else if (s.cluster q).saving = some e ∨ s.statusOpen q e (1 - kind) = true then .error 2
    else if (s.context k).dead then .error 3
    else .ok (q, e)

/-- RUN of an entry. -/
def State.setRun (s : State) (q e : Nat) (run : Bool) : State :=
  let bit : BitVec 256 := BitVec.ofNat 256 (2 ^ 20)
  s.modCluster q fun c =>
    let w := c.ctable.get 0 e
    { c with ctable := c.ctable.set e (if run then w ||| bit else w &&& ~~~bit)
             credit := if run then c.credit else c.credit.set e 0
             starve := if run then c.starve else c.starve.set e 0 }

/-- CTXSAVE (R349, R350): the holder is pre-empted and saved; an image that stands is kept, and where there is none a header with NVC 0
is written. -/
def execCtxsave (d a : Reg) (xa : Bool) (g : PReg) (s : State) : Out :=
  .next (s.guarded g (s.operands [srcA a xa] [d] true (s.atPriv .s
    (let w := s.rd a
     if !imageOperand w then s.takeTrap 9 7 w
     else match s.entryStatus 0 (s.entryNamed s.me.id.part w) with
       | .error n => s.longWithin d .other 1000 (.val (saveWord 0 n))
       | .ok (q, e) =>
         let k := s.entryKey q e
         let uid := s.me.id.uid
         let tag := s.nextTag
         let holder := (s.cluster q).holder == some e
         let s := s.setRun q e false
         if holder then
           let s := ((s.goOn.startLong d .other).modCluster q fun c => { c with saving := some e }).stopHolder q k
           s.afterArg 1 (.contextSave q e) [0, uid, tag]
         else if (s.cluster q).headed.contains e then s.entryAnswer d q e 0 (.acq (saveWord 0 0) .device)
         else
           (s.writeHeader q e k 0 ((s.cluster q).folds.get [] e)).entryAnswer d q e 0 (.acq (saveWord 8 0) .device)))))

/-- Two ranges of 16 KiB units without a common one. -/
def apart (a b : Nat × Nat) : Bool := a.1 + a.2 ≤ b.1 || b.1 + b.2 ≤ a.1 || a.2 == 0 || b.2 == 0

def pairwiseApart : List (Nat × Nat) → Bool
  | [] => true
  | x :: r => r.all (apart x) && pairwiseApart r

/-- The core that an entry of a fold table names. -/
def foldCore (e : Word) : Nat := bitsOf e 58 5

/-- Does a fold table fit an image (R338)? An entry of no core, and a LIVE record of a virtual core without an entry, do not fit (log 27). -/
def State.foldFits (s : State) (key : Nat) (t : Tab Word) : Bool :=
  let pool := BitVec.ofNat 64 (s.imageNat key 8 8)
  let nvc := s.imageNat key 2 1
  let entries := (List.range 24).map fun v => (v, t.get 0 v)
  let valid := entries.filter fun p => p.2.getLsbD 63
  let ranges (c : Nat) : List (Nat × Nat) := (valid.filter fun p => foldCore p.2 == c).flatMap fun p => [0, 1, 2].map (foldRegion p.2)
  let live (c : Nat) : Nat := (valid.filter fun p => foldCore p.2 == c && p.1 < nvc).foldl (fun n p => n + (s.liveRecords key p.1).length) 0
  let within (p : Nat × Word) : Bool := [0, 1, 2].all fun r =>
    (foldRegion p.2 r).1 + (foldRegion p.2 r).2 ≤ 48 && (foldRegion p.2 r).2 ≤ (poolRegion pool r).2
  let blockIn (e : Word) (b : Nat) : Bool := [0, 1, 2].any fun r =>
    8 * (poolRegion pool r).1 ≤ b && b < 8 * (poolRegion pool r).1 + 8 * (foldRegion e r).2
  let frames (e : Word) (v n : Nat) : Bool :=
    let dw := BitVec.ofNat 64 (s.imageNat key (sectionAt v + 2048 * n + 0xc0) 8)
    oldestOf (bitsOf dw 0 16) (bitsOf dw 16 2) ≤ (foldRegion e 1).2 * 16384 / 8 / 144
  let fits (p : Nat × Word) : Bool :=
    p.1 < nvc && (p.2.getLsbD 63 || (s.liveRecords key p.1).isEmpty) && (s.imageBlocks key p.1).all (blockIn p.2)
      && (s.liveRecords key p.1).all (frames p.2 p.1) || nvc ≤ p.1
  valid.all within && (valid.all fun p => decide (foldCore p.2 < 24)) && ((List.range 24).all fun c => pairwiseApart (ranges c) && decide (live c ≤ 8))
    && entries.all fits

/-- Is a range of an image zero? -/
def State.imageZero (s : State) (key off n : Nat) : Bool := s.mem.all fun c => c.1 < key + off || key + off + n ≤ c.1

/-- Does an image's header pass the checks of CTXLOAD (R351)? -/
def State.headerOk (s : State) (q e : Nat) : Bool :=
  let key := s.imageOf q e
  s.imageNat key 0 2 == tableCtx ((s.cluster q).ctable.get 0 e) && s.imageNat key 0x10 8 == (s.cidOf (coreAt q 0)).toNat
    && decide (s.imageNat key 2 1 ≤ 24) && decide (s.imageNat key 3 1 < 2) && s.imageZero key 4 4 && s.imageZero key 0x30 0xd0
    && s.imageZero key 0x1c0 0x240 && s.imageZero key 0x1780 0x880 && decide (s.imageNat key 0x18 8 ≤ 32)
    && poolValid (BitVec.ofNat 64 (s.imageNat key 8 8))
    && (if s.imageNat key 3 1 = 1 then s.foldFits key (s.imageFold key) else s.imageZero key 0x100 0xc0)

/-- CTXLOAD (R349, R351): a release at DEVICE scope; the restore follows when the context is next chosen (R334). -/
def execCtxload (d a : Reg) (xa : Bool) (g : PReg) (s : State) : Out :=
  .next (s.guarded g (s.operands [srcA a xa] [d] true (s.atPriv .s
    (let w := s.rd a
     if !imageOperand w then s.takeTrap 9 7 w
     else match s.entryStatus 1 (s.entryNamed s.me.id.part w) with
       | .error n => s.longWithin d .other 1000 (.val (saveWord 0 n))
       | .ok (q, e) =>
         if tableRun ((s.cluster q).ctable.get 0 e) then s.longWithin d .other 1000 (.val (saveWord 0 2))
         else
           let s := s.releaseMe .device
           if !s.headerOk q e then s.takeTrap 9 7 w
           else
             let key := s.imageOf q e
             let full := s.imageNat key 2 1 != 0
             let fold := s.imageFold key
             let s := (s.setRun q e true).modCluster q fun c =>
               { c with imaged := if full then e :: c.imaged.erase e else c.imaged, folds := c.folds.set e fold,
                        headed := e :: c.headed.erase e }
             (s.after 0 (.sliceEarlyEnd q)).entryAnswer d q e 1 (.val (saveWord 0 0))))))

/-- The fold table in a descriptor (R352). -/
def descFold (l : List Byte) : Tab Word := (List.range 24).map fun v => (v, leWord ((l.drop (8 + 8 * v)).take 8))

/-- May a fold table be installed for an entry (R352)? A table of zeros unfolds. -/
def State.foldAllowed (s : State) (q e : Nat) (t : Tab Word) : Bool :=
  !tableRun ((s.cluster q).ctable.get 0 e) && (s.cluster q).saving != some e
    && (t.all fun p => !p.2.getLsbD 63 || (foldCore p.2 < 24 && s.usable ((s.ownerOf q).getD 0) q))
    && (t.all (fun p => p.2 == 0) || s.foldFits (s.imageOf q e) t)

/-- FOLDSET (R352, R427): a release at DEVICE scope that writes the image's fold table and installs it for the entry. -/
def execFoldset (a : Reg) (xa : Bool) (g : PReg) (s : State) : Out :=
  .next (s.needs 7 (s.guarded g (s.operands [srcA a xa] [] false (s.atPriv .s
    (let va := s.rd a
     if va.getLsbD 63 || va.toNat % 8 ≠ 0 then s.takeTrap 9 8 va
     else (s.releaseMe .device).readPieces (fun s l =>
       let w := leWord (l.take 8)
       let t := descFold l
       match if imageOperand w then s.entryNamed s.me.id.part w else none with
       | none => s.takeTrap 9 8 va
       | some (q, e) =>
         if !s.foldAllowed q e t then s.takeTrap 9 8 va
         else
           let zero := t.all fun p => p.2 == 0
           let s := (s.putImage (s.imageOf q e) 0x100 (foldBytes t)).putImage (s.imageOf q e) 3 (leBytes 1 (if zero then 0 else 1))
           (s.goOn.modCluster q fun c => { c with folds := c.folds.set e (if zero then [] else t) })) (piecesOf va.toNat 200) [])))))

-- ==== kills (R308-R311) ====

/-- The strands of a context that a kill stops: those in slots and those in images (R309). -/
def State.strandsOf (s : State) (k : Nat) : List Nat :=
  (s.slots.select fun _ t => decide (t.phase = .live ∨ t.phase = .clearing) && contextKey t.id.part t.id.ctx == k).map (fun p => p.2.id.uid)
    ++ (s.away.select fun u _ => u / 2 ^ 32 == k).map (·.1)

/-- The engine commands of a context discarded, nothing delivered (R241, R308). -/
def State.killCommands (s : State) (k : Nat) : State :=
  let mine := s.cmds.select fun _ c => contextKey c.part c.ctx == k
  let s := mine.foldl (fun s p => (s.delCmd p.2).freeUnit p.2) { s with spent := s.spent.filter fun x => x.ctx != k }
  let ids := mine.map (·.1)
  let drop (w : CombineWindow) : CombineWindow := { w with cmds := w.cmds.filter fun c => !ids.contains c }
  { s with clusters := s.clusters.map fun _ c => { c with windows := c.windows.map drop } }

/-- What clusters and cores hold of a context: queues, records in transit, images, receive queues, and, on the cores that serve it, what is
the slice holder's. -/
def State.killQueues (s : State) (k : Nat) : State :=
  let part := k / 65536
  let ctx := k % 65536
  let mine := (quantaOf (s.part part).quanta).filterMap fun q => ((s.cluster q).entryOf ctx).map fun e => (q, e)
  let s := mine.foldl (fun s p =>
    s.modCluster p.1 fun c => { c with queues := c.queues.del k, transit := c.transit.del k, imaged := c.imaged.erase p.2 }) s
  let s : State := { s with saved := s.saved.filter fun x => x.1 / 32 / 2 ^ 49 != k }
  let gone (f : MsgFlit) : Bool := f.uid / 2 ^ 32 == k
  let clear (i : Nat) (c : Core) : Core :=
    let c := { c with recvq := c.recvq.filter fun f => !gone f, waiters := c.waiters.filter fun w => w.uid / 2 ^ 32 != k,
                      tupOut := c.tupOut.filter fun p => p.1 / 2 ^ 32 != k,
                      unacked := c.unacked.filter fun u => !(u.uid / 2 ^ 32 == k && u.acked) }
    if s.holderKey (clusterOf i) = some k ∧ (c.poolFor.any fun p => p.1 == k) then c.left else c
  let s := { s with cores := s.cores.map clear }
  let keep (d : Due) : Bool := match d.ev with
    | .messageFlit f => !gone f
    | .messageAnswer u _ | .messageResend u | .deliver u _ _ | .unmintAtTable u _ _ _ _ => u / 2 ^ 32 != k
    | .ldmAtHome u _ _ _ => u / 2 ^ 32 != k
    | _ => true
  { s with agenda := s.agenda.filter keep, barriers := s.barriers.filter fun b => b.1 / 16 % 2 ^ 22 != k
           away := s.away.filter fun a => a.1 / 2 ^ 32 != k, owed := s.owed.filter fun o => o.1 / 2 ^ 32 != k
           poisons := s.poisons.filter fun p => p.1 / 2 ^ 32 != k }

/-- The context's drift work and peals (R409, R415): requests that are not sent go, results are discarded, runs end LOST. -/
def State.killTransport (s : State) (k : Nat) : State :=
  let mine (uid : Nat) : Bool := uid / 2 ^ 32 == k
  let clear (_ : Nat) (q : DriftQueue) : DriftQueue :=
    { q with held := q.held.filter fun w => !(mine w.uid && w.off == 0), flushes := q.flushes.filter fun f => !mine f.1,
             waits := q.waits.filter fun w => !mine w.1 }
  let s := { s with drift := { s.drift with queues := s.drift.queues.map clear },
                    engine := { s.engine with waits := s.engine.waits.filter fun w => !mine w.2.1 } }
  let keys := (s.engine.peals.select fun _ p => p.ctx == k).map (·.1)
  let runs := s.engine.runs.select fun _ r => keys.contains r.peal
  let s := runs.foldl (fun s p => if p.2.status.isNone then s.closeRun p.1 p.2 2 else s) s
  { s with engine := { s.engine with runs := s.engine.runs.filter fun r => !keys.contains r.2.peal,
                                     peals := s.engine.peals.filter fun p => !keys.contains p.1 } }

/-- Slots of a context are free at once, and what is due for their loads and for the clears of its cores' pools is void (R150). -/
def State.killSlots (s : State) (k : Nat) : State :=
  let mine (i : Nat) : Bool := decide ((s.slot i).phase ≠ .free) && contextKey (s.slot i).id.part (s.slot i).id.ctx == k
  let s := s.dropLoads mine
  let s := (quantaOf (s.part (k / 65536)).quanta).foldl (fun s q => if s.holderKey q = some k then s.dropClears q else s) s
  { s with slots := s.slots.map fun _ t => if decide (t.phase ≠ .free) && contextKey t.id.part t.id.ctx == k then Slot.empty else t }

/-- The stores of a killed context that its cores still buffer are each performed whole or not at all: which is open (R308, R357). -/
def State.killStores (s : State) (k : Nat) : State :=
  let keep (e : SbEntry) : Bool := e.uid / 2 ^ 32 != k || Config.freeNat (s.tick + e.id) % 2 == 0
  { s.eachCore (fun _ c => { c with sb := c.sb.filter keep }) with tick := s.tick + s.nextTag }

/-- The kill of R308; its record and its completion follow within 20,000 cycles. -/
def State.killContext (s : State) (part ctx : Nat) (r : KillRec) : State :=
  let k := contextKey part ctx
  let n := (s.strandsOf k).length
  let s := (s.killSlots k).killCommands k
  let s := s.withdrawTuples true fun q => q.part == part && q.ctx == ctx
  let s := s.freeNames fun e => decide (e.state ≠ .free) && e.ctx == k
  let s := ((s.killQueues k).killTransport k).killStores k
  let s := s.endMelts part ctx
  let r := { r with causes := BitVec.ofNat 64 (bitsOf r.causes 0 32 + n * 2 ^ 32), cycle := s.now - s.plat.bootTime }
  (s.modContext k fun c => { c with dead := true, kill := some r, live := 0, overflow := [] }).within 19000 (.killComplete part ctx)

/-- The kill record of a supervisor's request, or of a soft error with its code and address (R309). -/
def plainKill (reason code : Nat) (v : Word) : KillRec :=
  { reason := reason, code := code, tval := v, sid := 0, pc := 0, cid := 0, tpc1 := 0, tpc2 := 0, causes := 0, cycle := 0 }

/-- CTXKILL (R308, R311): the kill that a trap at TL 2 or a soft error has begun, or the supervisor's request; a context that is not
bound, or already dead, is not killed. -/
def execCtxkill (part ctx : Nat) (s : State) : Out :=
  let c := s.context (contextKey part ctx)
  .next (match c.kill with
    | some r => if r.causes.toNat / 2 ^ 32 = 0 ∧ r.reason = 1 then s.killContext part ctx r else s
    | none => if c.dead || !s.bound part ctx then s else s.killContext part ctx (plainKill 2 0 0))

/-- KSTAT (R309). -/
def KillRec.kstat (r : KillRec) : Word := BitVec.ofNat 64 (bitsOf r.cid 0 26 * 2 ^ 16 + r.reason % 4 * 2 ^ 14 + r.code % 512)

/-- KILL_COMPLETE (R308, R309, R312): the record, its completion with STATUS 1, and the end of the slices that the context held. -/
def execKillComplete (part ctx : Nat) (s : State) : Out :=
  let k := contextKey part ctx
  .next (match (s.context k).kill with
    | none => s
    | some r =>
      let l := [r.kstat, r.sid, r.pc, r.tval, r.tpc1, r.tpc2, r.causes, BitVec.ofNat 64 r.cycle]
      let s := s.putHbm part ((s.context k).ccb.toNat + 128) (l.map (wordBytes 8)).flatten
      let s := s.completeCcb part ctx 80 1
      (quantaOf (s.part part).quanta).foldl (fun s q =>
        if s.holderKey q = some k ∧ (s.cluster q).saving.isNone then s.startSlice q else s) s)

-- ==== soft errors (R318) ====

/-- One more uncorrectable event in CECOUNT (R432). -/
def State.countUncorrectable (s : State) : State :=
  { s with plat := { s.plat with cecount := putBits s.plat.cecount 32 32 (min (bitsOf s.plat.cecount 32 32 + 1) 0xffffffff) } }

/-- Eight bytes of uncorrectable data that no load has read yet, with their place (R318): in the pool of the strand's core for place 0, else at
a physical address. -/
def State.badData (s : State) (i k place : Nat) (pa : Word) : State :=
  let key := if place = 0 then poolKey (coreOf i) (bitsOf pa 3 17 * 8) else hbmKey (k / 65536) (bitsOf pa 3 46 * 8)
  { s with badBytes := ((List.range 8).map fun n => (key + n, place)) ++ s.badBytes }

/-- UNCORRECTABLE_ERROR (R318): a load's register carries a poison mark (reason 0; `reg` by frame, or 0 for data that no load
has read, which a load or an engine operand then meets), the fetched block faults (reason 1), or the context is killed with REASON 3 (reason 2). -/
def execUncorrectableError (place : BitVec 2) (reason : BitVec 3) (uid reg : Nat) (pa : Word) (s : State) : Out :=
  let s := s.countUncorrectable
  let k := uid / 2 ^ 32
  .next (match reason.toNat, s.slotOf uid with
    | 0, some i =>
      if reg = 0 then s.badData i k place.toNat pa
      else
        let t := s.slot i
        let s := s.unmark uid fun r => r == reg
        let s := { s with poisons := s.poisons ++ [(uid, reg, place.toNat, pa)] }
        if 8 ≤ reg && (reg - 8) / 16 < t.oldest then s else s.fillHere i reg { t.absCell reg with poison := true }
    | 1, some i =>
      s.modSlot i fun t =>
        let f : FetchBlock := { va := BitVec.ofNat 64 (t.pc.toNat / 64 * 64), bytes := [], fault := some (11, place.toNat * 8 + 1, pa) }
        { t with front := { t.front with fetch := some f } }
    | 2, _ =>
      if (s.context k).dead || !s.bound (k / 65536) (k % 65536) then s
      else s.killContext (k / 65536) (k % 65536) (plainKill 3 (11 * 32 + place.toNat * 8 + 2) pa)
    | _, _ => s)

end Sys2Proof.Machine
end

