-- ==== Sys2Proof/Machine/Partitions.lean ====
section
/-! DEFINITION. Partitions: the commands of PCTL (R360-R367), what leaves a quantum at a scrub (R365), the host's windows and CXL
(R368-R375), and the dies' links (R358, R359). -/

namespace Sys2Proof.Machine

-- ==== commands (R362, R363) ====

/-- A command of PCTL: BUSY while one runs, RESULT `n` where it is refused, else it runs and is DONE within `bound` cycles. -/
def State.command (s : State) (part cmd : Nat) (refused : Option Nat) (bound : Nat) (k : State → State) : State :=
  if !(s.part part).done then s.modPart part fun p => { p with result := 1 }
  else match refused with
    | some n => s.modPart part fun p => { p with cmd := BitVec.ofNat 4 cmd, result := BitVec.ofNat 8 n }
    | none =>
      let s := k (s.modPart part fun p => { p with cmd := BitVec.ofNat 4 cmd, result := 0, done := false })
      s.within bound (.pctlCommandDone part)

/-- The first condition that a command fails, with its RESULT. -/
def firstRefusal (l : List (Bool × Nat)) : Option Nat := (l.find? (·.1)).map (·.2)

/-- Is QNEW refused (R362): empty, owned by another partition, or disabled? -/
def State.quantaBad (s : State) (part : Nat) : Bool :=
  let m := (s.part part).qnew
  m == 0 || (s.parts.any fun p => p.1 != part && (p.2.quanta &&& m) != 0) || (m &&& s.plat.disabled) != 0

-- ==== the scrub (R365) ====

/-- A core after a scrub: its pool, caches and TLB are empty, every minting entry is FREE, with its generation raised where it was not (R195),
and its CHECKKEY is new (R188); what its port has numbered goes on. -/
def Core.scrubbed (c : Core) : Core :=
  { Core.empty with q := c.q, key := c.key + 1, seqs := c.seqs, epochs := c.epochs
                    mint := c.mint.map fun _ e => if e.state = .free then e else e.freed }

/-- One quantum scrubbed, its HBM apart: cluster, cores, slots, quads and slices. -/
def State.scrubQuantum (s : State) (q : Nat) : State :=
  let s := (List.range 24).foldl (fun s n => (s.clearPool (coreAt q n)).modCore (coreAt q n) Core.scrubbed) s
  let s := (List.range 4).foldl (fun s i => s.modSlice (4 * q + i) fun _ => Slice.empty) s
  let s := (List.range 6).foldl (fun s i => s.modQuad (q * 8 + i) fun _ => Quad.empty) s
  let s := s.modCluster q fun _ => Cluster.empty
  { s with slots := s.slots.filter fun t => clusterOf (coreOf t.1) != q }

/-- The HBM of a partition written to zero; the L2 slices forget what they held of it. -/
def State.scrubMemory (s : State) (part : Nat) : State :=
  let lo := part * 2 ^ 49
  { s with mem := (s.mem.clear lo (lo + 2 ^ 49)).clear (meltKey lo) (meltKey lo + 2 ^ 49)
           badBytes := s.badBytes.filter fun k => k.1 / 2 ^ 49 != part
           replicas := s.replicas.filter fun r => r.2.line * 64 / 2 ^ 49 != part
           melts := s.melts.filter fun m => m.part != part
           partials := s.partials.filter fun p => p.key / 2 ^ 49 != part
           slices := s.slices.map fun _ x => { x with tags := x.tags.filter fun t => t.gran / 2 ^ 38 != part } }

/-- The LIVE granules of a partition end as a slice drain ends them (R196). -/
def State.drainMelts (s : State) (part : Nat) (p : Melt → Bool) : State :=
  (s.melts.filter fun m => m.part == part && m.live && p m).foldl (fun s m => s.meltEnd m 3) s

-- ==== what a reset stops (R366) ====

/-- Does a step of the agenda act on a core or a cluster of some quanta? -/
def onQuanta (quanta : BitVec 64) (d : Due) : Bool :=
  let core (c : Nat) : Bool := quanta.getLsbD (clusterOf c)
  match d.ev with
  | .windowSpill i | .windowFill i | .registerClear i | .slotLoad i => core (coreOf i)
  | .poolClear c | .ringLoad c _ | .storePerform c _ => core c
  | .dispatchRecord q | .steal q | .sliceExpiry q | .sliceEarlyEnd q | .contextSave q _ | .contextRestore q _ | .pfaultClear q _
  | .contextTableWrite q _ _ => quanta.getLsbD q
  | _ => false

/-- Does a step of the agenda belong to a partition: to its number, its strands or its requests? -/
def belongsTo (part : Nat) (d : Due) : Bool :=
  let uid (u : Nat) : Bool := u != 0 && u / 2 ^ 48 == part
  match d.ev with
  | .deliver u _ _ | .messageAnswer u _ | .messageResend u | .unmintAtTable u _ _ _ _ | .ldmAtHome u _ _ _ => uid u
  | .messageFlit f => uid f.uid
  | .depositAtHome r | .depositResend r | .matchAtHome r | .cancelAtHome r | .homemoved r => r.part == part
  | .landingArrival l => l.part == part
  | .atomicExecute r => r.part == part
  | .fillmAtHome k _ _ _ _ | .meltFillDone k | .meltEviction k => k / 2 ^ 49 == part
  | .yieldRecordEnqueue p _ _ _ | .ctxkill p _ | .killComplete p _ | .driftTrigger p _ | .driftSend p _ | .driftRetransmit p _ _
  | .driftQueueError p _ | .ecnWindowRestore p _ | .pealNode p _ _ | .pealArrival p _ | .pealNotice p _ _ _ => p == part
  | .hostDepositRecord p _ _ _ _ | .hostOrderedWrite p _ _ _ _ | .hostBulkWrite p _ _ _ => p == part
  | .calveIncomplete | .attestReady => d.arg.getD 0 0 == part
  | _ => false

/-- The requests of other devices that a partition's homes have taken and not answered. -/
def State.guests (s : State) (part : Nat) : List TupReq :=
  let coming := s.agenda.filterMap fun d => match d.ev with
    | .matchAtHome r | .cancelAtHome r | .depositAtHome r | .depositResend r | .homemoved r => some r
    | _ => none
  let waiting := s.slices.flatMap fun x => x.2.waiters.map fun w => w.req
  (coming ++ waiting ++ List.map (fun c => c.2.req) s.copies).filter fun r => r.part == part && r.remote.isSome

/-- The partition of what stands beside an image (`savedKey`). -/
def savedPart (x : Nat) : Nat := x / 32 / 2 ^ 49 / 65536

/-- Everything of a partition that moves or waits is gone: strands, commands, barriers, contexts, images, drift queues, peals. -/
def State.stopAll (s : State) (part : Nat) : State :=
  let quanta := (s.part part).quanta
  let ctx (k : Nat) : Bool := k / 65536 == part
  let uid (u : Nat) : Bool := u != 0 && u / 2 ^ 48 == part
  let peals := (s.engine.peals.select fun k _ => k / 128 == part).map (·.1)
  { s with
    agenda := s.agenda.filter fun d => !(belongsTo part d || onQuanta quanta d)
    cmds := s.cmds.filter fun c => c.2.part != part
    merged := s.merged.filter fun m => !m.2.cmds.any fun i => match s.cmds.get? i with
      | some c => c.part == part
      | none => false
    spent := s.spent.filter fun x => !ctx x.ctx
    conts := s.conts.filter fun c => c.2.part != part
    walks := s.walks.filter fun w => w.part != part
    barriers := s.barriers.filter fun b => !ctx (b.1 / 16 % 2 ^ 22)
    contexts := s.contexts.filter fun c => !ctx c.1
    copies := s.copies.filter fun c => c.2.req.part != part
    away := s.away.filter fun a => !uid a.1
    saved := s.saved.filter fun x => savedPart x.1 != part
    owed := s.owed.filter fun o => !uid o.1
    poisons := s.poisons.filter fun p => !uid p.1
    calves := s.calves.filter fun c => c.2.part != part
    drift := { s.drift with queues := s.drift.queues.filter fun q => q.1 / 4096 != part }
    engine := { s.engine with peals := s.engine.peals.filter fun p => p.1 / 128 != part
                              runs := s.engine.runs.filter fun r => !peals.contains r.2.peal
                              seqs := s.engine.seqs.filter fun q => q.1 / 2 ^ 24 != part
                              held := s.engine.held.filter fun h => h.1 != part
                              waits := s.engine.waits.filter fun w => w.1 / 128 != part } }

/-- Every quantum of a partition scrubbed with the partition's memory (R365). -/
def State.scrubAll (s : State) (part : Nat) : State :=
  (quantaOf (s.part part).quanta).foldl State.scrubQuantum (s.scrubMemory part)

/-- RESET's action (R366); its LIVE granules end as a slice drain ends them, while their contexts still stand (R196, log 133), and devices whose
requests were outstanding are told (R389). -/
def State.resetPartition (s : State) (part : Nat) : State :=
  let told := (s.guests part).foldl State.resetReply (((s.drainMelts part fun _ => true).stopAll part).scrubAll part)
  told.modPart part fun p =>
    { p with rodep := 0, hdepdone := 0, hdeperr := 0, qbase := 0, smgen := p.smgen + 1, rtgen := p.rtgen + 1, keyDraws := p.keyDraws + 1,
             records := 0, bulks := [], moved := [], hostq := [], hostOpen := [], nonce := [], attest := 0, report := [] }

-- ==== RESIZE (R364) ====

/-- Dirty pieces go home, and every copy of a line in the partition's L1Ds and replicas goes. -/
def State.dropCopies (s : State) (part : Nat) : State :=
  let cores := (quantaOf (s.part part).quanta).flatMap fun q => (List.range 24).map (coreAt q)
  let s := cores.foldl (fun s c => (s.writeBack c).modCore c fun x => { x with l1d := [], ibuf := [] }) s
  { s with replicas := s.replicas.filter fun r => r.2.line * 64 / 2 ^ 49 != part }

/-- U partials of a partition merged at their homes (R213). -/
def State.mergePartition (s : State) (part : Nat) : State := s.mergePartials (part * 2 ^ 49) (2 ^ 49)

/-- Tuples and waiters of a partition under its installed tables at their homes, with their ages (R364). -/
def State.rehome (s : State) (part : Nat) : State :=
  let ts := s.slices.foldl (fun l x => (x.2.tuples.filter (·.part == part)).foldl (fun l t => addTuple t l) l) []
  let ws := s.slices.foldl (fun l x => (x.2.waiters.filter (·.req.part == part)).foldl (fun l t => addWaiter t l) l) []
  let home (f0 f1 : BitVec 32) : Nat := (s.homeFor part f0 f1).slice
  let clear (_ : Nat) (x : Slice) : Slice := { x with tuples := x.tuples.filter (·.part != part), waiters := x.waiters.filter (·.req.part != part) }
  let s := { s with slices := s.slices.map clear }
  let s := ts.foldl (fun s t => s.modSlice (home t.f0 t.f1) fun x => { x with tuples := addTuple t x.tuples }) s
  let s := ws.foldl (fun s w =>
    let h := home w.req.f0 w.req.f1
    s.modSlice h fun x => { x with waiters := addWaiter { w with req := { w.req with home := h } } x.waiters }) s
  { s with copies := s.copies.map fun _ c =>
      if c.req.part = part then { c with slice := home c.req.f0 c.req.f1, req := { c.req with home := home c.req.f0 c.req.f1 } } else c }

/-- Does the home slice of a byte change from one partition's tables to another's (R160)? -/
def keyMoves (p t : Partition) (key : Nat) : Bool :=
  let h := sliceHash (key % 2 ^ 49)
  p.ownSlice (p.inSlice.get 0 h).toNat != t.ownSlice (t.inSlice.get 0 h).toNat

/-- Does a granule leave its home: another slice is its home, or its address is no more (R364)? -/
def homeMoves (p t : Partition) (m : Melt) : Bool := keyMoves p t m.key || decide (t.capacity ≤ m.key % 2 ^ 49)

/-- The FILLMs that old homes have accepted are finished (R364). -/
def State.finishFills (s : State) (part : Nat) (p : Melt → Bool) : State :=
  (s.melts.filter fun m => m.part == part && !m.live && p m).foldl (fun s m =>
    let s : State := { s with agenda := s.agenda.filter fun d => d.ev != .meltFillDone m.key }
    match execMeltFillDone m.key s with
    | .next t => t
    | _ => s) s

/-- The numbers of the memory requests under way to homes that move, with their lines (R367). -/
def State.oldRequests (s : State) (part : Nat) (t : Partition) : List (Nat × Nat) :=
  s.agenda.filterMap fun d => (s.requestAt d.ev).bind fun r =>
    if r.2 / 2 ^ 49 = part ∧ keyMoves (s.part part) t r.2 = true then some (r.1, r.2 % 2 ^ 49 / 64 * 64) else none

/-- Some of the requests reach a home that has retired: each line's may get a HOMEMOVED (R367). -/
def State.tellMoved (s : State) (part : Nat) (lines : List Nat) : State :=
  lines.foldl (fun s l => (if s.coin then s.after 0 (.memoryHomemoved part l) else s).bump) s

/-- What cores held of quanta that leave a partition or join it: no step, command, landing or walk of theirs goes on, and they are scrubbed (R5,
R365). -/
def State.leaveQuanta (s : State) (part : Nat) (quanta : BitVec 64) : State :=
  let core (c : Nat) : Bool := quanta.getLsbD (clusterOf c)
  let s := { s with agenda := s.agenda.filter fun d => !onQuanta quanta d
                    cmds := s.cmds.filter fun c => !core c.2.core
                    conts := s.conts.filter fun c => !(c.2.part == part && core c.2.core) }
  (quantaOf quanta).foldl State.scrubQuantum s

/-- Memory at or above an address of a partition holds nothing: no byte, no bad byte, nothing beside an image (R5, R364). -/
def State.clearAbove (s : State) (part lo : Nat) : State :=
  let key := hbmKey part lo
  let top := hbmKey part (2 ^ 49)
  { s with mem := (s.mem.clear key top).clear (meltKey key) (meltKey top)
           badBytes := s.badBytes.filter fun b => b.1 < key || top ≤ b.1
           saved := s.saved.filter fun x => savedPart x.1 != part || decide (x.1 / 32 % 2 ^ 49 < lo) }

/-- RESIZE's action (R364): the partition is on QNEW, under the tables that are written; an entry that names a slice outside it is read as
`Partition.ownSlice` says (log 132). Joining quanta are scrubbed before anything moves to them, leaving ones when all has left them. -/
def State.resizePartition (s : State) (part : Nat) : State :=
  let p := s.part part
  let new := p.qnew
  let to_ := { p with quanta := new, inSlice := p.sliceMap, inHome := p.homeTable }
  let s := ((s.mergePartition part).dropCopies part).finishFills part (homeMoves p to_)
  let s := s.drainMelts part (homeMoves p to_)
  let old := s.oldRequests part to_
  let s := s.modPart part fun p =>
    { p with quanta := new, inSlice := p.sliceMap, inHome := p.homeTable, smgen := p.smgen + 1, rtgen := p.rtgen + 1, moved := old.map fun r => r.1 }
  let s := { s with slices := s.slices.map fun i x =>
    { x with tags := x.tags.filter fun t => t.gran / 2 ^ 38 != part || s.homeOfGran t.gran == i } }
  let s := (s.leaveQuanta part (new &&& ~~~p.quanta)).rehome part
  let s := s.clearAbove part (min p.capacity to_.capacity)
  (s.leaveQuanta part (p.quanta &&& ~~~new)).tellMoved part (old.map fun r => r.2).eraseDups

-- ==== the six commands ====

/-- CREATE (R363, R426). -/
def execCreate (part : Nat) (s : State) : Out :=
  let p := s.part part
  .next (s.command part 1 (firstRefusal [(decide (p.state ≠ .free) || !s.feature 0 || s.plat.recovery, 2), (s.quantaBad part, 3)]) 17000000 fun s =>
    (s.modPart part fun p => { p with quanta := p.qnew, state := .stopped, smgen := 1, rtgen := 1, keyDraws := p.keyDraws + 1 }).scrubAll part)

/-- START (R160, R171, R363): the three tables are installed as they are written, an entry that names a slice outside the partition being read
as `Partition.ownSlice` says (log 132), and the clusters choose holders. -/
def execStart (part : Nat) (s : State) : Out :=
  .next (s.command part 2 (firstRefusal [(decide ((s.part part).state ≠ .stopped), 2)]) 1000 fun s =>
    let s := (s.dropCopies part).modPart part fun p =>
      { p with state := .running, inSlice := p.sliceMap, inRange := p.rangeTable, inHome := p.homeTable, smgen := p.smgen + 1, rtgen := p.rtgen + 1 }
    (quantaOf (s.part part).quanta).foldl (fun s q => s.after 0 (.sliceEarlyEnd q)) s)

/-- One entry stops as CTXSAVE stops it (R350, R363). -/
def State.stopEntry (s : State) (q e : Nat) : State :=
  let c := s.cluster q
  let s := s.setRun q e false
  if c.saving = some e ∨ (s.context (s.entryKey q e)).dead = true then s
  else if c.holder = some e then (if c.saving.isSome then s else s.preempt q e)
  else if c.headed.contains e then s
  else s.writeHeader q e (s.entryKey q e) 0 (c.folds.get [] e)

/-- STOP's action: every context is saved. -/
def State.stopPartition (s : State) (part : Nat) : State :=
  (quantaOf (s.part part).quanta).foldl (fun s q =>
    (List.range 16).foldl (fun s e => if tableWeight ((s.cluster q).ctable.get 0 e) = 0 then s else s.stopEntry q e) s) s

/-- STOP (R363). -/
def execStop (part : Nat) (s : State) : Out :=
  .next (s.command part 3 (firstRefusal [(decide ((s.part part).state ≠ .running), 2)]) 1000 fun s => s.stopPartition part)

/-- Has a cluster that leaves a context-table entry in use (R362, R364)? -/
def State.leavingBound (s : State) (part : Nat) : Bool :=
  (quantaOf ((s.part part).quanta &&& ~~~(s.part part).qnew)).any fun q =>
    (List.range 16).any fun e => tableWeight ((s.cluster q).ctable.get 0 e) != 0

/-- RESIZE (R362-R364). -/
def execResize (part : Nat) (s : State) : Out :=
  let p := s.part part
  .next (s.command part 4 (firstRefusal [(decide (p.state ≠ .stopped ∧ p.state ≠ .running), 2),
      (s.quantaBad part || (p.qnew &&& p.quanta) == 0, 3), (s.leavingBound part, 4)]) 99000000 fun s =>
    (s.resizePartition part).modPart part fun x => { x with state := .resizing, back := p.state })

/-- RESET (R363, R366). -/
def execReset (part : Nat) (s : State) : Out :=
  let p := s.part part
  .next (s.command part 5 (firstRefusal [(decide (p.state ≠ .stopped ∧ p.state ≠ .running), 2)]) 1990000000 fun s =>
    (s.resetPartition part).modPart part fun x => { x with state := .resetting, back := .stopped })

/-- DESTROY (R363). -/
def execDestroy (part : Nat) (s : State) : Out :=
  .next (s.command part 6 (firstRefusal [(decide ((s.part part).state ≠ .stopped), 2)]) 1990000000 fun s =>
    (s.resetPartition part).modPart part fun x => { x with state := .resetting, back := .free })

/-- Is some cluster of a partition still saving or restoring, or its holder a context with a strand in a slot? -/
def State.stillStopping (s : State) (part : Nat) : Bool :=
  (quantaOf (s.part part).quanta).any fun q =>
    (s.cluster q).saving.isSome || (match s.holderKey q with | some k => !(s.slotsOf q k).isEmpty | none => false)

/-- PCTL_COMMAND_DONE (R362, R363): the command's end, with its next state. -/
def execPctlCommandDone (part : Nat) (s : State) : Out :=
  let p := s.part part
  let done (x : Partition) : Partition := { x with done := true, result := 0 }
  .next (if p.done then s
    else match p.cmd.toNat with
      | 3 =>
        if s.stillStopping part then (s.stopPartition part).after 64 (.pctlCommandDone part)
        else s.modPart part fun x => done { x with state := .stopped }
      | 4 => s.modPart part fun x => done { x with state := x.back }
      | 5 => s.modPart part fun x => done { x with state := x.back }
      | 6 => s.modPart part fun x => done { x with state := x.back, quanta := 0 }
      | _ => s.modPart part done)

-- ==== the host's windows (R372-R375) ====

/-- A dropped write (R374): the count saturates. -/
def State.hostDrop (s : State) (part reason : Nat) : State :=
  s.modPart part fun p => { p with hdeperr := BitVec.ofNat 64 (min (bitsOf p.hdeperr 32 32 + 1) 0xffffffff * 2 ^ 32 + reason) }

/-- May the host reach `n` bytes of a partition's memory (R372)? -/
def State.windowOk (s : State) (part addr n : Nat) : Bool :=
  let p := s.part part
  let base := bitsOf p.fheap 16 33 * 65536
  let top := base + bitsOf p.fheap 0 16 * 65536
  decide (addr + n ≤ p.capacity) && (addr + n ≤ base || top ≤ addr || base == top)

/-- A host write performed at its home; a FILLING or LIVE granule stays unchanged (R196, R375). -/
def State.hostStore (s : State) (part addr : Nat) (l : List Byte) : State :=
  let key := hbmKey part addr
  if (s.meltAt key l.length).isSome then s else s.writeHome deviceCore key l

/-- The reason that drops a deposit record (R373, R374). -/
def State.recordDrop (s : State) (part addr : Nat) (l : List Byte) : Option Nat :=
  let p := s.part part
  let len := structNat l 16 2
  let pa := structNat l 24 8
  if l.length ≠ 64 ∨ addr % 64 ≠ 0 then some 1
  else if 1024 < len || !structZero l 18 6 || !structZero l 40 24 then some 2
  else if pa % 64 ≠ 0 || !s.windowOk part pa (64 * len) then some 3
  else if 256 ≤ p.records then some 4
  else if !p.active then some 5
  else none

/-- The core nearest to a host port: die 0 or die 2 (R370). -/
def portDie (port : Nat) : Nat := if port = 0 then 0 else 2

/-- The deposit that a record makes (R373), with its payload; its tag is the number of a relaxed record, 0 for an ordered one. -/
def State.hostRequest (s : State) (part port n : Nat) (l payload : List Byte) : TupReq :=
  let f (i : Nat) : BitVec 32 := BitVec.ofNat 32 (structNat l (4 * i) 4)
  let len := structNat l 16 2
  { op := .dep, mode := .w, part := part, ctx := 0, uid := 0, core := coreAt (portDie port * 16) 0, slot := 0, tag := n, name := 0, f0 := f 0, f1 := f 1,
    f2 := f 2, f3 := f 3, w2 := false, w3 := false, len64 := len, area := 0, payload := payload,
    sid := BitVec.ofNat 64 (structNat l 32 8), cid := BitVec.ofNat 64 (0xffffffffffffff00 + port), host := some port, remote := none,
    home := (s.homeFor part (f 0) (f 1)).slice, gen := (s.part part).rtgen, tries := 0, rel := none }

/-- An accepted record acts as a TDEP.W (R373): at once at a home of this device, so that its port's order is that of arrival (R375, DESIGN CHOICE,
log 157), or at its home on another device. -/
def State.startRecord (s : State) (part port n : Nat) (bytes : List Byte) : State :=
  let x := s.readMerged (hbmKey part (structNat bytes 24 8)) (64 * structNat bytes 16 2)
  let s := x.1
  let r := s.hostRequest part port n bytes x.2
  let home := s.homeFor part r.f0 r.f1
  if home.device = s.plat.device then s.arrive 0 (.depositAtHome r)
  else s.sendRequest r.core 0 0 3 (r.f0.setWidth 64) { blankFlit .tuple home.device part 0 with tup := some r, data := r.payload }

/-- A read's completion leaves for the host. -/
def State.hostAnswer (s : State) (part port bar addr : Nat) (data : Option (List Byte)) : State :=
  { s with host := s.host ++ [{ part := part, port := port, bar := bar, addr := addr, data := data }] }

/-- A read of memory through a window: at its home, once no FILLING granule holds it (R196, R372). -/
def State.windowRead (s : State) (part port bar addr size : Nat) : State :=
  if !s.windowOk part addr size then s.hostAnswer part port bar addr none
  else if (s.meltAt (hbmKey part addr) size).any fun m => !m.live then s.afterArg 1 (.hostWindowRead part port bar addr size) [1]
  else
    let x := s.homeRead deviceCore (hbmKey part addr) size
    x.1.hostAnswer part port bar addr (some x.2)

/-- Ordered accesses of a port in their order, up to a record, behind which the rest waits until it has acted (R372, R375). -/
def State.hostRun (s : State) (part port : Nat) : List Instr → State
  | [] => s.modPart part fun p => { p with hostq := p.hostq.del port }
  | e :: rest =>
    match e with
    | .hostOrderedWrite _ _ _ addr bytes => (s.hostStore part addr bytes).hostRun part port rest
    | .hostWindowRead _ _ bar addr size => (s.windowRead part port bar addr size).hostRun part port rest
    | .hostDepositRecord _ _ _ _ bytes => (s.modPart part fun p => { p with hostq := p.hostq.set port (e :: rest) }).startRecord part port 0 bytes
    | _ => s.hostRun part port rest

/-- An access of a port that is ordered after its earlier ones (R375). -/
def State.hostOrdered (s : State) (part port : Nat) (e : Instr) : State :=
  match (s.part part).hostq.get [] port with
  | [] => s.hostRun part port [e]
  | l => s.modPart part fun p => { p with hostq := p.hostq.set port (l ++ [e]) }

/-- A write that is performed later, without order: it carries a mark and a number, and is open until it is performed (R375). -/
def State.hostLater (s : State) (part port bound : Nat) (e : Instr) : State :=
  ((s.modPart part fun p => { p with hostOpen := p.hostOpen ++ [(port, s.nextTag)] }).afterArg (1 + s.choose bound) e [1, s.nextTag]).bump.newTag

/-- A write without order is performed. -/
def State.hostPerformed (s : State) (part port : Nat) : State :=
  s.modPart part fun p => { p with hostOpen := p.hostOpen.filter fun w => w != (port, s.argAt 1) }

/-- HOST_ORDERED_WRITE (R372, R375): in arrival order; with RO within 10,000 cycles, in no order. -/
def execHostOrderedWrite (part port : Nat) (ro : Bool) (addr : Nat) (bytes : List Byte) (s : State) : Out :=
  .next (if s.argAt 0 = 1 then
      (if s.windowOk part addr bytes.length then s.hostStore part addr bytes else s.hostDrop part 6).hostPerformed part port
    else if !s.windowOk part addr bytes.length then s.hostDrop part 6
    else if ro then s.hostLater part port 9999 (.hostOrderedWrite part port ro addr bytes)
    else s.hostOrdered part port (.hostOrderedWrite part port ro addr bytes))

/-- HOST_BULK_WRITE (R372, R375): performed after a finite time, in no order, and counted. -/
def execHostBulkWrite (part port : Nat) (addr : Nat) (bytes : List Byte) (s : State) : Out :=
  .next (if s.argAt 0 = 1 then
      (if s.windowOk part addr bytes.length then
        (s.hostStore part addr bytes).modPart part fun p => { p with bulks := p.bulks.set port (p.bulks.get 0 port + 1) }
      else s.hostDrop part 6).hostPerformed part port
    else if !s.windowOk part addr bytes.length then s.hostDrop part 6
    else s.hostLater part port 65536 (.hostBulkWrite part port addr bytes))

/-- HOST_DEPOSIT_RECORD (R373-R375): accepted as a TDEP.W, or dropped with its reason; with RO it acts within 10,000 cycles in no order. The number 1
marks a relaxed record whose time has come, 2 that an ordered one has acted. -/
def execHostDepositRecord (part port : Nat) (ro : Bool) (addr : Nat) (bytes : List Byte) (s : State) : Out :=
  .next (if s.argAt 0 = 2 then s.hostRun part port (((s.part part).hostq.get [] port).drop 1)
    else if s.argAt 0 = 1 then s.startRecord part port (s.argAt 1) bytes
    else
      let s := if ro then s.modPart part fun p => { p with rodep := satUp p.rodep } else s
      match s.recordDrop part addr bytes with
      | some n => s.hostDrop part n
      | none =>
        let s := s.modPart part fun p => { p with records := p.records + 1 }
        if ro then s.hostLater part port 9999 (.hostDepositRecord part port ro addr bytes)
        else s.hostOrdered part port (.hostDepositRecord part port ro addr bytes))

/-- A word of BAR0 (R372). -/
def State.bar0Word (s : State) (part off : Nat) : Word :=
  match off with
  | 0x10000 => (s.part part).hdepdone
  | 0x10008 => (s.part part).hdeperr
  | 0x10010 => (s.part part).rodep
  | 0x10020 => s.partWord part 8
  | _ => 0

/-- HOST_WINDOW_READ (R372): registers of BAR0, or memory at its home, through the ordered window after the port's earlier ordered writes. -/
def execHostWindowRead (part port : Nat) (bar : Nat) (addr : Nat) (size : Nat) (s : State) : Out :=
  .next (if bar = 0 then
      if addr / 8 * 8 = 0x10018 then s.afterArg 0 (.bulksync part port) []
      else s.hostAnswer part port bar addr (some ((List.range size).map fun i =>
        BitVec.ofNat 8 (bitsOf (s.bar0Word part ((addr + i) / 8 * 8)) ((addr + i) % 8 * 8) 8)))
    else if bar = 2 ∧ s.argAt 0 ≠ 1 then s.hostOrdered part port (.hostWindowRead part port bar addr size)
    else s.windowRead part port bar addr size)

/-- Are bulk and RO writes of a port to a partition, numbered below `n`, not yet performed (R375)? -/
def State.writesOpen (s : State) (part port n : Nat) : Bool := (s.part part).hostOpen.any fun w => w.1 == port && decide (w.2 < n)

/-- BULKSYNC (R375): the step's number is that of the read's arrival; the count of bulk writes performed follows the earlier writes. -/
def execBulksync (part port : Nat) (s : State) : Out :=
  let n := match s.arg with
    | [] => s.nextTag
    | x :: _ => x
  .next (if s.writesOpen part port n then s.afterArg 1 (.bulksync part port) [n]
    else s.hostAnswer part port 0 0x10018 (some (leBytes 8 ((s.part part).bulks.get 0 port))))

/-- CXL_MEM_ACCESS (R215, R371): the host reads or writes the HDM range as a coherent agent of the DEVICE instance. -/
def execCxlMemAccess (part : Nat) (write : Bool) (addr : Nat) (size : Nat) (bytes : List Byte) (s : State) : Out :=
  let v := (s.part part).hdm
  let lo := bitsOf v 30 19 * 2 ^ 30
  .next (if !v.getLsbD 0 || addr < lo || lo + bitsOf v 1 15 * 2 ^ 30 < addr + size then s.hostAnswer part 0 6 addr none
    else if write then s.hostStore part addr (bytes.take size)
    else if (s.meltAt (hbmKey part addr) size).any fun m => !m.live then s.after 1 (.cxlMemAccess part write addr size bytes)
    else
      let x := s.homeRead deviceCore (hbmKey part addr) size
      x.1.hostAnswer part 0 6 addr (some x.2))

/-- CXL_SNOOP (R215, R369): a host write of a line of host memory; the device's copies of the line go. -/
def execCxlSnoop (port : Nat) (line : Nat) (bytes : List Byte) (s : State) : Out :=
  .next (s.writeHome deviceCore (hostKey port (line * 64)) (bytes.take 64))

-- ==== the dies' links (R358, R359) ====

/-- UCIE_LANE_FAILURE (R359): a spare lane takes the place of the failed one, and the link keeps its rate. -/
def execUcieLaneFailure (s : State) : Out := .next s

/-- DIE_LINK_LOSS (R359, R432): the pair's traffic takes the other route; LINKEV counts the loss. -/
def execDieLinkLoss (s : State) : Out :=
  let n := s.argAt 0
  .next (if 4 ≤ n || s.plat.lostPairs.contains n then s
    else { s with plat := { s.plat with lostPairs := n :: s.plat.lostPairs
                                        linkev := putBits s.plat.linkev 0 16 (min (bitsOf s.plat.linkev 0 16 + 1) 0xffff) } })

end Sys2Proof.Machine
end

