-- ==== Sys2Proof/Machine/Platform.lean ====
section
/-! DEFINITION. Boot, firmware, attestation, link keys and the management registers (R423-R433). -/

namespace Sys2Proof.Machine

-- ==== boot and firmware (R423, R424) ====

/-- The device after a boot: what the fuses, the flash and the host's memory hold stays, and every CHECKKEY is new. Where the image in flash verifies
it runs; otherwise the device is in recovery, in which only the mailbox works (`State.works`). -/
def State.booted (s : State) : State :=
  let r := State.reset
  { r with
    now := s.now
    tick := s.tick + 1
    mem := s.mem.filter fun c => 2 ^ 65 ≤ c.1
    plat := { r.plat with
      device := s.plat.device
      devfeat := s.plat.devfeat
      disabled := s.plat.disabled
      temp := s.plat.temp
      power := s.plat.power
      bootTime := s.now
      boots := s.plat.boots + 1
      recovery := s.plat.flash.isNone
      seed := s.plat.seed
      rootKey := s.plat.rootKey
      flash := s.plat.flash
      image := s.plat.flash.getD s.plat.image }
    nextTag := s.nextTag
    nextCmd := s.nextCmd
    nextAge := s.nextAge }

/-- DEVICE_RESET (R423). -/
def execDeviceReset (s : State) : Out := .next s.booted

/-- The device manager writes DRVFEAT for the driver (R425, R426): not while it is locked, and no bit that DEVFEAT clears or that is zero. -/
def State.driverFeatures (s : State) (v : Word) : State :=
  if s.refusedValue 24 v then s else { s with plat := { s.plat with drvfeat := v } }

/-- FIRMWARE_UPDATE (R423-R426, R428): a command of the physical function's mailbox, by the step's first number. 0 and 1: a new image (the second
number), whose signature verifies (1) or does not; it goes to flash and takes effect at the next reset; an update that is interrupted (third number 1)
leaves flash unverifiable. 2: the driver's features. 3: the host reads the certificate chain (log 158). -/
def execFirmwareUpdate (s : State) : Out :=
  .next (if !s.plat.mailbox then s
    else match s.argAt 0 with
      | 1 => { s with plat := { s.plat with flash := if s.argAt 2 = 1 then none else some (s.argAt 1) } }
      | 2 => s.driverFeatures (BitVec.ofNat 64 (s.argAt 1))
      | 3 => s.hostAnswer 0 0 7 0 (some s.certChain)
      | _ => s)

-- ==== attestation (R428, R429) ====

/-- ATTEST_REQUEST (R429): the step's number is the partition; a second request replaces the first. -/
def execAttestRequest (s : State) : Out :=
  let p := s.argAt 0
  let keep (d : Due) : Bool := !(d.ev == .attestReady && d.arg.getD 0 0 == p)
  let s := ({ s with agenda := s.agenda.filter keep } : State).modPart p fun x => { x with attest := 1, report := padTo 32 x.nonce }
  .next ((s.afterArg (1 + s.choose 4999999) .attestReady [p]).bump)

/-- ATTEST_READY (R428, R429): the signed report over the nonce of the request, 32 bytes of zero where none was written. -/
def execAttestReady (s : State) : Out :=
  let p := s.argAt 0
  .next (if (s.part p).attest = 1 then
      s.bump.modPart p fun x => { x with attest := 2, report := s.reportBytes p (x.report.take 32) }
    else s)

-- ==== links and management registers (R431-R433) ====

/-- LINK_REKEY (R431): the step's numbers are 1 for a global port, and the port. No register holds a key; renewals are counted. -/
def execLinkRekey (s : State) : Out := .next { s with fab := { s.fab with rekeys := s.fab.rekeys + 1 } }

/-- CECOUNT_CLEAR (R432). -/
def execCecountClear (s : State) : Out := .next { s with plat := { s.plat with cecount := 0 } }

/-- LINKEV_CLEAR (R432). -/
def execLinkevClear (s : State) : Out := .next { s with plat := { s.plat with linkev := 0 } }

/-- ECC_CORRECTED (R318, R432): the step's number is that of the corrected errors; the count saturates. -/
def execEccCorrected (s : State) : Out :=
  .next { s with plat := { s.plat with cecount := putBits s.plat.cecount 0 32 (min (bitsOf s.plat.cecount 0 32 + s.argAt 0) 0xffffffff) } }

/-- THROTTLE (R433): the step's numbers are the power measured over 1 ms and a divisor; above PLIMIT the divisor is raised, to that one or by 1, else
it may fall. -/
def execThrottle (s : State) : Out :=
  let power := s.argAt 0
  let old := bitsOf s.plat.throttle 0 16
  let new := max 1 (s.argAt 1 % 65536)
  let exceeds := decide (s.plat.plimit.toNat < power)
  .next { s with plat := { s.plat with power := BitVec.ofNat 64 power
                                       throttle := BitVec.ofNat 64 (if exceeds then min (max (old + 1) new) 65535 else min old new) } }

/-- A partition that is to be stopped: at once where it is RUNNING, and after the command that it runs (R433). -/
def State.stopHot (s : State) (part : Nat) : State :=
  let p := s.part part
  if !p.done then s.afterArg 64 .thermalStop [0, part + 1]
  else if p.state = .running then s.after 0 (.stop part)
  else s

/-- THERMAL_STOP (R433): the step's number is TEMP in units of 0.125 degrees; at 105 degrees every partition is stopped as STOP stops it. A second number
is one more than a partition that a command has kept busy. -/
def execThermalStop (s : State) : Out :=
  .next (if s.argAt 1 ≠ 0 then s.stopHot (s.argAt 1 - 1)
    else
      let s := { s with plat := { s.plat with temp := BitVec.ofNat 64 (s.argAt 0) } }
      if s.argAt 0 < 840 then s else s.parts.foldl (fun s p => s.stopHot p.1) s)

/-- THERMAL_POWER_OFF (R433): at 115 degrees the package is off, and nothing of it acts. -/
def execThermalPowerOff (s : State) : Out :=
  let s := { s with plat := { s.plat with temp := BitVec.ofNat 64 (s.argAt 0) } }
  .next (if s.argAt 0 < 920 then s
    else
      let r := s.booted
      { r with plat := { r.plat with poweredOff := true, recovery := s.plat.recovery, mailbox := false, image := s.plat.image } })

end Sys2Proof.Machine
end

