-- ==== Sys2Proof/Machine/Dispatch.lean ====
section
/-! DEFINITION. One arm per constructor of `Instr`, each a direct call of its meaning. -/

namespace Sys2Proof.Machine

def exec (i : Instr) (s : State) : Host.Outcome State Fault Refusal :=
  match i with
  | .cnop => Sys2Proof.Machine.execCnop s
  | .br p n off => Sys2Proof.Machine.execBr p n off s
  | .jmp p n off => Sys2Proof.Machine.execJmp p n off s
  | .call p n off => Sys2Proof.Machine.execCall p n off s
  | .jmpr a xa g => Sys2Proof.Machine.execJmpr a xa g s
  | .callr a xa g => Sys2Proof.Machine.execCallr a xa g s
  | .ret g => Sys2Proof.Machine.execRet g s
  | .lit d g v => Sys2Proof.Machine.execLit d g v s
  | .lith d g v => Sys2Proof.Machine.execLith d g v s
  | .mfs d ix g => Sys2Proof.Machine.execMfs d ix g s
  | .mts ix a xa g => Sys2Proof.Machine.execMts ix a xa g s
  | .ld d a off xa se sz => Sys2Proof.Machine.execLd d a off xa se sz s
  | .st d a xd off xa sz => Sys2Proof.Machine.execSt d a xd off xa sz s
  | .ldl d a off xa se sz => Sys2Proof.Machine.execLdl d a off xa se sz s
  | .stl d a xd off xa sz => Sys2Proof.Machine.execStl d a xd off xa sz s
  | .ldS d a off xa sz sc => Sys2Proof.Machine.execLdS d a off xa sz sc s
  | .stS d a xd off xa sz sc => Sys2Proof.Machine.execStS d a xd off xa sz sc s
  | .ldAcq d a off xa sz sc => Sys2Proof.Machine.execLdAcq d a off xa sz sc s
  | .stRel d a xd off xa sz sc => Sys2Proof.Machine.execStRel d a xd off xa sz sc s
  | .fence g sc => Sys2Proof.Machine.execFence g sc s
  | .ifence g => Sys2Proof.Machine.execIfence g s
  | .cflush a xa g sc => Sys2Proof.Machine.execCflush a xa g sc s
  | .cinv a xa g sc => Sys2Proof.Machine.execCinv a xa g sc s
  | .red op a b xa xb g sz sc => Sys2Proof.Machine.execRed op a b xa xb g sz sc s
  | .cas d a b xa xb g sz sc => Sys2Proof.Machine.execCas d a b xa xb g sz sc s
  | .amoAdd d a b xa xb g sz sc => Sys2Proof.Machine.execAmoAdd d a b xa xb g sz sc s
  | .amoSwap d a b xa xb g sz sc => Sys2Proof.Machine.execAmoSwap d a b xa xb g sz sc s
  | .amoAnd d a b xa xb g sz sc => Sys2Proof.Machine.execAmoAnd d a b xa xb g sz sc s
  | .amoOr d a b xa xb g sz sc => Sys2Proof.Machine.execAmoOr d a b xa xb g sz sc s
  | .amoXor d a b xa xb g sz sc => Sys2Proof.Machine.execAmoXor d a b xa xb g sz sc s
  | .amoMin d a b xa xb g sz sc => Sys2Proof.Machine.execAmoMin d a b xa xb g sz sc s
  | .amoMax d a b xa xb g sz sc => Sys2Proof.Machine.execAmoMax d a b xa xb g sz sc s
  | .tdep d h b xa xb g m => Sys2Proof.Machine.execTdep d h b xa xb g m s
  | .trd d h b xa xb g m => Sys2Proof.Machine.execTrd d h b xa xb g m s
  | .ttake d h b xa xb g m => Sys2Proof.Machine.execTtake d h b xa xb g m s
  | .tcancel d h xa g => Sys2Proof.Machine.execTcancel d h xa g s
  | .mint d b g => Sys2Proof.Machine.execMint d b g s
  | .mintC d a xa g => Sys2Proof.Machine.execMintC d a xa g s
  | .land d a b xa xb g sc => Sys2Proof.Machine.execLand d a b xa xb g sc s
  | .unmint d a xa g => Sys2Proof.Machine.execUnmint d a xa g s
  | .fillm a b xa xb g v => Sys2Proof.Machine.execFillm a b xa xb g v s
  | .ldM d a b xa xb g => Sys2Proof.Machine.execLdM d a b xa xb g s
  | .meltq d a xa g => Sys2Proof.Machine.execMeltq d a xa g s
  | .spawn d a b xa xb g nreg => Sys2Proof.Machine.execSpawn d a b xa xb g nreg s
  | .exit g => Sys2Proof.Machine.execExit g s
  | .yield g => Sys2Proof.Machine.execYield g s
  | .suspend a xa g => Sys2Proof.Machine.execSuspend a xa g s
  | .barset a b xa xb g sc => Sys2Proof.Machine.execBarset a b xa xb g sc s
  | .bar a xa g sc => Sys2Proof.Machine.execBar a xa g sc s
  | .barq d a xa g sc => Sys2Proof.Machine.execBarq d a xa g sc s
  | .setpri a xa g => Sys2Proof.Machine.execSetpri a xa g s
  | .ffence d a b xa xb g sc => Sys2Proof.Machine.execFfence d a b xa xb g sc s
  | .xpost d a b xa xb g => Sys2Proof.Machine.execXpost d a b xa xb g s
  | .xflush d a xa g => Sys2Proof.Machine.execXflush d a xa g s
  | .xwait d a b xa xb g => Sys2Proof.Machine.execXwait d a b xa xb g s
  | .pealLoad d a xa g => Sys2Proof.Machine.execPealLoad d a xa g s
  | .pealRun d a b xa xb g => Sys2Proof.Machine.execPealRun d a b xa xb g s
  | .pealWait d a xa g => Sys2Proof.Machine.execPealWait d a xa g s
  | .calve d a xa g => Sys2Proof.Machine.execCalve d a xa g s
  | .trap n g => Sys2Proof.Machine.execTrap n g s
  | .rett g => Sys2Proof.Machine.execRett g s
  | .uiret g => Sys2Proof.Machine.execUiret g s
  | .tlbinv a b xa xb g k => Sys2Proof.Machine.execTlbinv a b xa xb g k s
  | .tlbprobe d a xa g => Sys2Proof.Machine.execTlbprobe d a xa g s
  | .ctxsave d a xa g => Sys2Proof.Machine.execCtxsave d a xa g s
  | .ctxload d a xa g => Sys2Proof.Machine.execCtxload d a xa g s
  | .foldset a xa g => Sys2Proof.Machine.execFoldset a xa g s
  | .halt g => Sys2Proof.Machine.execHalt g s
  | .add d a b xa xb g => Sys2Proof.Machine.execAdd d a b xa xb g s
  | .sub d a b xa xb g => Sys2Proof.Machine.execSub d a b xa xb g s
  | .mul d a b xa xb g => Sys2Proof.Machine.execMul d a b xa xb g s
  | .mulh d a b xa xb g => Sys2Proof.Machine.execMulh d a b xa xb g s
  | .div d a b xa xb g => Sys2Proof.Machine.execDiv d a b xa xb g s
  | .divu d a b xa xb g => Sys2Proof.Machine.execDivu d a b xa xb g s
  | .rem d a b xa xb g => Sys2Proof.Machine.execRem d a b xa xb g s
  | .remu d a b xa xb g => Sys2Proof.Machine.execRemu d a b xa xb g s
  | .and d a b xa xb g => Sys2Proof.Machine.execAnd d a b xa xb g s
  | .or d a b xa xb g => Sys2Proof.Machine.execOr d a b xa xb g s
  | .xor d a b xa xb g => Sys2Proof.Machine.execXor d a b xa xb g s
  | .andn d a b xa xb g => Sys2Proof.Machine.execAndn d a b xa xb g s
  | .shl d a b xa xb g => Sys2Proof.Machine.execShl d a b xa xb g s
  | .shr d a b xa xb g => Sys2Proof.Machine.execShr d a b xa xb g s
  | .sar d a b xa xb g => Sys2Proof.Machine.execSar d a b xa xb g s
  | .rot d a b xa xb g => Sys2Proof.Machine.execRot d a b xa xb g s
  | .clz d a xa g => Sys2Proof.Machine.execClz d a xa g s
  | .popc d a xa g => Sys2Proof.Machine.execPopc d a xa g s
  | .min d a b xa xb g => Sys2Proof.Machine.execMin d a b xa xb g s
  | .max d a b xa xb g => Sys2Proof.Machine.execMax d a b xa xb g s
  | .minu d a b xa xb g => Sys2Proof.Machine.execMinu d a b xa xb g s
  | .maxu d a b xa xb g => Sys2Proof.Machine.execMaxu d a b xa xb g s
  | .mov d a xa g => Sys2Proof.Machine.execMov d a xa g s
  | .sel d a b xa xb p => Sys2Proof.Machine.execSel d a b xa xb p s
  | .addi d a xa imm => Sys2Proof.Machine.execAddi d a xa imm s
  | .andi d a xa imm => Sys2Proof.Machine.execAndi d a xa imm s
  | .ori d a xa imm => Sys2Proof.Machine.execOri d a xa imm s
  | .shli d a xa n => Sys2Proof.Machine.execShli d a xa n s
  | .cmp d a b xa xb g cc => Sys2Proof.Machine.execCmp d a b xa xb g cc s
  | .pand d a b g => Sys2Proof.Machine.execPand d a b g s
  | .por d a b g => Sys2Proof.Machine.execPor d a b g s
  | .pnot d a g => Sys2Proof.Machine.execPnot d a g s
  | .fadd d a b xa xb g => Sys2Proof.Machine.execFadd d a b xa xb g s
  | .fsub d a b xa xb g => Sys2Proof.Machine.execFsub d a b xa xb g s
  | .fmul d a b xa xb g => Sys2Proof.Machine.execFmul d a b xa xb g s
  | .fdiv d a b xa xb g => Sys2Proof.Machine.execFdiv d a b xa xb g s
  | .fsqrt d a xa g => Sys2Proof.Machine.execFsqrt d a xa g s
  | .fmin d a b xa xb g => Sys2Proof.Machine.execFmin d a b xa xb g s
  | .fmax d a b xa xb g => Sys2Proof.Machine.execFmax d a b xa xb g s
  | .fsgn d a b xa xb g => Sys2Proof.Machine.execFsgn d a b xa xb g s
  | .fclass d a xa g => Sys2Proof.Machine.execFclass d a xa g s
  | .fcvt d a k xa g => Sys2Proof.Machine.execFcvt d a k xa g s
  | .icvt d a k xa g => Sys2Proof.Machine.execIcvt d a k xa g s
  | .ffma d a b xa xb g => Sys2Proof.Machine.execFfma d a b xa xb g s
  | .fcmp d a b xa xb g cc => Sys2Proof.Machine.execFcmp d a b xa xb g cc s
  | .vadd hd ha hb hl sc xs => Sys2Proof.Machine.execVadd hd ha hb hl sc xs s
  | .vsub hd ha hb hl sc xs => Sys2Proof.Machine.execVsub hd ha hb hl sc xs s
  | .vmul hd ha hb hl sc xs => Sys2Proof.Machine.execVmul hd ha hb hl sc xs s
  | .vfma hd ha hb hl sc xs => Sys2Proof.Machine.execVfma hd ha hb hl sc xs s
  | .vmax hd ha hb hl sc xs => Sys2Proof.Machine.execVmax hd ha hb hl sc xs s
  | .vmin hd ha hb hl sc xs => Sys2Proof.Machine.execVmin hd ha hb hl sc xs s
  | .vabs hd ha hl sc xs => Sys2Proof.Machine.execVabs hd ha hl sc xs s
  | .vneg hd ha hl sc xs => Sys2Proof.Machine.execVneg hd ha hl sc xs s
  | .vexp2 hd ha hl sc xs => Sys2Proof.Machine.execVexp2 hd ha hl sc xs s
  | .vlog2 hd ha hl sc xs => Sys2Proof.Machine.execVlog2 hd ha hl sc xs s
  | .vrcp hd ha hl sc xs => Sys2Proof.Machine.execVrcp hd ha hl sc xs s
  | .vrsq hd ha hl sc xs => Sys2Proof.Machine.execVrsq hd ha hl sc xs s
  | .vcvt hd ha hl sc xs => Sys2Proof.Machine.execVcvt hd ha hl sc xs s
  | .vscale hd ha hb hl sc xs => Sys2Proof.Machine.execVscale hd ha hb hl sc xs s
  | .vsel hd ha hb hl sc xs => Sys2Proof.Machine.execVsel hd ha hb hl sc xs s
  | .vand hd ha hb hl sc xs => Sys2Proof.Machine.execVand hd ha hb hl sc xs s
  | .vor hd ha hb hl sc xs => Sys2Proof.Machine.execVor hd ha hb hl sc xs s
  | .vxor hd ha hb hl sc xs => Sys2Proof.Machine.execVxor hd ha hb hl sc xs s
  | .vfill hd ha hl sc xs => Sys2Proof.Machine.execVfill hd ha hl sc xs s
  | .vcopy hd ha hl sc xs => Sys2Proof.Machine.execVcopy hd ha hl sc xs s
  | .vtrans hd ha hl sc xs => Sys2Proof.Machine.execVtrans hd ha hl sc xs s
  | .vgather hd ha hb hl sc xs => Sys2Proof.Machine.execVgather hd ha hb hl sc xs s
  | .vscatter hd ha hb hl sc xs => Sys2Proof.Machine.execVscatter hd ha hb hl sc xs s
  | .vcmp hd ha hb hl sc xs cc => Sys2Proof.Machine.execVcmp hd ha hb hl sc xs cc s
  | .vred hd ha hl sc xs op => Sys2Proof.Machine.execVred hd ha hl sc xs op s
  | .vshift hd ha hb hl sc xs k => Sys2Proof.Machine.execVshift hd ha hb hl sc xs k s
  | .mma hd ha hb hl sc xs => Sys2Proof.Machine.execMma hd ha hb hl sc xs s
  | .mmas hd ha hb hl sc xs => Sys2Proof.Machine.execMmas hd ha hb hl sc xs s
  | .mzero hd hl sc xs => Sys2Proof.Machine.execMzero hd hl sc xs s
  | .mdrain hd ha hl sc xs => Sys2Proof.Machine.execMdrain hd ha hl sc xs s
  | .maccld hd ha hl sc xs => Sys2Proof.Machine.execMaccld hd ha hl sc xs s
  | .cpy hd ha hl sc xs => Sys2Proof.Machine.execCpy hd ha hl sc xs s
  | .cpyg hd ha hb hl sc xs => Sys2Proof.Machine.execCpyg hd ha hb hl sc xs s
  | .cpys hd ha hb hl sc xs => Sys2Proof.Machine.execCpys hd ha hb hl sc xs s
  | .cpyr hd ha hl sc xs => Sys2Proof.Machine.execCpyr hd ha hl sc xs s
  | .hset d a q xa g => Sys2Proof.Machine.execHset d a q xa g s
  | .hget d a q xa g => Sys2Proof.Machine.execHget d a q xa g s
  | .rset r a xa g => Sys2Proof.Machine.execRset r a xa g s
  | .rpush r g => Sys2Proof.Machine.execRpush r g s
  | .lease n g => Sys2Proof.Machine.execLease n g s
  | .unlease g => Sys2Proof.Machine.execUnlease g s
  | .engstat d a b xa xb g => Sys2Proof.Machine.execEngstat d a b xa xb g s
  | .resume a b xa xb g => Sys2Proof.Machine.execResume a b xa xb g s
  | .illegalInstruction detail word => Sys2Proof.Machine.execIllegalInstruction detail word s
  | .bundleFetch slot => Sys2Proof.Machine.execBundleFetch slot s
  | .deliver uid tag v => Sys2Proof.Machine.execDeliver uid tag v s
  | .windowSpill slot => Sys2Proof.Machine.execWindowSpill slot s
  | .windowFill slot => Sys2Proof.Machine.execWindowFill slot s
  | .registerClear slot => Sys2Proof.Machine.execRegisterClear slot s
  | .dispatchRecord cluster => Sys2Proof.Machine.execDispatchRecord cluster s
  | .poolClear core => Sys2Proof.Machine.execPoolClear core s
  | .slotLoad slot => Sys2Proof.Machine.execSlotLoad slot s
  | .steal cluster => Sys2Proof.Machine.execSteal cluster s
  | .sliceExpiry cluster => Sys2Proof.Machine.execSliceExpiry cluster s
  | .sliceEarlyEnd cluster => Sys2Proof.Machine.execSliceEarlyEnd cluster s
  | .barrierRelease bar others => Sys2Proof.Machine.execBarrierRelease bar others s
  | .messageFlit f => Sys2Proof.Machine.execMessageFlit f s
  | .messageAnswer uid accepted => Sys2Proof.Machine.execMessageAnswer uid accepted s
  | .messageResend uid => Sys2Proof.Machine.execMessageResend uid s
  | .storePerform core seq => Sys2Proof.Machine.execStorePerform core seq s
  | .torusPacket die packet => Sys2Proof.Machine.execTorusPacket die packet s
  | .tlbWalk core asid va kind => Sys2Proof.Machine.execTlbWalk core asid va kind s
  | .depositAtHome r => Sys2Proof.Machine.execDepositAtHome r s
  | .depositResend r => Sys2Proof.Machine.execDepositResend r s
  | .matchAtHome r => Sys2Proof.Machine.execMatchAtHome r s
  | .cancelAtHome r => Sys2Proof.Machine.execCancelAtHome r s
  | .tupleDeliveryDone copy => Sys2Proof.Machine.execTupleDeliveryDone copy s
  | .homemoved r => Sys2Proof.Machine.execHomemoved r s
  | .landingArrival l => Sys2Proof.Machine.execLandingArrival l s
  | .fillmAtHome key count data part ctx => Sys2Proof.Machine.execFillmAtHome key count data part ctx s
  | .meltFillDone key => Sys2Proof.Machine.execMeltFillDone key s
  | .ldmAtHome uid tag key area => Sys2Proof.Machine.execLdmAtHome uid tag key area s
  | .meltEviction key => Sys2Proof.Machine.execMeltEviction key s
  | .vectorGrant quad => Sys2Proof.Machine.execVectorGrant quad s
  | .vectorSliceExpiry quad => Sys2Proof.Machine.execVectorSliceExpiry quad s
  | .leaseGrant quad => Sys2Proof.Machine.execLeaseGrant quad s
  | .leaseIdleEnd quad => Sys2Proof.Machine.execLeaseIdleEnd quad s
  | .leaseExpiry quad => Sys2Proof.Machine.execLeaseExpiry quad s
  | .iterationCommit cmd => Sys2Proof.Machine.execIterationCommit cmd s
  | .engineCompletion cmd => Sys2Proof.Machine.execEngineCompletion cmd s
  | .engineFault cmd detail tval => Sys2Proof.Machine.execEngineFault cmd detail tval s
  | .userInterruptEntry slot => Sys2Proof.Machine.execUserInterruptEntry slot s
  | .ringLoad core ring => Sys2Proof.Machine.execRingLoad core ring s
  | .copyEngineStart engine => Sys2Proof.Machine.execCopyEngineStart engine s
  | .combineWindowClose cluster window => Sys2Proof.Machine.execCombineWindowClose cluster window s
  | .contextSave cluster entry => Sys2Proof.Machine.execContextSave cluster entry s
  | .contextRestore cluster entry => Sys2Proof.Machine.execContextRestore cluster entry s
  | .pfaultClear cluster entry => Sys2Proof.Machine.execPfaultClear cluster entry s
  | .contextTableWrite cluster entry v => Sys2Proof.Machine.execContextTableWrite cluster entry v s
  | .ctxkill part ctx => Sys2Proof.Machine.execCtxkill part ctx s
  | .killComplete part ctx => Sys2Proof.Machine.execKillComplete part ctx s
  | .uncorrectableError place reason uid reg pa => Sys2Proof.Machine.execUncorrectableError place reason uid reg pa s
  | .create part => Sys2Proof.Machine.execCreate part s
  | .start part => Sys2Proof.Machine.execStart part s
  | .stop part => Sys2Proof.Machine.execStop part s
  | .resize part => Sys2Proof.Machine.execResize part s
  | .reset part => Sys2Proof.Machine.execReset part s
  | .destroy part => Sys2Proof.Machine.execDestroy part s
  | .pctlCommandDone part => Sys2Proof.Machine.execPctlCommandDone part s
  | .controlRegisterWrite part priv addr size v => Sys2Proof.Machine.execControlRegisterWrite part priv addr size v s
  | .memoryHomemoved part addr => Sys2Proof.Machine.execMemoryHomemoved part addr s
  | .hostDepositRecord part port ro addr bytes => Sys2Proof.Machine.execHostDepositRecord part port ro addr bytes s
  | .hostOrderedWrite part port ro addr bytes => Sys2Proof.Machine.execHostOrderedWrite part port ro addr bytes s
  | .hostBulkWrite part port addr bytes => Sys2Proof.Machine.execHostBulkWrite part port addr bytes s
  | .hostWindowRead part port bar addr size => Sys2Proof.Machine.execHostWindowRead part port bar addr size s
  | .bulksync part port => Sys2Proof.Machine.execBulksync part port s
  | .cxlMemAccess part write addr size bytes => Sys2Proof.Machine.execCxlMemAccess part write addr size bytes s
  | .cxlSnoop port line bytes => Sys2Proof.Machine.execCxlSnoop port line bytes s
  | .fabricRequest f => Sys2Proof.Machine.execFabricRequest f s
  | .fabricResponse f => Sys2Proof.Machine.execFabricResponse f s
  | .fabricResend core dev seq => Sys2Proof.Machine.execFabricResend core dev seq s
  | .uncertain core dev => Sys2Proof.Machine.execUncertain core dev s
  | .remoteFailureTrap slot => Sys2Proof.Machine.execRemoteFailureTrap slot s
  | .flitForward f route => Sys2Proof.Machine.execFlitForward f route s
  | .credit link vc control data => Sys2Proof.Machine.execCredit link vc control data s
  | .linkState group member globalPort port => Sys2Proof.Machine.execLinkState group member globalPort port s
  | .driftTrigger part queue => Sys2Proof.Machine.execDriftTrigger part queue s
  | .driftSend part queue => Sys2Proof.Machine.execDriftSend part queue s
  | .driftData part p => Sys2Proof.Machine.execDriftData part p s
  | .driftAck part queue psn => Sys2Proof.Machine.execDriftAck part queue psn s
  | .driftNack part queue psn => Sys2Proof.Machine.execDriftNack part queue psn s
  | .driftRetransmit part queue psn => Sys2Proof.Machine.execDriftRetransmit part queue psn s
  | .driftQueueError part queue => Sys2Proof.Machine.execDriftQueueError part queue s
  | .ecnMark part queue => Sys2Proof.Machine.execEcnMark part queue s
  | .ecnWindowRestore part queue => Sys2Proof.Machine.execEcnWindowRestore part queue s
  | .pealNode part run node => Sys2Proof.Machine.execPealNode part run node s
  | .pealArrival part f => Sys2Proof.Machine.execPealArrival part f s
  | .pealNotice part group seq lost => Sys2Proof.Machine.execPealNotice part group seq lost s
  | .unmintAtTable uid tag name part ctx => Sys2Proof.Machine.execUnmintAtTable uid tag name part ctx s
  | .atomicExecute r => Sys2Proof.Machine.execAtomicExecute r s
  | .yieldRecordEnqueue part cluster ctx e => Sys2Proof.Machine.execYieldRecordEnqueue part cluster ctx e s
  | .deviceReset => Sys2Proof.Machine.execDeviceReset s
  | .firmwareUpdate => Sys2Proof.Machine.execFirmwareUpdate s
  | .attestRequest => Sys2Proof.Machine.execAttestRequest s
  | .attestReady => Sys2Proof.Machine.execAttestReady s
  | .linkRekey => Sys2Proof.Machine.execLinkRekey s
  | .wake => Sys2Proof.Machine.execWake s
  | .cecountClear => Sys2Proof.Machine.execCecountClear s
  | .linkevClear => Sys2Proof.Machine.execLinkevClear s
  | .throttle => Sys2Proof.Machine.execThrottle s
  | .thermalStop => Sys2Proof.Machine.execThermalStop s
  | .thermalPowerOff => Sys2Proof.Machine.execThermalPowerOff s
  | .calveIncomplete => Sys2Proof.Machine.execCalveIncomplete s
  | .ucieLaneFailure => Sys2Proof.Machine.execUcieLaneFailure s
  | .dieLinkLoss => Sys2Proof.Machine.execDieLinkLoss s
  | .fabricLaneLoss => Sys2Proof.Machine.execFabricLaneLoss s
  | .linkDown => Sys2Proof.Machine.execLinkDown s
  | .eccCorrected => Sys2Proof.Machine.execEccCorrected s
  | .linkDegraded => Sys2Proof.Machine.execLinkDegraded s

end Sys2Proof.Machine
end

