-- ==== Sys2Proof/Machine/Issue.lean ====
section
/-! DEFINITION. Issuing a bundle (R39), the barrel (R113, R114), what comes first at a bundle boundary (R247, R252, R389),
and the steps that are due. -/

namespace Sys2Proof.Machine

-- ==== the agenda ====

/-- Is a step due by a cycle? A register delivered in a cycle is FULL for the bundles of the next one (the table of R99), and a landing comes
after the bundles of its cycle (R190). -/
def Due.ready (now : Nat) (d : Due) : Bool :=
  match d.ev with
  | .deliver .. | .landingArrival _ | .fabricRequest _ => decide (d.due < now)
  | _ => decide (d.due ≤ now)

/-- The first step of the agenda that is due, with the agenda that is left. -/
def takeDue (now : Nat) : List Due → Option (Due × List Due)
  | [] => none
  | d :: r => if d.ready now = true then some (d, r) else (takeDue now r).map fun p => (p.1, d :: p.2)

/-- Does a step that is due act? In recovery mode only the mailbox works beside a reset and what the package measures (R423); a package that is off
acts no more until it is reset (R433). -/
def State.works (s : State) : Instr → Bool
  | .deviceReset => true
  | .firmwareUpdate | .thermalStop | .thermalPowerOff => !s.plat.poweredOff
  | _ => !s.plat.poweredOff && !s.plat.recovery

/-- A step that is due runs. -/
def State.runDue (s : State) (d : Due) (rest : List Due) : Out :=
  if s.works d.ev then exec d.ev { s with agenda := rest, arg := d.arg, flow := .seq, snap := none }
  else .next { s with agenda := rest }

-- ==== one bundle (R39) ====

/-- The state in which the instructions of slot `i`'s bundle run: sources are read in the slot as it stands now (R25). -/
def State.atIssue (s : State) (i : Nat) : State := { s with cur := i, snap := some (s.slot i), flow := .seq, arg := [] }

/-- How a run went on. -/
def flowOf : Out → Flow
  | .next s => s.flow
  | _ => .seq

def isTrap (f : Flow) : Bool := f == .trap || f == .trapX

/-- Both instructions of a bundle: an empty source with X = 1 traps first, then any wait, then any trap, the C-word's before
the A-word's (R23, R24, R39); else the A-instruction acts and then the C-instruction, which moves the window and the pc
(R25, R40). Where what the A-instruction does keeps the C-instruction from being ready, neither has acted. -/
def State.runPair (s : State) (c a : Instr) : Out :=
  let oc := exec c s
  let oa := exec a s
  if flowOf oc = .trapX then oc
  else if flowOf oa = .trapX then oa
  else if flowOf oc = .wait then oc
  else if flowOf oa = .wait then oa
  else if isTrap (flowOf oc) then oc
  else if isTrap (flowOf oa) then oa
  else if flowOf oc = .held then oc
  else match oa with
    | .next s' => match exec c (s'.withFlow .seq) with
      | .next t => .next (if t.flow = .wait || t.flow = .held then s.waits else t)
      | o => o
    | o => o

/-- The instructions of a bundle. -/
def State.runBundle (s : State) (b : Bundle) : Out :=
  match b.a with
  | none => exec b.c s
  | some a => s.runPair b.c a

/-- Does the slot hold the fetch block of its pc (R86)? -/
def Slot.fetched (t : Slot) : Option FetchBlock :=
  match t.front.fetch with
  | some f => if f.va.toNat = t.pc.toNat / 64 * 64 then some f else none
  | none => none

/-- The bytes of the bundle at the pc in its fetch block. -/
def FetchBlock.bundle (f : FetchBlock) (pc : Word) : List Byte := (f.bytes.drop (pc.toNat % 64)).take 8

/-- Word 0 of a bundle whose opcode belongs to a feature that the driver has not accepted: unassigned, the lowest reason (R45, R427). -/
def State.absentWord (s : State) (l : List Byte) : Option (BitVec 32) :=
  match bundleWords l with
  | some (w, _) => match featureBit w with
    | some b => if s.feature b then none else some w
    | none => none
  | none => none

/-- The bundle of slot `i` from its fetch block: a fault of the fetch, a malformed bundle, or its instructions (R39, R45,
R90). -/
def State.runBlock (s : State) (i : Nat) (f : FetchBlock) : Out :=
  let s := s.atIssue i
  let t := s.slot i
  match f.fault with
  | some (c, d, v) => .next (s.takeTrapNow c d v)
  | none =>
    match State.absentWord s (f.bundle t.pc) with
    | some w => exec (.illegalInstruction 0 w) s
    | none =>
      match decode t.depth (f.bundle t.pc) with
      | .error m => exec (.illegalInstruction m.detail m.word) s
      | .ok b => s.runBundle b

/-- The slot after its bundle issued: the next bundle, ready in the next cycle, unless the instruction has gone on in its
own way. What follows 0x7FFFFFFFFFFFFFF8 the rules leave open, since bit 63 of PC is zero (R28): sequential advance goes on at 0, a taken or not
taken CB at its own PC + 8 faults in the fetch (DESIGN CHOICE, log 139). -/
def State.advance (s : State) (i : Nat) : State :=
  match s.flow with
  | .seq => s.modSlot i fun t => { t with pc := pcOf (t.pc + 8), front := { t.front with readyAt := max (s.now + 1) t.front.readyAt } }
  | _ => s

/-- A core has issued: the barrel's pointer moves behind the slot (R114). -/
def State.issuedBy (s : State) (core i : Nat) : State :=
  { (s.modCore core fun c => { c with q := (slotNo i + 1) % 8 }) with issued := core :: s.issued, snap := none }

/-- The slot after a bundle that has acted: the walk that it waited for has served it, and so have the pieces that it read (R93, R409). -/
def State.acted (s : State) (i : Nat) : State :=
  (s.modSlot i fun t => { t with front := { t.front with walked := none, walkFault := none, got := [] } }).advance i

/-- What follows a bundle that issued. -/
def finish (i : Nat) : Out → Out
  | .next s => .next (((s.acted i).issuedBy (coreOf i) i).withFlow .seq)
  | o => o

-- ==== the barrel (R113, R114) ====

/-- Does a wait leave the strand's bundle free to issue? -/
def Wait.open : Wait → Bool
  | .none | .served _ | .refused | .drain .. => true
  | _ => false

/-- Has the strand of a slot a LD.ACQ outstanding at another device: what follows it waits for it (R205)? -/
def State.acquireOpen (s : State) (i : Nat) : Bool :=
  (s.core (coreOf i)).unacked.any fun u => u.uid == (s.slot i).id.uid && u.flit.kind == .load && u.flit.value.getLsbD 1

/-- Is it a wait that a pending completion interrupt breaks into (R247)? -/
def Wait.interruptible : Wait → Bool
  | .barrier _ | .send _ _ => true
  | w => w.open

/-- May the strand in a slot issue as far as the slot itself goes (R113)? -/
def State.mayIssue (s : State) (i : Nat) : Bool :=
  let t := s.slot i
  decide (t.phase = .live) && !t.front.halted && !t.front.stopping && !t.front.moving && t.front.wait.open
    && decide (t.front.readyAt ≤ s.now) && !s.acquireOpen i && !(s.context (contextKey t.id.part t.id.ctx)).dead

/-- Does a strand take a pending completion interrupt at this boundary (R247)? -/
def State.interrupted (s : State) (i : Nat) : Bool :=
  let t := s.slot i
  decide (t.phase = .live) && !t.front.stopping && !t.front.moving && decide (t.front.readyAt ≤ s.now)
    && t.front.wait.interruptible && !t.uint.pending.isEmpty && t.status.tl == 0 && !t.status.ui
    && !(s.context (contextKey t.id.part t.id.ctx)).dead

/-- What a slot does at its bundle boundary before its bundle: a failure that is owed to it (R252, R389), then a pending
completion interrupt (R247), then the fetch of its block (R86). -/
def State.boundary (s : State) (i : Nat) : Option Instr :=
  let t := s.slot i
  if s.owedAt i then some (.remoteFailureTrap i)
  else if s.interrupted i then some (.userInterruptEntry i)
  else if t.fetched.isNone then some (.bundleFetch i)
  else none

/-- Is a failure that is owed to a strand taken now, at a boundary or where it waits (R389)? -/
def State.failing (s : State) (i : Nat) : Bool :=
  let t := s.slot i
  s.owedAt i && !t.front.stopping && !t.front.moving && decide (t.front.readyAt ≤ s.now) && !(s.context (contextKey t.id.part t.id.ctx)).dead

/-- Has a slot's bundle issued in an earlier cycle, its answer to come or here: a send, an LD.M, a TLBINV (R114, R124, R197, R347)? -/
def Slot.begun (t : Slot) : Bool := decide (t.front.wait ≠ .none)

/-- What a run of a slot's bundle comes to: not ready, so that the next slot is looked at; begun, which is its issue; ended by its answer, which is
no issue again; or issued (R114). -/
def State.ranBundle (s : State) (core i : Nat) (begun : Bool) (next : State → Out) : Out :=
  if s.flow = .wait || (begun && s.flow = .held) then next { s with snap := none, flow := .seq }
  else if s.flow = .held then .next ((s.issuedBy core i).withFlow .seq)
  else if begun then next { s.acted i with snap := none, flow := .seq }
  else finish i (.next s)

/-- The first ready slot of a core issues; a slot that is not ready is skipped (R114). -/
def State.issueFrom (s : State) (core : Nat) : List Nat → Out
  | [] => .next { s with issued := core :: s.issued, snap := none }
  | i :: rest =>
    if !s.mayIssue i && !s.interrupted i && !s.failing i then s.issueFrom core rest
    else match s.boundary i with
      | some e => exec e { s with cur := i, snap := none, flow := .seq, arg := [] }
      | none =>
        match (s.slot i).fetched with
        | none => s.issueFrom core rest
        | some f =>
          match s.runBlock i f with
          | .next s' => s'.ranBundle core i (s.slot i).begun fun t => t.issueFrom core rest
          | o => o

/-- The slots of a core in the order q, q+1, ..., q+7, those first whose bundle has issued already and only ends. -/
def State.slotsFrom (s : State) (core : Nat) : List Nat :=
  let l := (List.range 8).map fun k => core * 8 + ((s.core core).q + k) % 8
  (l.filter fun i => (s.slot i).begun) ++ l.filter fun i => !(s.slot i).begun

/-- The first core that holds a strand and has not issued in this cycle. -/
def State.nextCore (s : State) : Option Nat :=
  (s.slots.find fun i t => decide (t.phase = .live) && !s.issued.contains (coreOf i)).map fun p => coreOf p.1

/-- One step of the device: a step that is due; else the next core's issue; else the next cycle. -/
def State.stepOnce (s : State) : Out :=
  match takeDue s.now s.agenda with
  | some (d, rest) => s.runDue d rest
  | none =>
    match s.nextCore with
    | some c => s.issueFrom c (s.slotsFrom c)
    | none => .next { s with now := s.now + 1, issued := [] }

-- ==== an instruction placed where the next step runs it (log 18) ====

/-- A strand that is ready at virtual address 0 of partition 0, with every register FULL and zero, at privilege M, in a frame
of the given depth. -/
def Slot.placed (depth : Nat) (bytes : List Byte) : Slot :=
  let full : RegCell := { val := 0, mark := .full, poison := false }
  { Slot.empty with
    phase := .live
    id := { Slot.empty.id with strand := 1, uid := strandKey 0 1 1, ctx := 1, place := 0xffff,
                               seg := plainSeg 0 (0x8982#64) }
    regs := Vector.replicate 80 full
    handles := Vector.replicate 16 { val := 0, mark := .full }
    depth := depth
    status := { ui := false, startclr := true, priv := .m, tl := 0 }
    front := { Slot.empty.front with fetch := some { va := 0, bytes := bytes, fault := none } } }

/-- The frame depth at which a bundle is placed: a RET needs a frame to return from (R89). -/
def placeDepth (w0 w1 : BitVec 32) : Nat :=
  match decodeBundle 1 w0 w1 with
  | .ok { c := .ret _, a := _ } => 1
  | _ => 0

/-- The device with a strand in slot 0 whose next bundle is the given one. -/
def State.withBundle (s : State) (w0 w1 : BitVec 32) : State :=
  let s := s.modPart 0 fun p => { p with state := .running, quanta := p.quanta ||| 1 }
  let s := s.modContext (contextKey 0 1) fun c => { c with live := 1, pool := 0x8982#64 }
  let s := s.modCore 0 fun c => { c with q := 0, poolWord := 0x8982#64, poolFor := some (contextKey 0 1, (s.context (contextKey 0 1)).latch) }
  { s.setSlot 0 (Slot.placed (placeDepth w0 w1) (bundleBytes w0 w1)) with
    agenda := [], issued := [], plat := { s.plat with drvfeat := s.plat.devfeat } }

end Sys2Proof.Machine
end

