-- ==== Sys2Proof/Machine/Step.lean ====
section
/-! DEFINITION. One step of the device, and the placing of an instruction for the next step. -/

namespace Sys2Proof.Machine

/-- One step: a step of the agenda that is due, or the issue of one bundle, or the next cycle. -/
def step (s : State) : Host.Outcome State Fault Refusal := s.stepOnce

/-- The state whose next step runs the instruction with the given bits (log 18). -/
def State.withFetchWord (s : State) (_nbits w : Nat) : State := s.withBundle (tableWords w).1 (tableWords w).2

end Sys2Proof.Machine
end

