-- ==== Sys2Proof/Safety.lean ====
section
/-! DEFINITION. The terms in which statements about the machine are made: the invariant, what lets an instruction act, and what the two
kinds of producers of R20 change, with all that they leave unchanged. -/

namespace Sys2Proof.Machine

/-- The invariant of every step: memory is in its canonical form (log 1). -/
def State.Inv (s : State) : Prop := s.mem.wf = true

/-- What lets an instruction with these sources and destinations act (R22-R24, R318): every source is FULL and carries no poison mark,
no destination makes it wait, and no source is the target of a failed command whose trap is owed (R252). -/
def State.ready (s : State) (srcs : List Source) (dsts : List Reg) (long : Bool) : Bool :=
  (s.owedRead srcs).isNone && srcs.all (fun o => s.src.isFull o && !s.src.isPoisoned o) && dsts.all (fun d => !s.src.blocked long d)

/-- The registers of the issuing slot but `d` are unchanged, the physical registers outside the window included; for s0, all of them. -/
def SameRegsBut (s t : State) (d : Reg) : Prop :=
  ∀ r : Fin 80, (d = 0 ∨ r ≠ physReg s.me.depth d) → t.me.regs.get r = s.me.regs.get r

/-- Every slot but the issuing one, and every byte of memory, is unchanged. -/
def SameElsewhere (s t : State) : Prop :=
  (∀ i, i ≠ s.cur → t.slot i = s.slot i) ∧ ∀ a, t.mem.read a = s.mem.read a

/-- What a minting entry is after a short producer has written `d` (R22): the entry of a NAMED `d` is freed, any other as before. -/
def nameAfter (s : State) (d : Reg) (e : MintEntry) : MintEntry :=
  if (s.me.reg d).mark = .named ∧ e.state = .reg ∧ e.uid = s.me.id.uid ∧ e.reg = absReg s.me.depth d then e.freed else e

/-- The whole effect of a short producer (R20, R22): `d` is FULL with `v`, without a poison mark, its name is destroyed, and nothing else
changes; a write to s0 is discarded (R11). The pc moves when the bundle completes. -/
structure Wrote (s t : State) (d : Reg) (v : Word) : Prop where
  value  : d ≠ 0 → t.me.reg d = { val := v, mark := .full, poison := false }
  regs   : SameRegsBut s t d
  slot   : t.me = { s.me with regs := t.me.regs }
  names  : ∀ c i, t.mintEntry c i = nameAfter s d (s.mintEntry c i)
  cores  : ∀ c, t.core c = { s.core c with mint := (t.core c).mint }
  others : SameElsewhere s t
  rest   : t = { s with slots := t.slots, cores := t.cores, flow := .seq }

/-- The whole effect of an instruction that writes one predicate (R19): `d` holds `b`, or nothing is written for p0; nothing else
changes. -/
structure WrotePred (s t : State) (d : PReg) (b : Bool) : Prop where
  value  : d ≠ 0 → t.me.pred d = b
  preds  : ∀ n : PReg, (d = 0 ∨ n ≠ d) → t.me.pred n = s.me.pred n
  slot   : t.me = { s.me with pw := t.me.pw }
  others : SameElsewhere s t
  rest   : t = { s with slots := t.slots, flow := .seq }

/-- What a long producer does to its slot at issue (R22): `d` is PENDING (nothing for s0), the producer stands in the slot's list under
the tag `s.nextTag`, and nothing else of the slots or of memory changes. -/
structure Began (s t : State) (d : Reg) (k : OutKind) : Prop where
  pending : d ≠ 0 → t.me.reg d = { val := s.me.val d, mark := .pending, poison := false }
  regs    : SameRegsBut s t d
  out     : t.me.pend.out = s.me.pend.out ++ [{ tag := s.nextTag, reg := absReg s.me.depth d, kind := k, seq := s.me.pend.seq }]
  slot    : t.me = { s.me with regs := t.me.regs,
                               pend := { s.me.pend with out := t.me.pend.out, seq := s.me.pend.seq + 1 } }
  others  : SameElsewhere s t
  tag     : t.nextTag = s.nextTag + 1
  flow    : t.flow = .seq

/-- `t` has, beyond the agenda of `s`, one step that is due `n` cycles from now. -/
def Due1 (s t : State) (n : Nat) (e : Instr) : Prop :=
  t.agenda = s.agenda ++ [{ due := s.now + n, ev := e, arg := [] }]

/-- The whole effect of a long producer whose value is known at issue and comes after `n` cycles (R20, R70). -/
def BeganFor (s t : State) (d : Reg) (k : OutKind) (n : Nat) (v : DelVal) : Prop :=
  Began s t d k ∧ Due1 s t n (.deliver s.me.id.uid s.nextTag v)
    ∧ t = { s with slots := t.slots, agenda := t.agenda, nextTag := t.nextTag, flow := .seq }

/-- The whole effect of a long producer that comes within `n` cycles, at a cycle that the spec leaves open (log 10). -/
def BeganWithin (s t : State) (d : Reg) (k : OutKind) (n : Nat) (v : DelVal) : Prop :=
  Began s t d k ∧ (∃ j, 1 ≤ j ∧ j ≤ n ∧ Due1 s t j (.deliver s.me.id.uid s.nextTag v))
    ∧ t = { s with slots := t.slots, agenda := t.agenda, nextTag := t.nextTag, tick := t.tick, flow := .seq }

/-- The whole effect of a taken jump (R85-R88): the pc, and the cycle from which the next bundle may issue. -/
def Jumped (s t : State) (pc : Word) (delay : Nat) : Prop :=
  t.me = { s.me with pc := pc, front := { s.me.front with readyAt := s.now + delay } } ∧ SameElsewhere s t
    ∧ t = { s with slots := t.slots, flow := .jump }

/-- The whole effect of a trap of class `cls`, detail `d` and value `v` in the issuing slot at TL 0 or 1 (R303, R306): the bank of the level
entered, STATUS, the pc, the cycle of the handler's first bundle. -/
structure Trapped (s t : State) (cls d : Nat) (v : Word) : Prop where
  bank   : (if s.me.status.tl = 0 then t.me.bank1 else t.me.bank2)
             = { tpc := pcOf s.me.pc,
                 tcause := BitVec.ofNat 64 ((if s.me.status.ui then 4096 else 0) + privCode s.me.status.priv * 1024 + (cls * 32 + d)),
                 tval := v, tscr := (if s.me.status.tl = 0 then s.me.bank1 else s.me.bank2).tscr }
  other  : (if s.me.status.tl = 0 then t.me.bank2 else t.me.bank1) = (if s.me.status.tl = 0 then s.me.bank2 else s.me.bank1)
  status : t.me.status = { ui := false, startclr := s.me.status.startclr,
                           priv := if s.me.status.tl = 0 ∧ s.me.status.priv ≠ .m then .s else .m, tl := s.me.status.tl + 1 }
  pc     : t.me.pc = s.me.tvec + BitVec.ofNat 64 ((if s.me.status.tl = 1 then 0x400 else 0) + 0x40 * cls)
  slot   : t.me = { s.me with bank1 := t.me.bank1, bank2 := t.me.bank2, status := t.me.status, pc := t.me.pc,
                              front := { s.me.front with readyAt := s.now + 6, fetch := none } }
  others : SameElsewhere s t
  rest   : t = { s with slots := t.slots, flow := t.flow }

/-- A core whose accesses meet memory alone: no copies of lines in any L1D, no stores in its buffer, no atomics under way, no partial results,
no melt granules and no uncorrectable data, no failed command of which a trap is owed, and no drift queue whose descriptor is being rewritten. -/
def State.plainAt (s : State) (core : Nat) : Prop :=
  s.partials = [] ∧ s.melts = [] ∧ s.replicas = [] ∧ s.badBytes = [] ∧ (s.core core).sb = []
    ∧ (∀ c ∈ s.cores, c.2.l1d = [] ∧ c.2.atomics = []) ∧ (∀ c ∈ s.cmds, c.2.owed = false)
    ∧ (∀ q ∈ s.drift.queues, q.2.old = none)

/-- The bytes of memory from a key upward. -/
def State.bytesAt (s : State) (key n : Nat) : List Byte := (List.range n).map fun k => s.mem.read (key + k)

/-- `n` bytes as a register's word: the lowest address least significant, zero- or sign-extended (R6, R92). -/
def extended (n : Nat) (sext : Bool) (l : List Byte) : Word :=
  if sext then BitVec.ofInt 64 (BitVec.ofNat (8 * n) (leNat l)).toInt else BitVec.ofNat 64 (leNat l)

/-- The effective address of a CM word (R92): base + OFF8 x size, mod 2^64. -/
def cmAddress (base : Word) (off : BitVec 8) (n : Nat) : Word := BitVec.ofInt 64 (base.toInt + off.toInt * n)

/-- The part of `t` that lies outside the caches, the slots and the agenda is that of `s`: what an access to memory leaves unchanged beside
its own effect. -/
def SameButAccess (s t : State) : Prop :=
  t = { s with slots := t.slots, cores := t.cores, clusters := t.clusters, slices := t.slices, agenda := t.agenda, torus := t.torus, nextTag := t.nextTag,
               tick := t.tick, flow := .seq }

/-- A long producer of kind `k` has begun under a tag of its own: `d` is PENDING (nothing for s0), and the step that delivers `v` into it is
due within `bound` cycles. Slots and memory are otherwise as before. -/
def BegunWithin (s t : State) (d : Reg) (k : OutKind) (bound : Nat) (v : DelVal) : Prop :=
  (d ≠ 0 → t.me.reg d = { val := s.me.val d, mark := .pending, poison := false }) ∧ SameRegsBut s t d
    ∧ (∃ tag j, s.nextTag ≤ tag ∧ tag < t.nextTag ∧ 1 ≤ j ∧ j ≤ bound
        ∧ t.me.pend.out = s.me.pend.out ++ [{ tag := tag, reg := absReg s.me.depth d, kind := k, seq := s.me.pend.seq }]
        ∧ { due := s.now + j, ev := .deliver s.me.id.uid tag v, arg := [] } ∈ t.agenda)
    ∧ t.me = { s.me with regs := t.me.regs, pend := { s.me.pend with out := t.me.pend.out, seq := s.me.pend.seq + 1 } }
    ∧ SameElsewhere s t ∧ t.flow = .seq

/-- Instruction `i`, guarded by `g`, completes as a short producer of `v` into `d` whenever its guard is true and its operands are
ready. -/
def ShortOf (i : Instr) (s : State) (g : PReg) (srcs : List Source) (d : Reg) (v : Word) : Prop :=
  s.src.pred g = true → s.ready srcs [d] false = true → ∃ t, exec i s = .next t ∧ Wrote s t d v

/-- The same for an instruction that writes a predicate. -/
def PredOf (i : Instr) (s : State) (g : PReg) (srcs : List Source) (d : PReg) (b : Bool) : Prop :=
  s.src.pred g = true → s.ready srcs [] false = true → ∃ t, exec i s = .next t ∧ WrotePred s t d b

/-- The same for a long producer of kind `k` whose value comes `n` cycles after issue. -/
def LongOf (i : Instr) (s : State) (g : PReg) (srcs : List Source) (d : Reg) (k : OutKind) (n : Nat) (v : Word) : Prop :=
  s.src.pred g = true → s.ready srcs [d] true = true → ∃ t, exec i s = .next t ∧ BeganFor s t d k n (.val v)

/-- The same for an operation of the core's divider (R71), which must be free and is then taken for `n` cycles. -/
def DividerOf (i : Instr) (s : State) (g : PReg) (srcs : List Source) (d : Reg) (n : Nat) (v : Word) : Prop :=
  s.src.pred g = true → s.ready srcs [d] true = true → (s.core s.myCore).divFree ≤ s.now →
    ∃ t, exec i s = .next t ∧ Began s t d .arith ∧ Due1 s t n (.deliver s.me.id.uid s.nextTag (.val v))
      ∧ t.core s.myCore = { s.core s.myCore with divFree := s.now + n } ∧ (∀ c, c ≠ s.myCore → t.core c = s.core c)
      ∧ t = { s with slots := t.slots, cores := t.cores, agenda := t.agenda, nextTag := t.nextTag, flow := .seq }

end Sys2Proof.Machine
end

