-- ==== Sys2Proof/Certificates/Slice0/Obligations.lean ====
section
/-! DEFINITION. The statements for the provers, family by family. `s.rd r` is the value that register `r` held when the bundle began
(R25); `s.me` is the issuing slot; the terms `Wrote`, `Began`, `Trapped` and the like are those of Safety.lean. -/

open Sys2Proof Sys2Proof.Machine

-- ==== integer operations, compares, literals (R55, R56, R72-R77, R91) ====

/-- R72 and R55: the short integer operations of two sources write the result that the table of R72 gives, and change nothing else. -/
def Obligations.IntegerPairResults : Prop :=
  ∀ (s : State) (d a b : Reg) (xa xb : Bool) (g : PReg),
    let x := s.rd a
    let y := s.rd b
    let n := y.toNat % 64
    let gives := fun (i : Instr) (v : Word) => ShortOf i s g [srcA a xa, srcB b xb] d v
    gives (.add d a b xa xb g) (BitVec.ofNat 64 (x.toNat + y.toNat))
    ∧ gives (.sub d a b xa xb g) (BitVec.ofInt 64 ((x.toNat : Int) - y.toNat))
    ∧ gives (.mul d a b xa xb g) (BitVec.ofNat 64 (x.toNat * y.toNat))
    ∧ gives (.mulh d a b xa xb g) (BitVec.ofInt 64 (x.toInt * y.toInt / 2 ^ 64))
    ∧ gives (.and d a b xa xb g) (x &&& y)
    ∧ gives (.or d a b xa xb g) (x ||| y)
    ∧ gives (.xor d a b xa xb g) (x ^^^ y)
    ∧ gives (.andn d a b xa xb g) (x &&& ~~~y)
    ∧ gives (.shl d a b xa xb g) (BitVec.ofNat 64 (x.toNat * 2 ^ n))
    ∧ gives (.shr d a b xa xb g) (BitVec.ofNat 64 (x.toNat / 2 ^ n))
    ∧ gives (.sar d a b xa xb g) (BitVec.ofInt 64 (x.toInt / 2 ^ n))
    ∧ gives (.rot d a b xa xb g) ((x <<< n) ||| (x >>> (64 - n)))
    ∧ gives (.min d a b xa xb g) (if x.toInt ≤ y.toInt then x else y)
    ∧ gives (.max d a b xa xb g) (if x.toInt ≤ y.toInt then y else x)
    ∧ gives (.minu d a b xa xb g) (if x.toNat ≤ y.toNat then x else y)
    ∧ gives (.maxu d a b xa xb g) (if x.toNat ≤ y.toNat then y else x)

/-- R72-R75 and R91: the short operations of one source, those with an immediate, SEL and the literals write their results, and change
nothing else. SEL and the immediates have no guard: SEL reads both sources whichever it selects. -/
def Obligations.IntegerUnaryResults : Prop :=
  ∀ (s : State) (d a b : Reg) (xa xb : Bool) (g p : PReg) (imm : BitVec 15) (n : BitVec 6) (l : BitVec 32),
    let x := s.rd a
    let y := s.rd b
    let gives := fun (i : Instr) (v : Word) => ShortOf i s g [srcA a xa] d v
    let always := fun (i : Instr) (v : Word) => ShortOf i s 0 [srcA a xa] d v
    gives (.clz d a xa g) (BitVec.ofNat 64 (if x = 0 then 64 else 63 - x.toNat.log2))
    ∧ gives (.popc d a xa g) (BitVec.ofNat 64 ((List.range 64).countP fun i => x.getLsbD i))
    ∧ gives (.mov d a xa g) x
    ∧ always (.addi d a xa imm) (BitVec.ofInt 64 (x.toInt + imm.toInt))
    ∧ always (.andi d a xa imm) (x &&& BitVec.ofInt 64 imm.toInt)
    ∧ always (.ori d a xa imm) (x ||| BitVec.ofInt 64 imm.toInt)
    ∧ always (.shli d a xa n) (BitVec.ofNat 64 (x.toNat * 2 ^ n.toNat))
    ∧ ShortOf (.sel d a b xa xb p) s 0 [srcA a xa, srcB b xb] d (if s.src.pred p = true then x else y)
    ∧ ShortOf (.lit d g l) s g [] d (BitVec.ofInt 64 l.toInt)
    ∧ ShortOf (.lith d g l) s g [srcPlain d] d (BitVec.ofNat 64 (l.toNat * 2 ^ 32 + (s.rd d).toNat % 2 ^ 32))

/-- R56 and R72: with a nonzero divisor and a free divider the four divisions begin a long producer whose value comes after 20 cycles. -/
def DivisionResults : Prop :=
  ∀ (s : State) (d a b : Reg) (xa xb : Bool) (g : PReg),
    let x := s.rd a
    let y := s.rd b
    let gives := fun (i : Instr) (v : Word) => y ≠ 0 → DividerOf i s g [srcA a xa, srcB b xb] d 20 v
    gives (.div d a b xa xb g) (BitVec.ofInt 64 (x.toInt.tdiv y.toInt))
    ∧ gives (.divu d a b xa xb g) (BitVec.ofNat 64 (x.toNat / y.toNat))
    ∧ gives (.rem d a b xa xb g) (BitVec.ofInt 64 (x.toInt.tmod y.toInt))
    ∧ gives (.remu d a b xa xb g) (BitVec.ofNat 64 (x.toNat % y.toNat))

/-- R56: the corner of the signed divisions: -2^63 by -1 is -2^63 with remainder 0, and neither traps. -/
def DivisionOfTheMostNegative : Prop :=
  ∀ (s : State) (d a b : Reg) (xa xb : Bool) (g : PReg),
    s.rd a = BitVec.ofInt 64 (-2 ^ 63) → s.rd b = BitVec.ofInt 64 (-1) →
      DividerOf (.div d a b xa xb g) s g [srcA a xa, srcB b xb] d 20 (BitVec.ofInt 64 (-2 ^ 63))
      ∧ DividerOf (.rem d a b xa xb g) s g [srcA a xa, srcB b xb] d 20 0

/-- R56 and R72: a zero divisor traps with class 2, detail 1, even when the divider is busy and even when D is s0, and writes nothing. -/
def DivisionByZeroTraps : Prop :=
  ∀ (s : State) (d a b : Reg) (xa xb : Bool) (g : PReg) (i : Instr),
    i ∈ [.div d a b xa xb g, .divu d a b xa xb g, .rem d a b xa xb g, .remu d a b xa xb g] →
    s.src.pred g = true → s.ready [srcA a xa, srcB b xb] [d] true = true → s.rd b = 0 → s.me.status.tl < 2 →
      ∃ t, exec i s = .next t ∧ Trapped s t 2 1 (s.rd a) ∧ t.flow = .trap

/-- R71: a division whose divider is busy does not issue: the slot is skipped and nothing changes. -/
def BusyDividerWaits : Prop :=
  ∀ (s : State) (d a b : Reg) (xa xb : Bool) (g : PReg) (i : Instr),
    i ∈ [.div d a b xa xb g, .divu d a b xa xb g, .rem d a b xa xb g, .remu d a b xa xb g, .fdiv d a b xa xb g] →
    s.src.pred g = true → s.ready [srcA a xa, srcB b xb] [d] true = true → (i = .fdiv d a b xa xb g ∨ s.rd b ≠ 0) →
    s.now < (s.core s.myCore).divFree → exec i s = .next { s with flow := .wait }

/-- R55, R56, R70, R72: the four divisions: quotients toward zero, remainders with the sign of the dividend, after 20 cycles. -/
def Obligations.DivisionsDeliverTheirResults : Prop := DivisionResults

/-- R56, R71, R72: the corners of the divisions: a zero divisor traps, -2^63 by -1 does not, and a busy divider makes a division wait. Choices of the model that it rests on: log 105. -/
def Obligations.DivisionsTrapOrWait : Prop := DivisionByZeroTraps ∧ DivisionOfTheMostNegative ∧ BusyDividerWaits

/-- R76, R77, R82: the instructions that write predicates write what their tables give and change nothing else. The operands of FCMP are
those of R69; `un` says that one of them is a NaN. -/
def Obligations.PredicateResults : Prop :=
  ∀ (s : State) (d a b : PReg) (ra rb : Reg) (xa xb : Bool) (g : PReg),
    let x := s.rd ra
    let y := s.rd rb
    let u := fin s.src.fmt x
    let v := fin s.src.fmt y
    let un := u.isNaN || v.isNaN
    let cmp := fun (c : Cond) (r : Prop) [Decidable r] => PredOf (.cmp d ra rb xa xb g c) s g [srcA ra xa, srcB rb xb] d (decide r)
    let fcmp := fun (c : FCond) (r : Bool) => PredOf (.fcmp d ra rb xa xb g c) s g [srcA ra xa, srcB rb xb] d r
    cmp .eq (x = y) ∧ cmp .ne (x ≠ y)
    ∧ cmp .lt (x.toInt < y.toInt) ∧ cmp .le (x.toInt ≤ y.toInt) ∧ cmp .gt (x.toInt > y.toInt) ∧ cmp .ge (x.toInt ≥ y.toInt)
    ∧ cmp .ltu (x.toNat < y.toNat) ∧ cmp .leu (x.toNat ≤ y.toNat) ∧ cmp .gtu (x.toNat > y.toNat) ∧ cmp .geu (x.toNat ≥ y.toNat)
    ∧ fcmp .eq (!un && u.equal v) ∧ fcmp .ne (un || !(u.equal v)) ∧ fcmp .lt (!un && u.less v)
    ∧ fcmp .le (!un && (u.less v || u.equal v)) ∧ fcmp .gt (!un && v.less u) ∧ fcmp .ge (!un && (v.less u || u.equal v))
    ∧ fcmp .un un ∧ fcmp .ord (!un)
    ∧ PredOf (.pand d a b g) s g [] d (s.src.pred a && s.src.pred b)
    ∧ PredOf (.por d a b g) s g [] d (s.src.pred a || s.src.pred b)
    ∧ PredOf (.pnot d a g) s g [] d (!s.src.pred a)

-- ==== scalar floating point (R57-R71, R78-R83) ====

/-- R69, R70, R78-R83: the floating-point operations begin a long producer whose value comes after the cycles of R70; FDIV and FSQRT need
the divider. The operands are those of R69, a NaN among them is chosen by R67 and made quiet, an invalid operation gives the core's new NaN of R66,
any other result is rounded once under FMT.RND. -/
def Obligations.FloatingPointResults : Prop :=
  ∀ (s : State) (d a b : Reg) (xa xb : Bool) (g : PReg) (k : FcvtKind) (j : IcvtKind),
    let m := s.src.fmt
    let x := fin m (s.rd a)
    let y := fin m (s.rd b)
    let z := fin m (s.rd d)
    let out := fun (ins : List FVal) (r : FRes) =>
      match nanPick ins, r with
      | some c, _ => BitVec.ofNat 64 c
      | none, none => BitVec.ofNat 64 (0x7fc00000 + s.myCore % 2048 * 2048 + 0x7ff)
      | none, some v => BitVec.ofNat 64 (v.to32 (fmtRnd m)).code
    let pair := [srcA a xa, srcB b xb]
    LongOf (.fadd d a b xa xb g) s g pair d .arith 4 (out [x, y] (x.add (fmtRnd m) y))
    ∧ LongOf (.fsub d a b xa xb g) s g pair d .arith 4 (out [x, y] (x.add (fmtRnd m) y.negate))
    ∧ LongOf (.fmul d a b xa xb g) s g pair d .arith 4 (out [x, y] (x.mul y))
    ∧ LongOf (.ffma d a b xa xb g) s g [srcA a xa, srcB b xb, srcPlain d] d .arith 4 (out [x, y, z] ((x.mul y).bind fun p => p.add (fmtRnd m) z))
    ∧ DividerOf (.fdiv d a b xa xb g) s g pair d 12 (out [x, y] (x.div y))
    ∧ DividerOf (.fsqrt d a xa g) s g [srcA a xa] d 14 (out [x] x.sqrt)
    ∧ LongOf (.fmin d a b xa xb g) s g pair d .arith 4
        (match nanPick [x, y] with
         | some c => BitVec.ofNat 64 c
         | none => BitVec.ofNat 64 (finCode m (if y.below x = true then s.rd b else s.rd a)))
    ∧ LongOf (.fmax d a b xa xb g) s g pair d .arith 4
        (match nanPick [x, y] with
         | some c => BitVec.ofNat 64 c
         | none => BitVec.ofNat 64 (finCode m (if x.below y = true then s.rd b else s.rd a)))
    ∧ LongOf (.fsgn d a b xa xb g) s g pair d .arith 2
        (BitVec.ofNat 64 ((s.rd b).toNat / 2 ^ 31 % 2 * 2 ^ 31 + (s.rd a).toNat % 2 ^ 31))
    ∧ LongOf (.fclass d a xa g) s g [srcA a xa] d .arith 2 (BitVec.ofNat 64 (2 ^ fclassBit ((s.rd a).toNat % 2 ^ 32)))
    ∧ LongOf (.fcvt d a k xa g) s g [srcA a xa] d .arith 3 (fcvtResult m k (s.rd a))
    ∧ LongOf (.icvt d a j xa g) s g [srcA a xa] d .arith 3
        (BitVec.ofNat 64 (fp32.round (fmtRnd m) (Exact.ofInt (icvtSource j (s.rd a)))).code)

/-- R58 and R60: rounding a finite value of FP32, BF16, FP16, E5M2 or E4M3 to its own format gives its code back, in every rounding mode, and is exact. -/
def Obligations.RoundingKeepsRepresentableValues : Prop :=
  ∀ (f : FFmt) (rnd code : Nat) (x : Exact), f ∈ [fp32, bf16, fp16, e5m2, e4m3] → code < 2 ^ (f.width + 1) → f.value code = .num x →
    f.round rnd x = { code := code, overflow := false, tiny := false, inexact := false }

-- ==== guards and empty sources (R23, R24, R26) ====

/-- R26: an instruction whose guard is false has no effect: it writes nothing, marks nothing empty, and its sources neither wait nor trap.
A RET is among them but at depth 0, where it traps whatever its guard (R39, R89). The instructions of a feature are among them where the driver has accepted it (R427). -/
def Obligations.FalseGuardHasNoEffect : Prop :=
  ∀ (s : State) (g : PReg) (d a b : Reg) (h : HReg) (p q : PReg) (x y : Bool) (ix : BitVec 5) (l : BitVec 32) (sz : WSize) (sc : Scope)
    (m : TMode) (op : RedOp) (k : TlbKind) (cc : Cond) (fc : FCond) (fk : FcvtKind) (ik : IcvtKind) (w : BitVec 2) (r : BitVec 3)
    (n : BitVec 4) (i : Instr),
    s.src.pred g = false →
    i ∈ ([.jmpr a x g, .callr a x g, .lit d g l, .lith d g l, .mfs d ix g, .mts ix a x g, .fence g sc, .ifence g, .cflush a x g sc,
          .cinv a x g sc, .red op a b x y g sz sc, .cas d a b x y g sz sc, .amoAdd d a b x y g sz sc, .amoSwap d a b x y g sz sc,
          .amoAnd d a b x y g sz sc, .amoOr d a b x y g sz sc, .amoXor d a b x y g sz sc, .amoMin d a b x y g sz sc,
          .amoMax d a b x y g sz sc, .tdep d h b x y g m, .trd d h b x y g m, .ttake d h b x y g m, .tcancel d h x g, .mint d b g,
          .mintC d a x g, .land d a b x y g sc, .unmint d a x g, .fillm a b x y g l, .ldM d a b x y g, .meltq d a x g,
          .spawn d a b x y g n, .exit g, .yield g, .suspend a x g, .barset a b x y g sc, .bar a x g sc, .barq d a x g sc, .setpri a x g,
          .trap ix g, .rett g, .uiret g, .tlbinv a b x y g k, .tlbprobe d a x g, .ctxsave d a x g, .ctxload d a x g, .halt g] : List Instr)
      ++ [.add d a b x y g, .sub d a b x y g, .mul d a b x y g, .mulh d a b x y g, .div d a b x y g, .divu d a b x y g,
          .rem d a b x y g, .remu d a b x y g, .and d a b x y g, .or d a b x y g, .xor d a b x y g, .andn d a b x y g,
          .shl d a b x y g, .shr d a b x y g, .sar d a b x y g, .rot d a b x y g, .clz d a x g, .popc d a x g, .min d a b x y g,
          .max d a b x y g, .minu d a b x y g, .maxu d a b x y g, .mov d a x g, .cmp p a b x y g cc, .pand p q q g, .por p q q g,
          .pnot p q g, .fadd d a b x y g, .fsub d a b x y g, .fmul d a b x y g, .fdiv d a b x y g, .fsqrt d a x g, .fmin d a b x y g,
          .fmax d a b x y g, .fsgn d a b x y g, .fclass d a x g, .fcvt d a fk x g, .icvt d a ik x g, .ffma d a b x y g,
          .fcmp p a b x y g fc, .hset h a w x g, .hget d h w x g, .rset r a x g, .rpush r g, .lease ix g, .unlease g,
          .engstat d a b x y g, .resume a b x y g]
      ++ (if s.me.depth ≠ 0 then [.ret g] else [])
      ++ (if s.plat.drvfeat.getLsbD 3 then [.ffence d a b x y g sc] else [])
      ++ (if s.plat.drvfeat.getLsbD 4 then [.xpost d a b x y g, .xflush d a x g, .xwait d a b x y g] else [])
      ++ (if s.plat.drvfeat.getLsbD 5 then [.pealLoad d a x g, .pealRun d a b x y g, .pealWait d a x g] else [])
      ++ (if s.plat.drvfeat.getLsbD 6 then [.calve d a x g] else [])
      ++ (if s.plat.drvfeat.getLsbD 7 then [.foldset a x g] else []) →
    exec i s = .next { s with flow := .seq }

/-- R23 and R24: a source that is not FULL and whose X-bit is 1 makes a two-source integer or floating-point operation trap with class 1: the
detail is that of the lowest such field and TVAL is its register; X-bits of 0 make it wait instead, and a full pair does neither. -/
def Obligations.EmptySourcesTrapOrWait : Prop :=
  ∀ (s : State) (d a b : Reg) (xa xb : Bool) (g : PReg) (i : Instr),
    i ∈ [.add d a b xa xb g, .sub d a b xa xb g, .mul d a b xa xb g, .mulh d a b xa xb g, .div d a b xa xb g, .divu d a b xa xb g,
         .rem d a b xa xb g, .remu d a b xa xb g, .and d a b xa xb g, .or d a b xa xb g, .xor d a b xa xb g, .andn d a b xa xb g,
         .shl d a b xa xb g, .shr d a b xa xb g, .sar d a b xa xb g, .rot d a b xa xb g, .min d a b xa xb g, .max d a b xa xb g,
         .minu d a b xa xb g, .maxu d a b xa xb g, .fadd d a b xa xb g, .fsub d a b xa xb g, .fmul d a b xa xb g, .fdiv d a b xa xb g,
         .fmin d a b xa xb g, .fmax d a b xa xb g, .fsgn d a b xa xb g] →
    s.src.pred g = true → s.owedRead [srcA a xa, srcB b xb] = none →
    ((s.src.reg a).mark ≠ .full → xa = true → s.me.status.tl < 2 →
        ∃ t, exec i s = .next t ∧ Trapped s t 1 0 (BitVec.ofNat 64 a.toNat) ∧ t.flow = .trapX)
    ∧ (((s.src.reg a).mark = .full ∨ xa = false) → (s.src.reg b).mark ≠ .full → xb = true → s.me.status.tl < 2 →
        ∃ t, exec i s = .next t ∧ Trapped s t 1 1 (BitVec.ofNat 64 b.toNat) ∧ t.flow = .trapX)
    ∧ (((s.src.reg a).mark ≠ .full ∨ (s.src.reg b).mark ≠ .full) → ((s.src.reg a).mark = .full ∨ xa = false) →
        ((s.src.reg b).mark = .full ∨ xb = false) → exec i s = .next { s with flow := .wait })

-- ==== control flow and windows (R13-R17, R84-R90) ====

/-- R42, R85, R86: BR and JMP, and a CALL that is not taken. The fetcher expects the fall-through for BR and the target for JMP and CALL; on
the other path the next bundle is ready after 3 cycles instead of 1. Choices of the model that it rests on: log 139. -/
def Obligations.BranchesGoWhereTheySay : Prop :=
  ∀ (s : State) (p : PReg) (n : Bool) (off : BitVec 20),
    let taken := s.src.pred p != n
    let target := BitVec.ofInt 64 (s.me.pc.toInt + 8 * off.toInt)
    (∃ t, exec (.br p n off) s = .next t ∧ Jumped s t (if taken then target else s.me.pc + 8) (if taken then 3 else 1))
    ∧ (∃ t, exec (.jmp p n off) s = .next t ∧ Jumped s t (if taken then target else s.me.pc + 8) (if taken then 1 else 3))
    ∧ (taken = false → ∃ t, exec (.call p n off) s = .next t ∧ Jumped s t (s.me.pc + 8) 3)
    ∧ exec .cnop s = .next { s with flow := .seq }

/-- What a call does that finds a free physical frame (R13, R87): the frame depth rises by one, the hidden return address is that of the
next bundle, the callee's s8-s15 are the caller's s24-s31, its s16-s31 are IDLE, s1-s7 stay; only the names and the outstanding producers of
registers of no frame of the strand, which designate none from then on, are touched beside them. -/
def Called (s t : State) (target : Word) (delay : Nat) : Prop :=
  t.me.depth = s.me.depth + 1 ∧ t.me.pc = target ∧ t.me.front = { s.me.front with readyAt := s.now + delay }
    ∧ t.me.rets.get ⟨(s.me.depth + 1) % 4, Nat.mod_lt _ (by decide)⟩ = s.me.pc + 8
    ∧ (∀ k : Fin 4, k.val ≠ (s.me.depth + 1) % 4 → t.me.rets.get k = s.me.rets.get k)
    ∧ (∀ n : Reg, n.toNat < 8 → t.me.reg n = s.me.reg n)
    ∧ (∀ n : Reg, 8 ≤ n.toNat → n.toNat < 16 → t.me.reg n = s.me.reg (n + 16))
    ∧ (∀ n : Reg, 16 ≤ n.toNat → t.me.reg n = { val := 0, mark := .idle, poison := false })
    ∧ t.me = { s.me with regs := t.me.regs, rets := t.me.rets, depth := t.me.depth, pc := t.me.pc, front := t.me.front,
                         pend := { s.me.pend with out := t.me.pend.out } }
    ∧ t.me.pend.out = s.me.pend.out.map (fun o => if 16 * s.me.depth + 32 ≤ o.reg then { o with reg := 0 } else o)
    ∧ (∀ c i, let e := s.mintEntry c i
        t.mintEntry c i = if e.state = .reg ∧ e.uid = s.me.id.uid ∧ 16 * s.me.depth + 32 ≤ e.reg then { e with reg := 0 } else e)
    ∧ (∀ c, t.core c = { s.core c with mint := (t.core c).mint })
    ∧ SameElsewhere s t ∧ t = { s with slots := t.slots, cores := t.cores, flow := .jump }

/-- R13, R87, R88: a taken CALL and a CALLR whose target is an aligned address below 2^63 make a frame, if a physical frame is free; the
CALL's target is ready after 1 cycle, the CALLR's after 3. -/
def Obligations.CallsMakeAFrame : Prop :=
  ∀ (s : State) (p g : PReg) (n xa : Bool) (off : BitVec 20) (a : Reg),
    s.me.depth + 1 < s.me.oldest + 4 →
    ((s.src.pred p != n) = true →
        ∃ t, exec (.call p n off) s = .next t ∧ Called s t (BitVec.ofInt 64 (s.me.pc.toInt + 8 * off.toInt)) 1)
    ∧ (s.src.pred g = true → s.ready [srcA a xa] [] false = true → (s.rd a).toNat < 2 ^ 63 → (s.rd a).toNat % 8 = 0 →
        ∃ t, exec (.callr a xa g) s = .next t ∧ Called s t (s.rd a) 3)

/-- R14, R17, R87: a call that finds no free physical frame waits, once a spill is asked for, which takes 5 cycles and at most 50 where others use the core's banks (log 115), as long as the window-store
share has room for one more frame; otherwise it traps with class 3, detail 14, at the local address where the frame would have begun. -/
def Obligations.CallsSpillOrOverflow : Prop :=
  ∀ (s : State) (p : PReg) (n : Bool) (off : BitVec 20),
    (s.src.pred p != n) = true → s.me.oldest + 4 ≤ s.me.depth + 1 → s.me.oldest ≤ s.me.depth →
    (s.me.share / 144 < s.me.oldest + 1 → s.me.status.tl < 2 →
        ∃ t, exec (.call p n off) s = .next t ∧ t.flow = .trap
          ∧ Trapped s t 3 14 (BitVec.ofNat 64 (31 * 2 ^ 22 + 2 ^ 20 + (s.me.shareBase + 144 * s.me.oldest) % 2 ^ 20)))
    ∧ (s.me.oldest + 1 ≤ s.me.share / 144 → s.me.front.moving = true → exec (.call p n off) s = .next { s with flow := .wait })
    ∧ (s.me.oldest + 1 ≤ s.me.share / 144 → s.me.front.moving = false →
        ∃ t j, exec (.call p n off) s = .next t ∧ 5 ≤ j ∧ j ≤ 50 ∧ (s.moveShared = false → j = 5) ∧ Due1 s t j (.windowSpill s.cur)
          ∧ t.me = { s.me with front := { s.me.front with moving := true } } ∧ t.flow = .wait ∧ SameElsewhere s t)

/-- R13, R14, R45, R88, R89: the computed jumps. A RET at depth 0 traps as an illegal instruction with its own word, whatever its guard;
otherwise, if the caller's frame is resident, it goes to the frame's hidden return address and moves the window back, and no register changes; if it
is not, RET waits and asks for the frame's fill. JMPR goes to its register. -/
def ReturnsAndComputedJumps : Prop :=
  ∀ (s : State) (g : PReg) (a : Reg) (xa : Bool),
    (s.me.depth = 0 → s.me.status.tl < 2 → ∃ t, exec (.ret g) s = .next t ∧ Trapped s t 0 7 s.issuedWord ∧ t.flow = .trapX)
    ∧ (s.src.pred g = true → s.me.oldest < s.me.depth →
        ∃ t, exec (.ret g) s = .next t
          ∧ t.me = { s.me with depth := s.me.depth - 1, pc := s.me.rets.get ⟨s.me.depth % 4, Nat.mod_lt _ (by decide)⟩,
                               front := { s.me.front with readyAt := s.now + 3 } }
          ∧ SameElsewhere s t ∧ t = { s with slots := t.slots, flow := .jump })
    ∧ (s.src.pred g = true → s.me.depth ≠ 0 → s.me.depth ≤ s.me.oldest →
        (s.me.front.moving = true → exec (.ret g) s = .next { s with flow := .wait })
        ∧ (s.me.front.moving = false →
            ∃ t j, exec (.ret g) s = .next t ∧ 5 ≤ j ∧ j ≤ 50 ∧ (s.moveShared = false → j = 5) ∧ Due1 s t j (.windowFill s.cur)
              ∧ t.me = { s.me with front := { s.me.front with moving := true } } ∧ t.flow = .wait ∧ SameElsewhere s t))
    ∧ (s.src.pred g = true → s.ready [srcA a xa] [] false = true → (s.rd a).toNat < 2 ^ 63 → (s.rd a).toNat % 8 = 0 →
        ∃ t, exec (.jmpr a xa g) s = .next t ∧ Jumped s t (s.rd a) 3)

/-- R88: JMPR and CALLR check their target before anything changes: bit 63 first, then alignment, both as a fetch (class 3, kind 2). -/
def ComputedTargetsAreChecked : Prop :=
  ∀ (s : State) (g : PReg) (a : Reg) (xa : Bool) (i : Instr), i ∈ [.jmpr a xa g, .callr a xa g] →
    s.src.pred g = true → s.ready [srcA a xa] [] false = true → s.me.status.tl < 2 →
    (2 ^ 63 ≤ (s.rd a).toNat → ∃ t, exec i s = .next t ∧ Trapped s t 3 17 (s.rd a) ∧ t.flow = .trap)
    ∧ ((s.rd a).toNat < 2 ^ 63 → (s.rd a).toNat % 8 ≠ 0 → ∃ t, exec i s = .next t ∧ Trapped s t 3 16 (s.rd a) ∧ t.flow = .trap)

/-- R13, R14, R88, R89: RET, JMPR and CALLR go where they say, and trap where they say, before anything changes. -/
def Obligations.ReturnsAndComputedTargets : Prop := ReturnsAndComputedJumps ∧ ComputedTargetsAreChecked

/-- R14-R16: a spill moves the oldest resident frame into the window stack, and a fill that follows brings it back: every one of its sixteen
registers has the value and the mark, and the frame the return address, that it had. -/
def Obligations.SpillThenFillRestoresTheFrame : Prop :=
  ∀ (s : State) (i : Nat),
    let t := s.slot i
    let f := t.oldest
    s.mem.wf = true → t.front.moving = true → t.phase = .live →
    ∃ u v, exec (.windowSpill i) s = .next u ∧ (u.slot i).oldest = f + 1 ∧ (u.slot i).front.moving = false
      ∧ (u.slot i).regs = t.regs ∧ (u.slot i).rets = t.rets
      ∧ (∀ a, (a < poolKey (coreOf i) (t.spillAt f) ∨ poolKey (coreOf i) (t.spillAt f) + 144 ≤ a) → u.mem.read a = s.mem.read a)
      ∧ (∀ j, j ≠ i → u.slot j = s.slot j)
      ∧ exec (.windowFill i) (u.modSlot i fun t => { t with front := { t.front with moving := true } }) = .next v
      ∧ (v.slot i).oldest = f ∧ (v.slot i).front.moving = false ∧ (∀ a, v.mem.read a = u.mem.read a)
      ∧ (∀ k, k < 16 → ((v.slot i).regs.get (physAbs (8 + 16 * f + k))).val = (t.regs.get (physAbs (8 + 16 * f + k))).val)
      ∧ (∀ k, k < 16 → ((v.slot i).regs.get (physAbs (8 + 16 * f + k))).mark = (t.regs.get (physAbs (8 + 16 * f + k))).mark)
      ∧ (∀ r : Fin 80, (∀ k, k < 16 → r ≠ physAbs (8 + 16 * f + k)) → (v.slot i).regs.get r = t.regs.get r)
      ∧ (v.slot i).rets = t.rets

-- ==== special registers (R27-R34, R97, R302, R339, R354) ====

/-- R27-R34, R96: MFS reads the register that its index names, at or above the register's privilege; CID is the core's own number, STATUS and
SID are composed of their fields, MSGOUT reads zero. -/
def Obligations.SpecialRegistersRead : Prop :=
  ∀ (s : State) (d : Reg) (g : PReg), s.src.status.tl ≤ 2 → s.src.id.ctx < 65536 → s.myCore < 2048 → s.plat.device < 32768 →
    let t := s.src
    let reads := fun (ix : BitVec 5) (p : Priv) (v : Word) => privGe s.me.status.priv p = true → ShortOf (.mfs d ix g) s g [] d v
    reads 0 .u t.pc ∧ reads 1 .u (t.pw.setWidth 64) ∧ reads 2 .u (t.fmt.setWidth 64)
    ∧ reads 3 .u (BitVec.ofNat 64 ((if t.status.ui then 32 else 0) + (if t.status.startclr then 16 else 0)
        + (match t.status.priv with | .u => 0 | .s => 1 | .m => 3) * 4 + t.status.tl))
    ∧ reads 4 .u (BitVec.ofNat 64 (t.id.ctx * 2 ^ 32 + t.id.strand.toNat))
    ∧ reads 5 .u (BitVec.ofNat 64 (s.plat.device * 2 ^ 11 + s.myCore))
    ∧ reads 6 .u (t.pri.setWidth 64) ∧ reads 7 .u t.id.seg ∧ reads 8 .u t.msgdst ∧ reads 9 .u 0 ∧ reads 11 .u t.msgsrc
    ∧ reads 12 .s t.tvec ∧ reads 13 .s t.bank1.tpc ∧ reads 14 .s t.bank1.tcause ∧ reads 15 .s t.bank1.tval ∧ reads 16 .s t.bank1.tscr
    ∧ reads 17 .m t.bank2.tpc ∧ reads 18 .m t.bank2.tcause ∧ reads 19 .m t.bank2.tval ∧ reads 20 .m t.bank2.tscr
    ∧ reads 21 .u t.uint.uhvec ∧ reads 22 .u t.uint.uhpc ∧ reads 23 .s s.plat.devfeat ∧ reads 24 .s s.plat.drvfeat

/-- R27-R34, R302, R339, R354, R426: MTS and SETPRI write the register that they name, at or above its privilege and with a value that the
register takes, and change nothing else. -/
def Obligations.SpecialRegistersWrite : Prop :=
  ∀ (s : State) (a : Reg) (xa : Bool) (g : PReg),
    s.src.pred g = true → s.ready [srcA a xa] [] false = true →
    let v := s.rd a
    let n := v.toNat
    let sets := fun (i : Instr) (p : Priv) (ok : Prop) (f : Slot → Slot) => privGe s.me.status.priv p = true → ok →
      ∃ t, exec i s = .next t ∧ t.me = f s.me ∧ SameElsewhere s t ∧ t = { s with slots := t.slots, flow := .seq }
    let writes := fun (ix : BitVec 5) (p : Priv) (ok : Prop) (f : Slot → Slot) => sets (.mts ix a xa g) p ok f
    writes 1 .u (n < 256) (fun t => { t with pw := BitVec.ofNat 8 n ||| 1 })
    ∧ writes 2 .u (n < 16) (fun t => { t with fmt := BitVec.ofNat 4 n })
    ∧ writes 6 .u (n < 16) (fun t => { t with pri := BitVec.ofNat 4 n })
    ∧ sets (.setpri a xa g) .u (n < 16) (fun t => { t with pri := BitVec.ofNat 4 n })
    ∧ writes 7 .s (n < 2 ^ 44 ∧ n / 2 ^ 18 % 64 + n / 2 ^ 12 % 64 ≤ 48 ∧ n / 2 ^ 30 % 64 + n / 2 ^ 24 % 64 ≤ 48
        ∧ n / 2 ^ 6 % 64 + n % 64 ≤ 48) (fun t => { t with id := { t.id with seg := v } })
    ∧ writes 8 .u (n < 2 ^ 26 ∧ n / 2 ^ 11 = s.plat.device ∧ n % 32 < 24
        ∧ (s.part s.me.id.part).quanta.getLsbD (n / 32 % 64) = true) (fun t => { t with msgdst := v })
    ∧ writes 12 .s (n < 2 ^ 63 ∧ n % 2048 = 0) (fun t => { t with tvec := v })
    ∧ writes 13 .s (n < 2 ^ 63 ∧ n % 8 = 0) (fun t => { t with bank1 := { t.bank1 with tpc := v } })
    ∧ writes 14 .s (n < 2 ^ 13 ∧ n / 2 ^ 9 % 2 = 0 ∧ n / 2 ^ 10 % 4 ≠ 2) (fun t => { t with bank1 := { t.bank1 with tcause := v } })
    ∧ writes 15 .s True (fun t => { t with bank1 := { t.bank1 with tval := v } })
    ∧ writes 16 .s True (fun t => { t with bank1 := { t.bank1 with tscr := v } })
    ∧ writes 17 .m (n < 2 ^ 63 ∧ n % 8 = 0) (fun t => { t with bank2 := { t.bank2 with tpc := v } })
    ∧ writes 18 .m (n < 2 ^ 13 ∧ n / 2 ^ 9 % 2 = 0 ∧ n / 2 ^ 10 % 4 ≠ 2) (fun t => { t with bank2 := { t.bank2 with tcause := v } })
    ∧ writes 19 .m True (fun t => { t with bank2 := { t.bank2 with tval := v } })
    ∧ writes 20 .m True (fun t => { t with bank2 := { t.bank2 with tscr := v } })
    ∧ writes 21 .u (n < 2 ^ 63 ∧ n % 8 = 0) (fun t => { t with uint := { t.uint with uhvec := v } })
    ∧ (s.me.status.priv = .m → n < 2 ^ 9 → v &&& ~~~s.plat.devfeat = 0 → s.featuresLocked = false →
        exec (.mts 24 a xa g) s = .next { s with plat := { s.plat with drvfeat := v }, flow := .seq })

/-- R27, R302, R339, R354, R426: an MFS or MTS below a register's privilege, an MTS of a register that nobody writes, and an MTS or SETPRI of a value
that has a zero field nonzero or that the register refuses trap with class 9 and leave the register as it was: SEG with a region beyond the pool,
TVEC and the trap bank with a pc that is none or a TCAUSE of no privilege, DRVFEAT while it is locked or with a bit that DEVFEAT clears among them. -/
def Obligations.SpecialRegisterRefusalsTrap : Prop :=
  ∀ (s : State) (d a : Reg) (xa : Bool) (g : PReg) (ix : BitVec 5),
    let n := (s.rd a).toNat
    s.src.pred g = true → s.me.status.tl < 2 →
    ((ix ∈ [12, 13, 14, 15, 16, 23, 24] ∧ s.me.status.priv = .u ∨ ix ∈ [17, 18, 19, 20] ∧ s.me.status.priv ≠ .m) →
      s.ready [] [d] false = true → ∃ t, exec (.mfs d ix g) s = .next t ∧ Trapped s t 9 0 (BitVec.ofNat 64 ix.toNat) ∧ t.flow = .trap)
    ∧ (s.ready [srcA a xa] [] false = true →
        ((ix ∈ [7, 12, 13, 14, 15, 16] ∧ s.me.status.priv = .u ∨ ix ∈ [17, 18, 19, 20, 24] ∧ s.me.status.priv ≠ .m
            ∨ ix ∈ [0, 3, 4, 5, 10, 11, 22, 23]) →
          ∃ t, exec (.mts ix a xa g) s = .next t ∧ Trapped s t 9 1 (BitVec.ofNat 64 ix.toNat) ∧ t.flow = .trap)
        ∧ ((ix = 1 ∧ 256 ≤ (s.rd a).toNat ∨ (ix = 2 ∨ ix = 6) ∧ 16 ≤ (s.rd a).toNat ∨ ix = 8 ∧ 2 ^ 26 ≤ (s.rd a).toNat
            ∨ ix = 21 ∧ (2 ^ 63 ≤ (s.rd a).toNat ∨ (s.rd a).toNat % 8 ≠ 0)
            ∨ s.me.status.priv ≠ .u ∧ (ix = 7 ∧ (2 ^ 44 ≤ n ∨ 48 < n / 2 ^ 18 % 64 + n / 2 ^ 12 % 64 ∨ 48 < n / 2 ^ 30 % 64 + n / 2 ^ 24 % 64
                  ∨ 48 < n / 2 ^ 6 % 64 + n % 64)
                ∨ ix = 12 ∧ (2 ^ 63 ≤ n ∨ n % 2048 ≠ 0) ∨ ix = 13 ∧ (2 ^ 63 ≤ n ∨ n % 8 ≠ 0)
                ∨ ix = 14 ∧ (2 ^ 13 ≤ n ∨ n / 2 ^ 9 % 2 = 1 ∨ n / 2 ^ 10 % 4 = 2))
            ∨ s.me.status.priv = .m ∧ (ix = 17 ∧ (2 ^ 63 ≤ n ∨ n % 8 ≠ 0) ∨ ix = 18 ∧ (2 ^ 13 ≤ n ∨ n / 2 ^ 9 % 2 = 1 ∨ n / 2 ^ 10 % 4 = 2)
                ∨ ix = 24 ∧ (2 ^ 9 ≤ n ∨ s.rd a &&& ~~~s.plat.devfeat ≠ 0 ∨ s.featuresLocked = true))) →
          ∃ t, exec (.mts ix a xa g) s = .next t ∧ Trapped s t 9 2 (s.rd a) ∧ t.flow = .trap)
        ∧ (16 ≤ n → ∃ t, exec (.setpri a xa g) s = .next t ∧ Trapped s t 9 2 (s.rd a) ∧ t.flow = .trap))

-- ==== traps and returns (R303-R308, R343-R346, R353, R432) ====

/-- R303, R306, R344: TRAP n takes a trap of class 9, detail 16 + n. -/
def TrapInstructionTraps : Prop :=
  ∀ (s : State) (n : BitVec 5) (g : PReg), s.src.pred g = true → s.me.status.tl < 2 →
    ∃ t, exec (.trap n g) s = .next t ∧ Trapped s t 9 (16 + n.toNat) 0 ∧ t.flow = .trap

/-- R305, R306, R345: RETT at TL n restores the pc, privilege and UI of bank n, which keeps its values; the next bundle is ready after 3
cycles, and a wait that the trap had set aside goes on (R389). At TL 0 it traps with class 9, detail 5. -/
def TrapReturnRestores : Prop :=
  ∀ (s : State) (g : PReg), s.src.pred g = true →
    (s.me.status.tl = 1 ∨ s.me.status.tl = 2 →
      let b := if s.me.status.tl = 1 then s.me.bank1 else s.me.bank2
      let p := b.tcause.toNat / 2 ^ 10 % 4
      ∃ t, exec (.rett g) s = .next t
        ∧ t.me = { s.me with pc := pcOf b.tpc,
                             status := { s.me.status with tl := s.me.status.tl - 1, ui := b.tcause.getLsbD 12,
                                                          priv := if p = 0 then .u else if p = 1 then .s else .m },
                             front := { s.me.front with readyAt := s.now + 3, fetch := none, wait := s.me.front.held.get s.me.front.wait s.me.status.tl,
                                                        held := s.me.front.held.del s.me.status.tl } }
        ∧ SameElsewhere s t ∧ t = { s with slots := t.slots, flow := .jump })
    ∧ (s.me.status.tl = 0 → ∃ t, exec (.rett g) s = .next t ∧ Trapped s t 9 5 0 ∧ t.flow = .trap)

/-- R303, R305: a trap and the return from it leave the strand as it was, but for the bank that the trap wrote, the fetch block and the
cycle of the next bundle; the pc must be one that R28 allows. -/
def TrapThenReturnIsTheIdentity : Prop :=
  ∀ (t : Slot) (cls d : Nat) (v : Word), t.status.tl < 2 → pcOf t.pc = t.pc → cls < 16 → d < 32 →
    (t.enterTrap cls (cls * 32 + d) v).leaveTrap
      = { t with bank1 := if t.status.tl = 0 then (t.enterTrap cls (cls * 32 + d) v).bank1 else t.bank1,
                 bank2 := if t.status.tl = 0 then t.bank2 else (t.enterTrap cls (cls * 32 + d) v).bank2 }

/-- R303, R308: a trap at TL 2 kills the context: it is dead, the kill record holds reason 1, the code and TVAL of the trap and the strand's
identity, and the kill runs; the slot keeps its state. -/
def TrapAtLevelTwoKills : Prop :=
  ∀ (s : State) (n : BitVec 5) (g : PReg), s.src.pred g = true → s.me.status.tl = 2 →
    let k := contextKey s.me.id.part s.me.id.ctx
    ∃ t r, exec (.trap n g) s = .next t ∧ (t.context k).dead = true ∧ (t.context k).kill = some r
      ∧ r.reason = 1 ∧ r.code = 9 * 32 + (16 + n.toNat) ∧ r.tval = 0 ∧ r.pc = s.me.pc ∧ r.tpc1 = s.me.bank1.tpc ∧ r.tpc2 = s.me.bank2.tpc
      ∧ Due1 s t 0 (.ctxkill s.me.id.part s.me.id.ctx) ∧ (∀ i, t.slot i = s.slot i) ∧ (∀ a, t.mem.read a = s.mem.read a)
      ∧ (∀ j, j ≠ k → t.context j = s.context j)

/-- R45: a malformed bundle traps with class 0, detail W x 16 + reason, and TVAL the offending word. -/
def IllegalInstructionTraps : Prop :=
  ∀ (s : State) (detail : BitVec 5) (word : BitVec 32), s.me.status.tl < 2 →
    ∃ t, exec (.illegalInstruction detail word) s = .next t ∧ Trapped s t 0 detail.toNat (BitVec.ofNat 64 word.toNat) ∧ t.flow = .trapX

/-- R353, R432: HALT at M parks its slot, but where a wake event has come in the same cycle; WAKE of its core and slot ends the parking;
nothing else changes. Below M, HALT traps with class 9, detail 4. -/
def Obligations.HaltParksAndWakeEnds : Prop :=
  ∀ (s : State) (g : PReg),
    (s.src.pred g = true → s.me.status.priv = .m →
      ∃ t, exec (.halt g) s = .next t ∧ t.me = { s.me with front := { s.me.front with halted := s.me.front.woken != s.now + 1 } }
        ∧ SameElsewhere s t ∧ t = { s with slots := t.slots, flow := .seq })
    ∧ (s.src.pred g = true → s.me.status.priv ≠ .m → s.me.status.tl < 2 →
        ∃ t, exec (.halt g) s = .next t ∧ Trapped s t 9 4 0 ∧ t.flow = .trap)
    ∧ ∃ t, exec .wake s = .next t ∧ (let i := s.argAt 0 * 8 + s.argAt 1
        (t.slot i = { s.slot i with front := { (s.slot i).front with halted := false, woken := s.now + 1 } }
          ∨ (s.slot i = Slot.empty ∧ t.slot i = s.slot i)) ∧ (∀ j, j ≠ i → t.slot j = s.slot j))
        ∧ t = { s with slots := t.slots }

/-- R247, R346: a pending completion interrupt at TL 0 enters the handler: s1-s3 and PW go to the shadow copies, s1 holds the value, s2 the
target, s3 whether one was dropped; UHPC holds the pc, the pc is UHVEC, UI is set. -/
def InterruptEntersItsHandler : Prop :=
  ∀ (s : State) (i : Nat) (v tg : Word) (rest : List (Word × Word)),
    let u := s.slot i
    u.uint.pending = (v, tg) :: rest → u.status.tl = 0 → u.status.ui = false → u.phase = .live →
    ∃ t, exec (.userInterruptEntry i) s = .next t
      ∧ (t.slot i).reg 1 = { val := v, mark := .full, poison := false } ∧ (t.slot i).reg 2 = { val := tg, mark := .full, poison := false }
      ∧ (t.slot i).reg 3 = { val := if u.uint.dropped then 1 else 0, mark := .full, poison := false }
      ∧ (∀ r : Fin 80, (r.val = 0 ∨ 4 ≤ r.val) → (t.slot i).regs.get r = u.regs.get r)
      ∧ (t.slot i).uint = { uhvec := u.uint.uhvec, uhpc := pcOf u.pc, pending := rest, dropped := false,
                            shadow := { s1 := u.reg 1, s2 := u.reg 2, s3 := u.reg 3, pw := u.pw } }
      ∧ (t.slot i).pc = pcOf u.uint.uhvec ∧ (t.slot i).status = { u.status with ui := true } ∧ (t.slot i).pw = u.pw
      ∧ t.slot i = { u with
          regs := (t.slot i).regs, uint := (t.slot i).uint, pc := (t.slot i).pc, status := (t.slot i).status
          front := { u.front with
            readyAt := s.now + 1, fetch := none, wait := .none, halted := false
            held := if u.front.wait = .none then u.front.held else u.front.held.set 0 u.front.wait } }
      ∧ (∀ c, t.core c = { s.core c with mint := (t.core c).mint }) ∧ (∀ j, j ≠ i → t.slot j = s.slot j) ∧ t = { s with slots := t.slots, cores := t.cores }

/-- R247, R346: UIRET in a handler, none of s1-s3 PENDING, takes s1-s3 and PW back from the shadow copies, each FULL, and goes on at UHPC;
outside a handler it traps with class 9, detail 6. -/
def HandlerReturnRestores : Prop :=
  ∀ (s : State) (g : PReg), s.src.pred g = true →
    let h := s.me.uint.shadow
    (s.me.status.ui = true → (∀ n : Reg, n ∈ [1, 2, 3] → (s.src.reg n).mark ≠ .pending) →
      ∃ t, exec (.uiret g) s = .next t
        ∧ t.me.reg 1 = { val := h.s1.val, mark := .full, poison := false } ∧ t.me.reg 2 = { val := h.s2.val, mark := .full, poison := false }
        ∧ t.me.reg 3 = { val := h.s3.val, mark := .full, poison := false } ∧ t.me.pw = h.pw ||| 1
        ∧ (∀ r : Fin 80, (r.val = 0 ∨ 4 ≤ r.val) → t.me.regs.get r = s.me.regs.get r)
        ∧ t.me = { s.me with regs := t.me.regs, pw := t.me.pw, pc := pcOf s.me.uint.uhpc, status := { s.me.status with ui := false },
                             front := { s.me.front with readyAt := s.now + 3, fetch := none, wait := s.me.front.held.get .none 0,
                                                        held := s.me.front.held.del 0 } }
        ∧ (∀ c, t.core c = { s.core c with mint := (t.core c).mint })
        ∧ SameElsewhere s t ∧ t = { s with slots := t.slots, cores := t.cores, flow := .jump })
    ∧ (s.me.status.ui = false → s.me.status.tl < 2 → ∃ t, exec (.uiret g) s = .next t ∧ Trapped s t 9 6 0 ∧ t.flow = .trap)

/-- R389: the oldest failure owed to a strand is taken at its bundle boundary, or where it waits, as a class 10 trap with its detail and address, and is
then no longer owed; the strand's wait is set aside for the return (log 144). -/
def OwedFailureTraps : Prop :=
  ∀ (s : State) (o : Nat × Nat × Word), s.owed.find? (fun o => o.1 == s.me.id.uid) = some o → s.me.status.tl < 2 →
    ∃ t, exec (.remoteFailureTrap s.cur) s = .next t ∧ t.owed = s.owed.erase o
      ∧ Trapped { s.setSlot s.cur { s.me with front := { s.me.front with
            wait := .none, held := if s.me.front.wait = .none then s.me.front.held else s.me.front.held.set (s.me.status.tl + 1) s.me.front.wait } } with
          owed := t.owed } t 10 o.2.1 o.2.2

/-- R45, R303, R306, R308, R344, R389: what takes a trap: TRAP, a malformed bundle, a failure owed to a strand; at TL 2 a trap kills the
context. Choices of the model that it rests on: log 144. -/
def Obligations.TrapsAreTaken : Prop :=
  TrapInstructionTraps ∧ IllegalInstructionTraps ∧ OwedFailureTraps ∧ TrapAtLevelTwoKills

/-- R305, R306, R345: the return from a trap, and that a trap and its return leave the strand as it was. Choices of the model that it rests on: log 144. -/
def Obligations.TrapReturns : Prop := TrapReturnRestores ∧ TrapThenReturnIsTheIdentity

/-- R247, R346: user completion interrupts: the entry of the handler and the return from it. Choices of the model that it rests on: log 51, log 144. -/
def Obligations.CompletionInterrupts : Prop := InterruptEntersItsHandler ∧ HandlerReturnRestores

-- ==== memory (R92-R95, R146-R155, R160, R209-R228, R319-R324) ====

/-- R93, R315, R322: an access of a global address fails with the first reason that applies: bit 63, alignment, translation, permission, then
the range and the heap; otherwise it leads where its page maps it. A permission is the leaf's R, W and X bits, its U bit for privilege U, and no fetch
from a melt page. Choices of the model that it rests on: log 38, log 44. -/
def AccessesCheckInOrder : Prop :=
  ∀ (s : State) (w : Who) (k : AccKind) (n : Nat) (va : Word), n ∈ [1, 2, 4, 8, 64] →
    let code := match k with | .load => 0 | .store => 8 | .rmw => 8 | .fetch => 16
    let fails := fun (u : State) (c r : Nat) => s.access w k n va = (u, .error { cls := c, detail := code + r, tval := va })
    (2 ^ 63 ≤ va.toNat → fails s 3 1)
    ∧ (va.toNat < 2 ^ 63 → va.toNat % n ≠ 0 → fails s 3 0)
    ∧ (va.toNat < 2 ^ 63 → va.toNat % n = 0 → ∀ u,
        (∀ r, s.translate w va = (u, .error r) → fails u 4 r)
        ∧ ∀ leaf bits, s.translate w va = (u, .ok (leaf, bits)) →
          let may := (w.priv ≠ .u ∨ leaf.getLsbD 5 = true) ∧ (match k with
            | .load => leaf.getLsbD 2 = true
            | .store => leaf.getLsbD 3 = true
            | .rmw => leaf.getLsbD 2 = true ∧ leaf.getLsbD 3 = true
            | .fetch => leaf.getLsbD 4 = true ∧ leaf.getLsbD 7 = false)
          let pa := BitVec.ofNat 64 (leaf.toNat / 2 ^ bits * 2 ^ bits + va.toNat % 2 ^ bits)
          (¬ may → fails u 3 4)
          ∧ (may → (∀ r, u.resolve w (leaf.toNat / 2 ^ 8 % 4 == 1) pa = .error r → fails u 3 r)
              ∧ ∀ x, u.resolve w (leaf.toNat / 2 ^ 8 % 4 == 1) pa = .ok x →
                s.access w k n va = (u, .ok { pa := pa, target := x, melt := leaf.getLsbD 7, device := leaf.toNat / 2 ^ 8 % 4 == 1 })))

/-- R146, R175, R370, R427: where a physical address leads: another device that its DEVICE field names, if FABRIC is accepted and the number is assigned;
HBM below the partition's capacity but in its payload heap; host memory through HMAP; control space for S and M on a page of TYPE 01; the rest is
unpopulated. -/
def AddressesLeadWhereTheMapSays : Prop :=
  ∀ (s : State) (w : Who) (typed : Bool) (pa : Word),
    let dev := pa.toNat / 2 ^ 49
    let lpa := pa.toNat % 2 ^ 49
    let p := s.part w.part
    let heap := p.fheap.toNat / 2 ^ 16 % 2 ^ 33 * 2 ^ 16
    let top := heap + p.fheap.toNat % 2 ^ 16 * 2 ^ 16
    let off := lpa - 2 ^ 44
    let is := fun (r : Except Nat Target) => s.resolve w typed pa = r
    (dev ≠ s.plat.device → (16416 ≤ dev ∨ s.plat.drvfeat.getLsbD 3 = false → is (.error 2))
        ∧ (dev < 16416 → s.plat.drvfeat.getLsbD 3 = true → is (.ok (.remote dev lpa))))
    ∧ (dev = s.plat.device →
        (lpa < p.capacity → (heap ≤ lpa ∧ lpa < top → is (.error 5)) ∧ (lpa < heap ∨ top ≤ lpa → is (.ok (.hbm lpa))))
        ∧ (p.capacity ≤ lpa → lpa < 2 ^ 44 → is (.error 2))
        ∧ (p.capacity ≤ lpa → 2 ^ 44 ≤ lpa → lpa < 0x1f0000000000 →
            (p.hmap.getLsbD 0 = true → off < p.hmap.toNat / 2 ^ 8 % 2 ^ 14 * 2 ^ 30 →
              is (.ok (.host (p.hmap.toNat / 2 % 2) (p.hmap.toNat / 2 ^ 30 % 2 ^ 34 * 2 ^ 30 + off))))
            ∧ (p.hmap.getLsbD 0 = false ∨ p.hmap.toNat / 2 ^ 8 % 2 ^ 14 * 2 ^ 30 ≤ off → is (.error 2)))
        ∧ (p.capacity ≤ lpa → 0x1f0000000000 ≤ lpa → lpa < 2 ^ 45 →
            (w.priv ≠ .u → typed = true → is (.ok (.control lpa))) ∧ (w.priv = .u ∨ typed = false → is (.error 3)))
        ∧ (p.capacity ≤ lpa → 2 ^ 45 ≤ lpa → is (.error 2)))

/-- R93, R146, R175, R315, R322, R370: the checks of a global access in their order, and where its physical address leads. Choices of the model that
it rests on: log 38, log 44. -/
def Obligations.AccessChecksInOrder : Prop := AccessesCheckInOrder ∧ AddressesLeadWhereTheMapSays

/-- R92, R93, R219: a load whose checks fail, its translation being at hand, traps with their class, detail and address; so do a store and a
strong access. -/
def FailedAccessesTrap : Prop :=
  ∀ (s u : State) (d a : Reg) (off : BitVec 8) (xa xd se : Bool) (sz : Size) (wz : WSize) (sc : Scope) (e : TrapInfo),
    (∀ c ∈ s.cmds, c.2.owed = false) → s.me.status.tl < 2 →
    let n := sz.bytes
    let m := wz.bytes
    let load := fun (i : Instr) (n : Nat) => s.ready [srcA a xa] [d] true = true → s.mustWalk n (cmAddress (s.rd a) off n) = false →
      s.access s.whoMe .load n (cmAddress (s.rd a) off n) = (u, .error e) →
        ∃ t, exec i s = .next t ∧ Trapped u t e.cls e.detail e.tval ∧ t.flow = .trap
    let store := fun (i : Instr) (n : Nat) => s.ready [srcA a xa, srcD d xd] [] false = true →
      s.mustWalk n (cmAddress (s.rd a) off n) = false → s.access s.whoMe .store n (cmAddress (s.rd a) off n) = (u, .error e) →
        ∃ t, exec i s = .next t ∧ Trapped u t e.cls e.detail e.tval ∧ t.flow = .trap
    load (.ld d a off xa se sz) n ∧ load (.ldS d a off xa wz sc) m ∧ load (.ldAcq d a off xa wz sc) m
    ∧ store (.st d a xd off xa sz) n ∧ store (.stS d a xd off xa wz sc) m ∧ store (.stRel d a xd off xa wz sc) m

/-- R93, R323: an access whose translation is not in its core's TLB does not issue: its strand is ready again after 6 cycles where the cluster's
TLB has it; else after the walk of its page, a walk of the same ASID and page that is under way on its die, or a new one; where all 16 walkers of the
die are busy it looks again in the next cycle. Nothing else of the strand, and no byte of memory, changes. -/
def AccessesWaitForWalks : Prop :=
  ∀ (s : State) (d a : Reg) (off : BitVec 8) (xa xd se : Bool) (sz : Size) (wz : WSize) (sc : Scope) (i : Instr) (n : Nat) (w : Walk),
    (∀ c ∈ s.cmds, c.2.owed = false) →
    (s.ready [srcA a xa] [d] true = true ∧ (i = .ld d a off xa se sz ∧ n = sz.bytes ∨ i ∈ [.ldS d a off xa wz sc, .ldAcq d a off xa wz sc] ∧ n = wz.bytes)
      ∨ s.ready [srcA a xa, srcD d xd] [] false = true
          ∧ (i = .st d a xd off xa sz ∧ n = sz.bytes ∨ i ∈ [.stS d a xd off xa wz sc, .stRel d a xd off xa wz sc] ∧ n = wz.bytes)) →
    let va := cmAddress (s.rd a) off n
    let page := fun (l : List TlbEntry) => l.any fun e => e.hits s.me.id.part s.me.id.asid va
    let die := s.walks.filter fun w => w.die == dieOf s.myCore
    let same := fun (w : Walk) => w.part == s.me.id.part && w.asid == s.me.id.asid && w.page == va.toNat / 65536
    let ready := fun (c : Nat) (f : Front) => { f with readyAt := max f.readyAt c }
    let comes := fun (t : State) (c : Nat) =>
      t.me = { s.me with front := { ready c s.me.front with walked := some va, walkFault := none } } ∧ SameElsewhere s t ∧ t.flow = .wait
    va.toNat < 2 ^ 63 → va.toNat % n = 0 → s.me.front.walked ≠ some va → page (s.core s.myCore).tlb = false →
    (page (s.cluster (clusterOf s.myCore)).tlb = true → ∃ t, exec i s = .next t ∧ comes t (s.now + 6) ∧ t = { s with slots := t.slots, flow := .wait })
    ∧ (page (s.cluster (clusterOf s.myCore)).tlb = false →
        (die.find? same = some w → ∃ t, exec i s = .next t ∧ comes t w.done ∧ t = { s with slots := t.slots, flow := .wait })
        ∧ (die.find? same = none → 16 ≤ die.length →
            ∃ t, exec i s = .next t ∧ t.me = { s.me with front := ready (s.now + 1) s.me.front } ∧ SameElsewhere s t
              ∧ t = { s with slots := t.slots, flow := .wait })
        ∧ (die.find? same = none → die.length < 16 →
            ∃ t c, exec i s = .next t ∧ comes t c ∧ s.now < c ∧ c ≤ s.now + 1 + (s.walk s.myCore s.me.id.part s.me.id.asid va).2.cycles
              ∧ t.walks = s.walks ++ [{ die := dieOf s.myCore, part := s.me.id.part, asid := s.me.id.asid, page := va.toNat / 65536, done := c }]
              ∧ t.agenda = s.agenda ++ [{ due := c, ev := .tlbWalk s.myCore s.me.id.asid va .load, arg := [] }]
              ∧ t = { s with slots := t.slots, walks := t.walks, agenda := t.agenda, tick := t.tick, flow := .wait }))

/-- R92, R94, R164, R203, R219: on a core that meets memory alone, a load of HBM or of host memory begins a long producer whose value is that of
the bytes at its address, zero- or sign-extended, within the cycles of the level that holds them, or within the device's share of 350 and the host's
response time (R370); one below DEVICE scope, but of a TYPE 01 page or one of melt granules, may be read again at its delivery (log 16); LD.ACQ is an acquire, of which nothing but the core's own-die copies is left at DEVICE and wider. -/
def LoadsReadMemory : Prop :=
  ∀ (s u : State) (d a : Reg) (off : BitVec 8) (xa se : Bool) (sz : Size) (wz : WSize) (sc : Scope) (x : Acc),
    s.plainAt s.myCore → ((∃ l, x.target = .hbm l) ∨ ∃ p l, x.target = .host p l) → (x.device = true → u.deviceOpen none = false) →
    let key := targetKey s.me.id.part x.target
    let n := sz.bytes
    let m := wz.bytes
    let level := match x.target with
      | .hbm l => u.homeBound s.myCore s.me.id.part l
      | _ => 350 + u.hostTime
    let load := fun (i : Instr) (n bound : Nat) (v : DelVal) (p : State → Prop) => s.ready [srcA a xa] [d] true = true →
      s.mustWalk n (cmAddress (s.rd a) off n) = false → s.access s.whoMe .load n (cmAddress (s.rd a) off n) = (u, .ok x) →
        ∃ t, exec i s = .next t ∧ BegunWithin s t d .load bound v ∧ SameButAccess s t ∧ p t
    let now := fun (v : Word) => if x.device = true ∨ x.melt = true ∨ 4 ≤ sc.code then DelVal.val v else .narrow key m v sc s.now
    let weak := fun (v : Word) => if x.device = true ∨ x.melt = true then DelVal.val v else .load key n se v
    load (.ld d a off xa se sz) n level (weak (extended n se (s.bytesAt key n))) (fun _ => True)
    ∧ load (.ldS d a off xa wz sc) m level (now (extended m false (s.bytesAt key m))) (fun _ => True)
    ∧ load (.ldAcq d a off xa wz sc) m (level + if 4 ≤ sc.code then 16 else 0) (now (extended m false (s.bytesAt key m)))
        (fun t => 4 ≤ sc.code → ∀ l ∈ (t.core s.myCore).l1d, l.own = true)

/-- R92, R93, R219: the loads of global memory: where they read, that they wait for their translation, and that a failed check traps before anything else. Choices of the model that it rests on: log 10, log 16, log 38. -/
def Obligations.LoadsReadOrTrap : Prop := LoadsReadMemory ∧ FailedAccessesTrap ∧ AccessesWaitForWalks

/-- R92, R155, R196, R209, R219: a store of HBM or of host memory enters its core's store buffer with its bytes, or, on a page of melt granules, is
performed before the next bundle; ST.REL waits until the strand's earlier accesses are performed. No register changes. -/
def StoresEnterTheBuffer : Prop :=
  ∀ (s u : State) (d a : Reg) (off : BitVec 8) (xa xd : Bool) (sz : Size) (wz : WSize) (sc : Scope) (x : Acc),
    s.plainAt s.myCore → ((∃ l, x.target = .hbm l) ∨ ∃ p l, x.target = .host p l) → u.storesHeld s.myCore < 32 →
    (x.device = true → u.deviceWaits x = false) →
    let key := targetKey s.me.id.part x.target
    let store := fun (i : Instr) (n : Nat) (strong rel : Bool) => s.ready [srcA a xa, srcD d xd] [] false = true →
      s.mustWalk n (cmAddress (s.rd a) off n) = false → s.access s.whoMe .store n (cmAddress (s.rd a) off n) = (u, .ok x) →
      (rel = true ∧ u.allPerformed false sc = false → exec i s = .next { u with flow := .wait })
      ∧ ((rel = true → u.allPerformed false sc = true) → ∃ t, exec i s = .next t
          ∧ t.me = { s.me with pend := { s.me.pend with seq := s.me.pend.seq + 1, lastStore := s.me.pend.seq } }
          ∧ (∀ i, i ≠ s.cur → t.slot i = s.slot i) ∧ t.flow = .seq
          ∧ (x.melt = false → (∀ b, t.mem.read b = s.mem.read b) ∧ SameButAccess s t
              ∧ ∃ e, (t.core s.myCore).sb = [e] ∧ e.bytes = leBytes n (s.rd d).toNat ∧ e.pa = x.pa ∧ e.uid = s.me.id.uid
                ∧ e.part = s.me.id.part ∧ e.strong = strong ∧ e.device = x.device
                ∧ ∃ j, { due := s.now + j, ev := .storePerform s.myCore e.id, arg := [] } ∈ t.agenda)
          ∧ (x.melt = true → (∀ b, b < key ∨ key + n ≤ b → t.mem.read b = s.mem.read b) ∧ SameButAccess s { t with mem := s.mem, drift := s.drift }
              ∧ (s.descsAt key n = [] → t.drift = s.drift) ∧ (s.mem.wf = true → t.bytesAt key n = leBytes n (s.rd d).toNat)))
    store (.st d a xd off xa sz) sz.bytes false false
    ∧ store (.stS d a xd off xa wz sc) wz.bytes true false
    ∧ store (.stRel d a xd off xa wz sc) wz.bytes true true

/-- R155, R209, R210: a buffered store of HBM or of host memory that nothing holds, its core having no request on its way, leaves the buffer and is performed: its bytes, and no others,
change. A weak store, or one below DEVICE scope, of a line that is homed on another die may instead stay in the core's L1D, which then holds the
bytes as dirty. -/
def BufferedStoresArePerformed : Prop :=
  ∀ (s : State) (core id : Nat) (e : SbEntry),
    (s.core core).sb.find? (fun e => e.id == id) = some e → s.storeHeld core e = false → s.partials = [] → s.mem.wf = true →
    (s.core core).l1d = [] → (s.core core).unacked = [] → (∀ c ∈ s.cores, ∀ r ∈ c.2.atomics, r.old = none) →
    ((∃ l, e.target = .hbm l) ∨ ∃ p l, e.target = .host p l) → e.bytes.length ≤ 8 →
    let key := targetKey e.part e.target
    key % 64 + e.bytes.length ≤ 64 →
    ∃ t, exec (.storePerform core id) s = .next t
      ∧ (t.core core).sb = (s.core core).sb.filter (fun x => x.id != id) ∧ (∀ i, t.slot i = s.slot i)
      ∧ (∀ b, b < key ∨ key + e.bytes.length ≤ b → t.mem.read b = s.mem.read b)
      ∧ (t.bytesAt key e.bytes.length = e.bytes
          ∨ (s.offDie core e.part e.target = true ∧ e.device = false ∧ (e.strong = false ∨ e.scope.code < 4) ∧ t.mem = s.mem
              ∧ ∃ l ∈ (t.core core).l1d, l.line = key / 64 ∧ (l.bytes.drop (key % 64)).take e.bytes.length = e.bytes
                ∧ ∀ k, k < e.bytes.length → l.dirty.getLsbD (key % 64 + k) = true))
      ∧ (s.descsAt key e.bytes.length = [] → t.drift = s.drift)
      ∧ t = { s with mem := t.mem, badBytes := t.badBytes, cores := t.cores, slices := t.slices, replicas := t.replicas, agenda := t.agenda,
                     tick := t.tick, drift := t.drift }

/-- R92, R155, R209, R219: stores: into the buffer, and from it into memory. Choices of the model that it rests on: log 10. -/
def Obligations.StoresReachMemory : Prop := StoresEnterTheBuffer ∧ BufferedStoresArePerformed

/-- R17, R95, R147, R148, R332, R339: a local address resolved: a misaligned one, one of no core or region, one beyond its region, and a store to a window
store at U are refused, in this order, with class 3 and details 24, 26, 27 and 28; CORE 31 is the strand's own core under its SEG, another one, in a
cluster that is not folded, that core of the cluster under its context's POOL. -/
def LocalAddressesResolve : Prop :=
  ∀ (s : State) (store : Bool) (n : Nat) (ea : Word) (core : Nat), n ∈ [1, 2, 4, 8] →
    let a := ea.toNat
    let region := a / 2 ^ 20 % 4
    let off := a % 2 ^ 20
    let seg := s.me.id.seg.toNat
    let pool := (s.context (contextKey s.me.id.part s.me.id.ctx)).pool.toNat
    let own := a / 2 ^ 22 % 32 = 31
    let base := if own then (if region = 0 then seg / 2 ^ 18 % 64 else if region = 1 then seg / 2 ^ 30 % 64 else seg / 2 ^ 6 % 64)
      else if region = 0 then pool % 64 else if region = 1 then 0 else pool % 64 + pool / 2 ^ 6 % 64
    let limit := if own then (if region = 0 then seg / 2 ^ 12 % 64 else if region = 1 then seg / 2 ^ 24 % 64 else seg % 64)
      else if region = 0 then pool / 2 ^ 6 % 64 else if region = 1 then pool % 64 else pool / 2 ^ 12 % 64
    let fails := fun (r : Nat) => s.localMe store n ea = .error { cls := 3, detail := 24 + r, tval := ea }
    (a % n ≠ 0 → fails 0)
    ∧ (a % n = 0 → 2 ^ 27 ≤ a ∨ (24 ≤ a / 2 ^ 22 % 32 ∧ a / 2 ^ 22 % 32 ≤ 30) ∨ region = 3 → fails 2)
    ∧ (a % n = 0 → a < 2 ^ 27 → region < 3 → (own ∧ core = s.myCore ∨ a / 2 ^ 22 < 24 ∧ core = s.myCore / 32 * 32 + a / 2 ^ 22
          ∧ (s.cluster (s.myCore / 32)).folded = false) →
        (limit * 16384 < off + n → fails 3)
        ∧ (off + n ≤ limit * 16384 → region = 1 → store = true → s.me.status.priv = .u → fails 4)
        ∧ (off + n ≤ limit * 16384 → (region = 1 → store = true → s.me.status.priv ≠ .u) →
            s.localMe store n ea = .ok (core, base * 16384 + off)))

/-- R95, R147, R148, R152, R164: the local accesses. LDL reads the bytes at the pool offset that its address names, within 4 cycles in the core's
own pool, 12 in another's and at most 9 more where another port of the bank may be in use; STL writes its bytes at once, and nothing else of memory; an
address that R95 refuses traps with class 3, kind 3. -/
def LocalAccessesReadAndWrite : Prop :=
  ∀ (s : State) (d a : Reg) (off : BitVec 8) (xa xd se : Bool) (sz : Size) (core at_ : Nat) (e : TrapInfo),
    (∀ c ∈ s.cores, c.2.atomics = []) →
    let n := sz.bytes
    let ea := cmAddress (s.rd a) off n
    let key := poolKey core at_
    (s.ready [srcA a xa] [d] true = true → s.localMe false n ea = .ok (core, at_) → s.badPlace key n = none →
      ∃ t, exec (.ldl d a off xa se sz) s = .next t ∧ t = { s with slots := t.slots, agenda := t.agenda, nextTag := t.nextTag, tick := t.tick, flow := .seq }
        ∧ BegunWithin s t d .load ((if core = s.myCore then 4 else 12) + (if s.bankShared s.myCore = true then 9 else 0))
            (.load key n se (extended n se (s.bytesAt key n))))
    ∧ (s.ready [srcA a xa, srcD d xd] [] false = true → s.localMe true n ea = .ok (core, at_) → s.mem.wf = true →
      ∃ t, exec (.stl d a xd off xa sz) s = .next t ∧ t.bytesAt key n = leBytes n (s.rd d).toNat
        ∧ (∀ b, b < key ∨ key + n ≤ b → t.mem.read b = s.mem.read b)
        ∧ t.me = { s.me with pend := { s.me.pend with seq := s.me.pend.seq + 1, lastStore := s.me.pend.seq } }
        ∧ (∀ i, i ≠ s.cur → t.slot i = s.slot i) ∧ (∀ c, c ≠ core → c ≠ s.myCore → t.core c = s.core c)
        ∧ (∀ c, t.core c = { s.core c with written := (t.core c).written, sync := (t.core c).sync })
        ∧ t.badBytes = s.badBytes.filter (fun k => !(decide (key ≤ k.1) && decide (k.1 < key + n)))
        ∧ t = { s with slots := t.slots, cores := t.cores, mem := t.mem, badBytes := t.badBytes, flow := .seq })
    ∧ (s.me.status.tl < 2 → s.ready [srcA a xa] [d] true = true → s.localMe false n ea = .error e →
        ∃ t, exec (.ldl d a off xa se sz) s = .next t ∧ Trapped s t e.cls e.detail e.tval ∧ t.flow = .trap)
    ∧ (s.me.status.tl < 2 → s.ready [srcA a xa, srcD d xd] [] false = true → s.localMe true n ea = .error e →
        ∃ t, exec (.stl d a xd off xa sz) s = .next t ∧ Trapped s t e.cls e.detail e.tval ∧ t.flow = .trap)

/-- R95, R147, R148, R152, R164, R339: the local accesses: where an address leads and which are refused, and what the accesses do there. Choices of the
model that it rests on: log 43, log 115. -/
def Obligations.LocalAccessesUseThePool : Prop := LocalAddressesResolve ∧ LocalAccessesReadAndWrite

/-- An atomic queued at its core: one request of the instruction `i` for the bytes at `key`; an AMO or CAS marks D PENDING, a RED writes no
register; memory is unchanged until the request executes. -/
def QueuesAtomic (s : State) (i : Instr) (dst : Option Reg) (rmw : Rmw) (key n : Nat) (v : Word) (sc : Scope) : Prop :=
  ∃ t r j, exec i s = .next t ∧ (t.core s.myCore).atomics = [r] ∧ 1 ≤ j
    ∧ { due := s.now + j, ev := .atomicExecute r, arg := [] } ∈ t.agenda
    ∧ r.key = key ∧ r.size = n ∧ r.rmw = rmw ∧ r.value = v ∧ r.scope = sc ∧ r.old = none ∧ r.done = false
    ∧ r.uid = s.me.id.uid ∧ r.core = s.myCore ∧ SameElsewhere s t ∧ SameButAccess s t
    ∧ (match dst with
        | none => t.me.regs = s.me.regs ∧ t.me.pend.out = s.me.pend.out
        | some d => (d ≠ 0 → t.me.reg d = { val := s.me.val d, mark := .pending, poison := false }) ∧ SameRegsBut s t d
            ∧ ∃ q, t.me.pend.out = s.me.pend.out ++ [{ tag := r.tag, reg := absReg s.me.depth d, kind := .atomic, seq := q }])

/-- R217, R225-R228: an atomic on HBM or host memory, its translation at hand and checked as R217 says, queues one request with its core; so does
one on a pool at CORE or QUAD scope, and at any other scope the local form traps with class 3, kind 3, reason 1. -/
def AtomicsAreQueued : Prop :=
  ∀ (s u : State) (d a b : Reg) (xa xb : Bool) (g : PReg) (wz : WSize) (sc : Scope) (op : RedOp) (x : Acc) (core at_ : Nat),
    s.plainAt s.myCore → s.src.pred g = true →
    let n := wz.bytes
    let ea := s.rd a
    let each := fun (p : Instr → Option Reg → Rmw → Prop) =>
      (s.ready [srcA a xa, srcB b xb] [d] true = true →
        p (.amoAdd d a b xa xb g wz sc) (some d) (.amo .add) ∧ p (.amoSwap d a b xa xb g wz sc) (some d) (.amo .swap)
        ∧ p (.amoAnd d a b xa xb g wz sc) (some d) (.amo .and) ∧ p (.amoOr d a b xa xb g wz sc) (some d) (.amo .or)
        ∧ p (.amoXor d a b xa xb g wz sc) (some d) (.amo .xor) ∧ p (.amoMin d a b xa xb g wz sc) (some d) (.amo .min)
        ∧ p (.amoMax d a b xa xb g wz sc) (some d) (.amo .max))
      ∧ (s.ready [srcA a xa, srcB b xb, srcPlain d] [d] true = true → p (.cas d a b xa xb g wz sc) (some d) (.cas (s.rd d)))
      ∧ (s.ready [srcA a xa, srcB b xb] [] false = true → p (.red op a b xa xb g wz sc) none (.red op))
    (ea.toNat / 2 ^ 32 ≠ 0xffffffff → ((∃ l, x.target = .hbm l) ∨ ∃ p l, x.target = .host p l) → u.atomicsHeld s.myCore < 32 →
      (x.device = true → u.deviceOpen none = false) → s.mustWalk n ea = false → s.access s.whoMe .rmw n ea = (u, .ok x) →
      each fun i dst rmw => QueuesAtomic s i dst rmw (targetKey s.me.id.part x.target) n (s.rd b) sc)
    ∧ (ea.toNat / 2 ^ 32 = 0xffffffff → sc.code < 2 → s.localMe true n (BitVec.ofNat 64 (ea.toNat % 2 ^ 32)) = .ok (core, at_) →
        s.atomicsHeld s.myCore < 32 → each fun i dst rmw => QueuesAtomic s i dst rmw (poolKey core at_) n (s.rd b) sc)
    ∧ (ea.toNat / 2 ^ 32 = 0xffffffff → 2 ≤ sc.code → s.me.status.tl < 2 →
        each fun i _ _ => ∃ t, exec i s = .next t ∧ Trapped s t 3 25 ea ∧ t.flow = .trap)

/-- R225-R227: the new value of an operation of `n` bytes on the old one and the operand; a CAS writes only where the low `n` bytes agree. -/
def newValue (r : Rmw) (core n : Nat) (old v : Word) : Option Nat :=
  let x := old.toNat % 2 ^ (8 * n)
  let y := v.toNat % 2 ^ (8 * n)
  let sx := (BitVec.ofNat (8 * n) x).toInt
  let sy := (BitVec.ofNat (8 * n) y).toInt
  match r with
  | .amo .add | .red .add => some ((x + y) % 2 ^ (8 * n))
  | .amo .swap => some y
  | .amo .and | .red .and => some (x &&& y)
  | .amo .or | .red .or => some (x ||| y)
  | .amo .xor | .red .xor => some (x ^^^ y)
  | .amo .min | .red .min => some (if sx ≤ sy then x else y)
  | .amo .max | .red .max => some (if sx ≤ sy then y else x)
  | .cas e => if x = e.toNat % 2 ^ (8 * n) then some y else none
  | .red .fadd => some ((redFadd core old v).toNat % 2 ^ (8 * n))

/-- A request that the core's list holds under its tag, that has not read, that nothing holds, and that meets no copies, partial results or
atomics between their load and their store. -/
def RequestFree (s : State) (r : AtomicReq) : Prop :=
  (s.core r.core).atomics.find? (fun x => x.tag == r.tag) = some r ∧ r.done = false ∧ s.atomicHeld r = false ∧ s.partials = []
    ∧ ∀ c ∈ s.cores, c.2.l1d = [] ∧ ∀ x ∈ c.2.atomics, x.old = none

/-- R212, R225-R228: a queued atomic on HBM that nothing holds reads and writes its location in one step (at a scope below DEVICE it may also
read now and write in a later step); its bytes and no others change; the register of an AMO or CAS gets the old value, zero-extended, or sign-extended
for MIN and MAX. A RED at DIE or DEVICE scope is the exception of R213. -/
def AtomicsExecute : Prop :=
  ∀ (s : State) (r : AtomicReq),
    s.mem.wf = true → RequestFree s r → r.key < 2 ^ 55 → (r.size = 4 ∨ r.size = 8) →
    ((∀ op, r.rmw ≠ .red op) ∨ (r.scope ≠ .die ∧ r.scope ≠ .device)) → (s.away.get? r.uid).isNone = true →
    let old := BitVec.ofNat 64 (leNat (s.bytesAt r.key r.size))
    ∃ t, exec (.atomicExecute r) s = .next t
      ∧ (∀ b, b < r.key ∨ r.key + r.size ≤ b → b < 2 ^ 60 → t.mem.read b = s.mem.read b)
      ∧ ((r.scope.code < 4 ∧ t.mem = s.mem ∧ (∃ x ∈ (t.core r.core).atomics, x = { r with old := some old })
            ∧ ∃ j, 1 ≤ j ∧ j ≤ 4 ∧ { due := s.now + j, ev := .atomicExecute r, arg := [] } ∈ t.agenda)
          ∨ ((match newValue r.rmw (r.core % 2048) r.size old r.value with
                | some v => leNat (t.bytesAt r.key r.size) = v
                | none => ∀ b, b < 2 ^ 60 → t.mem.read b = s.mem.read b)
              ∧ (∀ x ∈ (t.core r.core).atomics, x.tag ≠ r.tag)
              ∧ ∀ i o, s.slotOf r.uid = some i → (s.slot i).pend.out.find? (fun o => o.tag == r.tag) = some o →
                  ((1 ≤ o.reg ∧ o.reg < 8) ∨ (8 + 16 * (s.slot i).oldest ≤ o.reg ∧ o.reg < 16 * (s.slot i).depth + 32)) →
                  (t.slot i).regs.get (physAbs o.reg) = { mark := .full, poison := false, val :=
                    match r.rmw with
                    | .amo .min | .amo .max => BitVec.ofInt 64 (BitVec.ofNat (8 * r.size) old.toNat).toInt
                    | _ => old }))

/-- R213: a RED at DIE or DEVICE scope that nothing holds leaves memory unchanged: the location enters state U with a partial result of the
RED's operation, held by its core or by the die of its core. -/
def RedsBecomePartialResults : Prop :=
  ∀ (s : State) (r : AtomicReq) (op : RedOp),
    RequestFree s r → r.rmw = .red op → (r.scope = .die ∨ r.scope = .device) → r.key < 2 ^ 55 → s.outOf r.uid r.tag = none →
    ∃ t h, exec (.atomicExecute r) s = .next t ∧ t.mem = s.mem ∧ (∀ x ∈ (t.core r.core).atomics, x.tag ≠ r.tag) ∧ t.slots = s.slots
      ∧ (h = dieOf r.core ∨ h = 4 + r.core) ∧ t.partials = [{ key := r.key, size := r.size, op := op, holder := h, value := r.value }]

/-- R212, R217, R225-R228: atomics: their request, and its execution at the location. Choices of the model that it rests on: log 10, log 34, log 43. -/
def Obligations.AtomicsReadModifyWrite : Prop := AtomicsAreQueued ∧ AtomicsExecute ∧ RedsBecomePartialResults

/-- R203, R204, R210, R221-R224: the fences and cache operations. FENCE waits until the strand's earlier accesses are performed; then it is a
release and an acquire of its scope: what the cores of the instance hold dirty that have released toward it goes home, and at DEVICE and wider the core
keeps no copies but those of its own die, and its die no replicas. IFENCE drops what the core has fetched. CFLUSH leaves the core's copy of a line clean,
CINV drops it, the dirty bytes at home (a line of a melt page, or of no memory of the device, has no copy); at DEVICE scope they do so for every core, and every core of the die. No register changes. Choices of the model
that it rests on: log 10, log 106, log 112. -/
def Obligations.FencesAndCacheOperations : Prop :=
  ∀ (s u : State) (a : Reg) (xa : Bool) (g : PReg) (sc : Scope) (x : Acc),
    s.src.pred g = true →
    let only := fun (s t : State) => t = { s with mem := t.mem, cores := t.cores, slices := t.slices, replicas := t.replicas, partials := t.partials,
                                                  melts := t.melts, drift := t.drift, agenda := t.agenda, tick := t.tick, flow := .seq }
      ∧ t.melts.map (fun m => { m with known := none, rels := [] }) = s.melts.map (fun m => { m with known := none, rels := [] })
      ∧ (∀ p n, { t.dqueue p n with old := none } = { s.dqueue p n with old := none }) ∧ t.drift = { s.drift with queues := t.drift.queues }
    (s.allPerformed true sc = false → exec (.fence g sc) s = .next { s with flow := .wait })
    ∧ (s.allPerformed true sc = true →
        ∃ t, exec (.fence g sc) s = .next t ∧ only s t
          ∧ (4 ≤ sc.code → (∀ l ∈ (t.core s.myCore).l1d, l.own = true) ∧ ∀ r ∈ t.replicas, r.1 / 64 ≠ dieOf s.myCore)
          ∧ (∀ p ∈ s.cores, p.1 ≠ s.myCore → s.coresIn sc s.myCore p.1 = true → s.releasedTo p.1 s.myCore = true →
              ∀ l ∈ (t.core p.1).l1d, l.dirty = 0)
          ∧ ((∀ c ∈ s.cores, ∀ l ∈ c.2.l1d, l.dirty = 0) → ∀ b, t.mem.read b = s.mem.read b))
    ∧ (∃ t, exec (.ifence g) s = .next t ∧ t.core s.myCore = { s.core s.myCore with ibuf := [] } ∧ (∀ c, c ≠ s.myCore → t.core c = s.core c)
        ∧ (∀ i, t.slot i = if coreOf i = s.myCore then { s.slot i with front := { (s.slot i).front with fetch := none } } else s.slot i)
        ∧ t = { s with slots := t.slots, cores := t.cores, flow := .seq })
    ∧ (s.ready [srcA a xa] [] false = true → s.mustWalk 1 (s.rd a) = false → s.access s.whoMe .load 1 (s.rd a) = (u, .ok x) →
        ((∃ l, x.target = .hbm l) → x.melt = true) → (∀ p l, x.target ≠ .host p l) →
        ∀ i ∈ [.cflush a xa g sc, .cinv a xa g sc], exec i s = .next { u with flow := .seq })
    ∧ (s.ready [srcA a xa] [] false = true → s.mustWalk 1 (s.rd a) = false → s.access s.whoMe .load 1 (s.rd a) = (u, .ok x) →
        ((∃ l, x.target = .hbm l ∧ x.melt = false) ∨ ∃ p l, x.target = .host p l) → u.partials = [] →
        (∀ c ∈ u.cores, ∀ r ∈ c.2.atomics, r.old = none) →
        let line := targetKey s.me.id.part x.target / 64
        let die := dieOf s.myCore
        (∃ t, exec (.cflush a xa g sc) s = .next t ∧ only u t ∧ (∀ b, b / 64 ≠ line → t.mem.read b = s.mem.read b)
          ∧ (∀ c ∈ u.cores, c.1 = s.myCore ∨ sc = .device → ∀ l ∈ (t.core c.1).l1d, l.line = line → l.dirty = 0)
          ∧ (∀ l k, sc ≠ .device → u.mem.wf = true → (u.core s.myCore).l1d.filter (fun l => l.line == line) = [l] → k < 64 →
              l.dirty.getLsbD k = true → t.mem.read (line * 64 + k) = l.bytes.getD k 0))
        ∧ (∃ t, exec (.cinv a xa g sc) s = .next t ∧ only u t ∧ (∀ b, b / 64 ≠ line → t.mem.read b = s.mem.read b)
          ∧ (∀ c ∈ u.cores, c.1 = s.myCore ∨ (sc = .device ∧ dieOf c.1 = die) → ∀ l ∈ (t.core c.1).l1d, l.line ≠ line)
          ∧ (sc = .device → ∀ r ∈ t.replicas, r.1 / 64 = die → r.2.line ≠ line)
          ∧ (∀ l k, sc ≠ .device → u.mem.wf = true → (u.core s.myCore).l1d.filter (fun l => l.line == line) = [l] → k < 64 →
              l.dirty.getLsbD k = true → t.mem.read (line * 64 + k) = l.bytes.getD k 0)))
-- ==== deliveries, fetches, walks and the torus (R16, R22, R86, R90, R160, R162, R163, R322, R323) ====

/-- R16, R22, R318, R389: a delivery makes its register FULL with the value, in the slot or, for a frame that is spilled, in the frame's image at the
register's place, and its producer is no longer outstanding; a halted strand wakes. A load after which its strand has stored gives the value read at issue
(R94). A failed access leaves IDLE, uncorrectable data a poison mark. A delivery of a strand that is gone only ends the count of its tuple request (R182).
Choices of the model that it rests on: log 16, log 30, log 39. -/
def Obligations.DeliveriesFillTheirRegister : Prop :=
  ∀ (s : State) (uid tag i : Nat) (o : Outst) (v : Word),
    s.slotOf uid = some i → (s.slot i).pend.out.find? (fun o => o.tag == tag) = some o →
    let u := s.slot i
    let f := (o.reg - 8) / 16
    let gives := fun (d : DelVal) (c : RegCell) =>
      ∃ t, exec (.deliver uid tag d) s = .next t
        ∧ (t.slot i).pend = { u.pend with out := u.pend.out.filter fun o => o.tag != tag } ∧ (t.slot i).front = { u.front with halted := false, woken := s.now + 1, wait := if d = .idle ∧ u.front.wait = .melt tag then .none else u.front.wait }
        ∧ (t.slot i).pc = u.pc ∧ (t.slot i).depth = u.depth ∧ (t.slot i).oldest = u.oldest ∧ (t.slot i).handles = u.handles
        ∧ (∀ j, j ≠ i → t.slot j = s.slot j)
        ∧ t = { s with slots := t.slots, cores := t.cores, mem := t.mem, badBytes := t.badBytes, poisons := t.poisons, tick := t.tick }
        ∧ (∀ c, t.core c = { s.core c with tupOut := (s.core c).tupOut.filter (fun p => p != (uid, tag)), written := (t.core c).written })
        ∧ (o.reg < 8 ∨ u.oldest ≤ f →
            (∀ a, t.mem.read a = s.mem.read a)
            ∧ (1 ≤ o.reg → o.reg < 16 * u.depth + 32 → (t.slot i).regs.get (physAbs o.reg) = c)
            ∧ ∀ r : Fin 80, (o.reg = 0 ∨ 16 * u.depth + 32 ≤ o.reg ∨ r ≠ physAbs o.reg) → (t.slot i).regs.get r = u.regs.get r)
        ∧ (8 ≤ o.reg → f < u.oldest → s.mem.wf = true →
            let key := poolKey (coreOf i) (u.spillAt f)
            (t.slot i).regs = u.regs ∧ t.bytesAt (key + 8 * ((o.reg - 8) % 16)) 8 = leBytes 8 c.val.toNat
            ∧ leNat (t.bytesAt (key + 136) 4) / 4 ^ ((o.reg - 8) % 16) % 4 = (match c.mark with | .idle => 0 | .full => 1 | .pending => 2 | .named => 3)
            ∧ ∀ a, (a < key ∨ key + 144 ≤ a) → t.mem.read a = s.mem.read a)
    (o.seq < u.pend.lastStore → ∀ key n se sc at_, gives (.load key n se v) { val := v, mark := .full, poison := false }
      ∧ gives (.narrow key n v sc at_) { val := v, mark := .full, poison := false })
    ∧ gives (.val v) { val := v, mark := .full, poison := false }
    ∧ gives .idle { val := 0, mark := .idle, poison := false }
    ∧ gives (.poison v) { val := v, mark := .full, poison := true }
    ∧ ∀ w d, s.slotOf w = none → s.away.get? w = none →
        ∃ t, exec (.deliver w tag d) s = .next t ∧ t = { s with cores := t.cores }
          ∧ ∀ c, t.core c = { s.core c with tupOut := (s.core c).tupOut.filter fun p => p != (w, tag) }

/-- R86, R90, R93, R155, R323: a fetch waits for its translation, and where its walk has failed notes that fault; with the translation at hand it fills
the slot's block with the 64 bytes at the block's address, where neither the instruction buffer nor a replica holds an older copy and the core buffers no
store to them, or notes the fault that the bundle will take; no other slot and no byte of memory changes. -/
def FetchesFillTheBlock : Prop :=
  ∀ (s u : State) (i : Nat),
    let t := s.slot i
    let w : Who := { core := coreOf i, part := t.id.part, asid := t.id.asid, priv := t.status.priv }
    let block := BitVec.ofNat 64 (t.pc.toNat / 64 * 64)
    let s0 := { s with cur := i }
    (s0.mustWalk 8 t.pc = true → s0.walkFailed t.pc = none →
      ∃ v, exec (.bundleFetch i) s = .next v ∧ v.slot i = { t with front := (v.slot i).front } ∧ (v.slot i).front.fetch = t.front.fetch
        ∧ SameElsewhere s0 v ∧ v.flow = .seq)
    ∧ (∀ r, s0.mustWalk 8 t.pc = true → s0.walkFailed t.pc = some r →
      ∃ v, exec (.bundleFetch i) s = .next v ∧ v = { s0 with slots := v.slots } ∧ (∀ j, j ≠ i → v.slot j = s.slot j)
        ∧ v.slot i = { t with front := { t.front with fetch := some { va := block, bytes := [], fault := some (4, 16 + r, t.pc) } } })
    ∧ (s0.mustWalk 8 t.pc = false →
      (∀ e, s0.access w .fetch 8 t.pc = (u, .error e) →
        ∃ v, exec (.bundleFetch i) s = .next v
          ∧ v.slot i = { t with front := { t.front with fetch := some { va := block, bytes := [], fault := some (e.cls, e.detail, t.pc) } } }
          ∧ (∀ j, j ≠ i → v.slot j = s.slot j) ∧ ∀ a, v.mem.read a = u.mem.read a)
      ∧ (∀ x, s0.access w .fetch 8 t.pc = (u, .ok x) → ((∃ l, x.target = .hbm l) ∨ ∃ p l, x.target = .host p l) →
          s.melts = [] → s.replicas = [] → s.partials = [] → s.badBytes = [] → (s.core (coreOf i)).ibuf = [] → (s.core (coreOf i)).l1d = [] →
          (s.core (coreOf i)).sb = [] →
          ∃ v, exec (.bundleFetch i) s = .next v
            ∧ v.slot i = { t with front := { t.front with
                fetch := some { va := block, bytes := s.bytesAt (targetKey t.id.part x.target / 64 * 64) 64, fault := none } } }
            ∧ SameElsewhere s0 v))

/-- R321: an entry of a table of level 0 to 2 that points to the next table, which lies in the partition's HBM; `low` for a pointer to a table of
level 1 or 2. -/
def PointsOn (capacity : Nat) (low : Bool) (e : Word) : Prop :=
  e.getLsbD 0 = true ∧ e.getLsbD 1 = false ∧ bitsOf e 49 15 = 0 ∧ bitsOf e 2 6 = 0 ∧ (low = true → bitsOf e 8 4 = 0) ∧ bitsOf e 8 41 * 256 < capacity

/-- R321: an entry that is a leaf of pages of 2^`bits` bytes. -/
def IsLeaf (bits : Nat) (e : Word) : Prop :=
  e.getLsbD 0 = true ∧ e.getLsbD 1 = true ∧ bitsOf e 10 6 = 0 ∧ bitsOf e 8 2 < 2 ∧ bitsOf e 16 (bits - 16) = 0

/-- R322: the entry of a table of a level ends the walk with a fault of reason `r`. -/
def EntryFails (capacity level : Nat) (e : Word) (r : Nat) : Prop :=
  let zeros := if e.getLsbD 1 then level = 0 ∨ bitsOf e 10 6 ≠ 0 ∨ 2 ≤ bitsOf e 8 2
    else level = 3 ∨ bitsOf e 49 15 ≠ 0 ∨ bitsOf e 2 6 ≠ 0 ∨ (level ≤ 1 ∧ bitsOf e 8 4 ≠ 0)
  let size := if level = 1 then 30 else if level = 2 then 21 else 16
  (e.getLsbD 0 = false ∧ r = if level ≤ 1 then 2 else 3)
    ∨ (e.getLsbD 0 = true ∧ zeros ∧ r = 4)
    ∨ (e.getLsbD 0 = true ∧ ¬ zeros ∧ e.getLsbD 1 = true ∧ bitsOf e 16 (size - 16) ≠ 0 ∧ r = 5)
    ∨ (e.getLsbD 0 = true ∧ ¬ zeros ∧ e.getLsbD 1 = false ∧ capacity ≤ bitsOf e 8 41 * 256 ∧ r = 6)

/-- R319-R322: the five entries that a walk of a partition, an ASID and an address reads in memory: the directory's, and one of each level. -/
def walkEntries (s : State) (p asid : Nat) (va : Word) : Word × Word × Word × Word × Word :=
  let word := fun a => BitVec.ofNat 64 (leNat (s.bytesAt (hbmKey p a) 8))
  let next := fun (e : Word) => bitsOf e 8 41 * 256
  let d := word (bitsOf (s.part p).ptroot 15 34 * 32768 + 8 * (asid % 4096))
  let e0 := word (bitsOf d 12 37 * 4096 + 8 * bitsOf va 39 9)
  let e1 := word (next e0 + 8 * bitsOf va 30 9)
  let e2 := word (next e1 + 8 * bitsOf va 21 9)
  (d, e0, e1, e2, word (next e2 + 8 * bitsOf va 16 5))

/-- R320: a directory entry that names a table of level 0. -/
def NamesATable (d : Word) : Prop := d.getLsbD 0 = true ∧ bitsOf d 49 15 = 0 ∧ bitsOf d 1 11 = 0

/-- R319-R322: the tables map the address by `leaf`, to a page of 2^`bits` bytes. -/
def Maps (s : State) (p asid : Nat) (va leaf : Word) (bits : Nat) : Prop :=
  let (d, e0, e1, e2, e3) := walkEntries s p asid va
  let cap := (s.part p).capacity
  bitsOf va 48 15 = 0 ∧ NamesATable d ∧ PointsOn cap true e0
    ∧ ((IsLeaf 30 e1 ∧ leaf = e1 ∧ bits = 30)
      ∨ (PointsOn cap true e1 ∧ IsLeaf 21 e2 ∧ leaf = e2 ∧ bits = 21)
      ∨ (PointsOn cap true e1 ∧ PointsOn cap false e2 ∧ IsLeaf 16 e3 ∧ leaf = e3 ∧ bits = 16))

/-- R322: the walk ends in a fault of class 4 with reason `r`. -/
def MapFails (s : State) (p asid : Nat) (va : Word) (r : Nat) : Prop :=
  let (d, e0, e1, e2, e3) := walkEntries s p asid va
  let cap := (s.part p).capacity
  (bitsOf va 48 15 ≠ 0 ∧ r = 0)
    ∨ (bitsOf va 48 15 = 0 ∧ d.getLsbD 0 = false ∧ r = 1)
    ∨ (bitsOf va 48 15 = 0 ∧ d.getLsbD 0 = true ∧ ¬ NamesATable d ∧ r = 4)
    ∨ (bitsOf va 48 15 = 0 ∧ NamesATable d ∧ (EntryFails cap 0 e0 r
        ∨ (PointsOn cap true e0 ∧ (EntryFails cap 1 e1 r
          ∨ (PointsOn cap true e1 ∧ (EntryFails cap 2 e2 r ∨ (PointsOn cap false e2 ∧ EntryFails cap 3 e3 r)))))))

/-- R319-R323: a walk that its walker has ended frees the walker. Where the tables in memory map the address, the leaf, its page and its size come to the
TLB of the core that began the walk and of every core with a strand that waits for it, and to their clusters' TLBs; where the walk faults, the TLBs stay as
they were and the reason is noted at every strand that waits for it. Memory stays as it was. Choices of the model: log 17, log 113. -/
def WalksFillTheTlb : Prop :=
  ∀ (s : State) (core asid : Nat) (va : Word) (k : AccKind) (w : Walk),
    s.walks.find? (fun w => w.die == dieOf core && w.asid == asid && w.page == va.toNat / 65536 && decide (w.done ≤ s.now)) = some w →
    s.partials = [] → s.melts = [] → s.arg = [] →
    let mine := fun (i : Nat) => dieOf (coreOf i) = w.die ∧ (s.slot i).id.part = w.part ∧ (s.slot i).id.asid = asid
      ∧ ∃ a, (s.slot i).front.walked = some a ∧ a.toNat / 65536 = w.page
    (∀ leaf bits, Maps s w.part asid va leaf bits →
      let e : TlbEntry := { part := w.part, asid := asid, page := va.toNat / 2 ^ bits, bits := bits, leaf := leaf }
      ∃ t, exec (.tlbWalk core asid va k) s = .next t
        ∧ (∀ c, (c = core ∨ ∃ i, mine i ∧ coreOf i = c) → e ∈ (t.core c).tlb ∧ e ∈ (t.cluster (clusterOf c)).tlb)
        ∧ t = { s with walks := s.walks.erase w, cores := t.cores, clusters := t.clusters, slices := t.slices, replicas := t.replicas })
    ∧ (∀ r, MapFails s w.part asid va r →
      ∃ t, exec (.tlbWalk core asid va k) s = .next t ∧ t.clusters = s.clusters ∧ (∀ c, (t.core c).tlb = (s.core c).tlb)
        ∧ (∀ i, mine i → t.slot i = { s.slot i with front := { (s.slot i).front with walkFault := some r } })
        ∧ (∀ i, ¬ mine i → t.slot i = s.slot i)
        ∧ t = { s with walks := s.walks.erase w, slots := t.slots, cmds := t.cmds, cores := t.cores, slices := t.slices, replicas := t.replicas })

/-- R160, R162, R163, R367: a packet at its stop leaves the torus; one on the way advances one hop, along its row first, where its ring direction has a
free slot at the next stop, and two if it enters the ring there, by injection or by a turn; else it tries again in the next cycle. A request for a line
that was chosen under the slice map before the last installation is put off, once for an installation. Neither changes memory or a register. -/
def PacketsAndMovedHomes : Prop :=
  ∀ (s : State) (p : Packet) (part line : Nat), s.torus.find? (fun x => x.die == p.die && x.id == p.id) = some p → p.stop < 16 → p.dst < 16 →
    let dest := torusNext p.stop p.dst
    let dir := hopDir p.stop dest
    let need := if p.ring = some dir then 1 else 2
    (p.stop = p.dst → exec (.torusPacket p.die p.id) s = .next { s with torus := s.torus.filter fun x => x.id != p.id })
    ∧ (p.stop ≠ p.dst → need ≤ s.ringFree p.die dest dir →
        ∃ t q, exec (.torusPacket p.die p.id) s = .next t ∧ q ∈ t.torus ∧ q = { p with stop := dest, ring := some dir }
          ∧ t.torus = s.torus.map (fun x => if x.id = p.id then { x with stop := dest, ring := some dir } else x)
          ∧ Due1 s t 4 (.torusPacket p.die p.id) ∧ t = { s with torus := t.torus, agenda := t.agenda }
          ∧ (p.stop % 4 ≠ p.dst % 4 → q.stop / 4 = p.stop / 4) ∧ (p.stop % 4 = p.dst % 4 → q.stop % 4 = p.stop % 4))
    ∧ (p.stop ≠ p.dst → s.ringFree p.die dest dir < need →
        ∃ t, exec (.torusPacket p.die p.id) s = .next t ∧ Due1 s t 1 (.torusPacket p.die p.id) ∧ t = { s with agenda := t.agenda })
    ∧ ∃ t n, exec (.memoryHomemoved part line) s = .next t ∧ 1 ≤ n
        ∧ (let told := fun (d : Due) (k : Nat) => k ∈ (s.part part).moved ∧ ∃ key, s.requestAt d.ev = some (k, key) ∧ key / 64 = hbmKey part line / 64
          t = { s with agenda := t.agenda, parts := t.parts, tick := s.tick + 1 }
          ∧ t.agenda.length = s.agenda.length
          ∧ (∀ (i : Nat) (h : i < s.agenda.length) (h' : i < t.agenda.length),
              ((∃ k, told s.agenda[i] k) → t.agenda[i] = { s.agenda[i] with due := s.agenda[i].due + n })
              ∧ ((¬ ∃ k, told s.agenda[i] k) → t.agenda[i] = s.agenda[i]))
          ∧ t.part part = { s.part part with moved := (t.part part).moved }
          ∧ (∀ k, k ∈ (t.part part).moved ↔ k ∈ (s.part part).moved ∧ ¬ ∃ d ∈ s.agenda, told d k)
          ∧ ∀ q, q ≠ part → t.part q = s.part q)

/-- R86, R90, R93, R160, R162, R163, R322, R323, R367: what brings instructions and data near: fetches, walks, packets of the torus, moved homes. Choices of the model that it rests on: log 17, log 38. -/
def Obligations.FetchesWalksAndPackets : Prop := FetchesFillTheBlock ∧ WalksFillTheTlb ∧ PacketsAndMovedHomes

-- ==== landing names and melt granules (R187-R198) ====

/-- `i` traps at `s` with class `c`, detail `d` and value `v`; `u` is `s` after the lookups that the check has made. -/
def TrapsAs (i : Instr) (s u : State) (c d : Nat) (v : Word) : Prop :=
  ∃ t, exec i s = .next t ∧ Trapped u t c d v ∧ t.flow = .trap

/-- R22, R187-R189, R195: a mint takes the lowest FREE entry of the core's table, of the generation that the entry has, and gives its name to D.
MINT binds the entry to register B, which becomes NAMED; MINT.C to the record's address, which must be a multiple of 64 below 2^63. The table
finds the new name. Without a FREE entry both trap. Choices of the model that it rests on: log 8. -/
def Obligations.NamesAreMinted : Prop :=
  ∀ (s : State) (d a b : Reg) (xa : Bool) (g : PReg) (i : Nat),
    s.src.pred g = true → s.src.id = s.me.id → s.src.depth = s.me.depth →
    let minted := fun (t : State) (e : MintEntry) =>
      t.mintEntry s.myCore i = e
        ∧ (∀ c j, (c, j) ≠ (s.myCore, i) → t.mintEntry c j = nameAfter s d (s.mintEntry c j))
        ∧ (d ≠ 0 → t.me.reg d = { val := s.nameOf s.myCore i (s.mintEntry s.myCore i).gen, mark := .full, poison := false })
        ∧ (d ≠ 0 → (s.part s.me.id.part).quanta.getLsbD (clusterOf s.myCore) = true → coreNo s.myCore < 24 → s.myCore < 2048 →
            s.plat.device < 2 ^ 15 → t.findName s.me.id.part (t.me.val d) = .ok (s.myCore, i))
        ∧ SameElsewhere s t ∧ t = { s with slots := t.slots, cores := t.cores, flow := .seq }
    (s.ready [] [d] true = true → s.freeMint s.myCore = some i → b ≠ d → (s.src.reg b).mark ≠ .pending → (s.src.reg b).mark ≠ .named →
      ∃ t, exec (.mint d b g) s = .next t
        ∧ minted t { state := .reg, gen := (s.mintEntry s.myCore i).gen, ctx := contextKey s.me.id.part s.me.id.ctx, uid := s.me.id.uid,
                     reg := absReg s.me.depth b, addr := 0 }
        ∧ (b ≠ 0 → t.me.reg b = { val := s.me.val b, mark := .named, poison := false })
        ∧ ∀ n : Reg, n ≠ b → n ≠ d → t.me.reg n = s.me.reg n)
    ∧ (s.ready [srcA a xa] [d] false = true → s.freeMint s.myCore = some i → (s.rd a).toNat % 64 = 0 → (s.rd a).toNat < 2 ^ 63 →
      ∃ t, exec (.mintC d a xa g) s = .next t
        ∧ minted t { state := .cont, gen := (s.mintEntry s.myCore i).gen, ctx := contextKey s.me.id.part s.me.id.ctx, uid := s.me.id.uid,
                     reg := 0, addr := s.rd a }
        ∧ SameRegsBut s t d)
    ∧ (s.me.status.tl < 2 → s.ready [] [d] true = true → s.freeMint s.myCore = none → TrapsAs (.mint d b g) s s 6 0 0)
    ∧ (s.me.status.tl < 2 → s.ready [srcA a xa] [d] false = true → s.freeMint s.myCore = none → TrapsAs (.mintC d a xa g) s s 6 0 0)
    ∧ (s.me.status.tl < 2 → s.ready [srcA a xa] [d] false = true → s.freeMint s.myCore = some i →
        ((s.rd a).toNat % 64 ≠ 0 ∨ 2 ^ 63 ≤ (s.rd a).toNat) → TrapsAs (.mintC d a xa g) s s 6 1 (s.rd a))

/-- R191, R193, R194, R341: LAND and UNMINT of a name of the own device begin long producers; a landing reaches the name's table within 4 cycles
for the own core, 12 in the cluster, 40 in the die and 130 beyond, and 12 more where the register is in a slot of another core; an UNMINT within those and
the 4, 8, 30 or 120 of the way back; LAND outside its scope traps, UNMINT of another device's name answers NOTOWNER, 3. -/
def LandingsLeave : Prop :=
  ∀ (s : State) (d a b : Reg) (xa xb : Bool) (g : PReg) (sc : Scope),
    s.src.pred g = true →
    let n := s.rd a
    let (there, back) := match nameCore n with
      | none => (130, 120)
      | some c => if c = s.myCore then (4, 4) else if clusterOf c = clusterOf s.myCore then (12, 8) else if dieOf c = dieOf s.myCore then (40, 30) else (130, 120)
    (s.ready [srcA a xa, srcB b xb] [d] true = true →
      (s.scopeHasName sc n = true → s.awaitsRemote sc = false → nameDevice n = s.plat.device →
        ∃ t j, exec (.land d a b xa xb g sc) s = .next t ∧ Began s t d .land ∧ 1 ≤ j ∧ j ≤ there + s.forwardTime s.me.id.part n
          ∧ Due1 s t j (.landingArrival { name := n, value := s.rd b, scope := sc, part := s.me.id.part, src := .strand s.me.id.uid s.nextTag,
                                          rel := some { uid := s.me.id.uid, core := s.myCore, seq := s.me.pend.seq, scope := sc } })
          ∧ t = { s with slots := t.slots, agenda := t.agenda, nextTag := t.nextTag, tick := t.tick, flow := .seq })
      ∧ (s.me.status.tl < 2 → s.scopeHasName sc n = false → TrapsAs (.land d a b xa xb g sc) s s 6 2 n))
    ∧ (s.ready [srcA a xa] [d] true = true →
      (nameDevice n ≠ s.plat.device → ∃ t, exec (.unmint d a xa g) s = .next t ∧ BeganWithin s t d .land 8 (.val 3))
      ∧ (nameDevice n = s.plat.device →
        ∃ t j, exec (.unmint d a xa g) s = .next t ∧ Began s t d .land ∧ 1 ≤ j ∧ j ≤ there + back
          ∧ Due1 s t j (.unmintAtTable s.me.id.uid s.nextTag n s.me.id.part s.me.id.ctx)
          ∧ t = { s with slots := t.slots, agenda := t.agenda, nextTag := t.nextTag, tick := t.tick, flow := .seq }))

/-- Is register `r`, by frame, in the register file of a slot? -/
def Resident (u : Slot) (r : Nat) : Prop := (1 ≤ r ∧ r < 8) ∨ (8 + 16 * u.oldest ≤ r ∧ r < 16 * u.depth + 32)

/-- R190-R192: a landing that nothing holds back, on a live name of a register, fills it, as the table finds it, frees the name and tells a
strand that sent it LANDED, 0, within the time of the way back (R193); a name that is not live, or none, changes nothing and tells SECONDUSE, 1, or
BADNAME, 2. A name of a record puts the record, read at its home with s8 replaced, into the queue of the minting core's cluster as a new strand, under the
number that its context's counter holds. A release that its strand's earlier accesses hold back tries again in the next cycle (R434). -/
def LandingsArrive : Prop :=
  ∀ (s u : State) (l : Landing) (uid tag c i k st lpa : Nat),
    (s.relBlocked l.rel = true → ∃ t, exec (.landingArrival l) s = .next t ∧ Due1 s t 1 (.landingArrival l) ∧ t = { s with agenda := t.agenda })
    ∧ (s.relBlocked l.rel = false → nameDevice l.name = s.plat.device →
    let e := s.mintEntry c i
    let told := fun (t : State) (v : Word) =>
      l.src = .strand uid tag → ∃ j, j < (match l.rel with | some r => (nameTimes r.core l.name).2 | none => 120) ∧ { due := s.now + j, ev := .deliver uid tag (.val v), arg := [] } ∈ t.agenda
    (s.findName l.part l.name = .ok (c, i) → e.state = .reg → s.slotOf e.uid = some k → Resident (s.slot k) e.reg →
      ∃ t, exec (.landingArrival l) s = .next t
        ∧ (t.slot k).regs.get (physAbs e.reg) = { val := l.value, mark := .full, poison := false } ∧ (t.slot k).front.halted = false
        ∧ t.mintEntry c i = e.freed ∧ told t 0)
    ∧ (s.findName l.part l.name = .error st →
      ∃ t, exec (.landingArrival l) s = .next t ∧ t.slots = s.slots ∧ (∀ c j, t.mintEntry c j = s.mintEntry c j) ∧ told t (BitVec.ofNat 64 st))
    ∧ (l.rel = none → s.findName l.part l.name = .ok (c, i) → e.state = .cont → s.partials = [] →
      let s1 := s.setMint c i e.freed
      let part := e.ctx / 65536
      let ctx := e.ctx % 65536
      let n := max 1 (bitsOf (s1.ccbWord part ctx 24) 0 32)
      s1.placeAs part (s1.asidOf part ctx) .s .load 64 e.addr = (u, some (.hbm lpa)) → n ≠ 2 ^ 32 - 1 → s.queued (clusterOf c) e.ctx < 4096 →
      let r := recordOf (u.readMerged (hbmKey part lpa) 64).2
      ∃ t q, exec (.landingArrival l) s = .next t ∧ t.mintEntry c i = e.freed
        ∧ (t.cluster (clusterOf c)).queues.get [] e.ctx = (s.cluster (clusterOf c)).queues.get [] e.ctx ++ [q]
        ∧ q.record.pc = r.pc ∧ q.record.s = r.s.set 0 l.value ∧ q.addr = e.addr ∧ q.acq = some l.scope ∧ q.enq = s.now
        ∧ q.strand = BitVec.ofNat 32 n ∧ (t.context e.ctx).live = (s.context e.ctx).live + 1))

/-- R194: UNMINT at the table: DESTROYED, 0, frees a live name of the strand and leaves its register IDLE; another strand's name answers
NOTOWNER, 3, and one that is not live, or none, its status; then nothing changes but the producer's register. -/
def UnmintsAtTheTable : Prop :=
  ∀ (s : State) (uid tag part ctx c i k st : Nat) (n : Word) (o : Outst),
    s.slotOf uid = some k → (s.slot k).pend.out.find? (fun o => o.tag == tag) = some o → Resident (s.slot k) o.reg →
    let e := s.mintEntry c i
    let told := fun (t : State) (v : Word) => (t.slot k).regs.get (physAbs o.reg) = { val := v, mark := .full, poison := false }
    (s.findName part n = .ok (c, i) → e.state = .reg → e.uid = uid → Resident (s.slot k) e.reg → physAbs e.reg ≠ physAbs o.reg →
      ∃ t, exec (.unmintAtTable uid tag n part ctx) s = .next t ∧ told t 0 ∧ t.mintEntry c i = e.freed
        ∧ (t.slot k).regs.get (physAbs e.reg) = { val := 0, mark := .idle, poison := false })
    ∧ (s.findName part n = .ok (c, i) → e.state = .cont → e.ctx = contextKey part ctx →
      ∃ t, exec (.unmintAtTable uid tag n part ctx) s = .next t ∧ told t 0 ∧ t.mintEntry c i = e.freed)
    ∧ (s.findName part n = .ok (c, i) → e.state = .reg → e.uid ≠ uid →
      ∃ t, exec (.unmintAtTable uid tag n part ctx) s = .next t ∧ told t 3 ∧ t.cores = s.cores)
    ∧ (s.findName part n = .error st →
      ∃ t, exec (.unmintAtTable uid tag n part ctx) s = .next t ∧ told t (BitVec.ofNat 64 st) ∧ t.cores = s.cores)

/-- R190-R194: landings and UNMINTs, from the strand to the minting table. Choices of the model that it rests on: log 10. -/
def Obligations.NamesLandOrAreDestroyed : Prop := LandingsLeave ∧ LandingsArrive ∧ UnmintsAtTheTable

/-- R196, R197: FILLM checks the address, COUNT, the page and the area, and is refused by a granule that is FILLING or LIVE; it waits where the granule's
set has no way for it; else the granule is FILLING with the 2 KiB of the area, and its data are there within 420 cycles. LD.M makes the strand wait at the
home, and completes with the count that the home tells it. MELTQ reads the count within the time of the granule's home (R164). -/
def MeltInstructions : Prop :=
  ∀ (s u y : State) (d a b : Reg) (xa xb : Bool) (g : PReg) (v : BitVec 32) (w : Word) (x : Acc) (lpa core off : Nat),
    s.src.pred g = true → s.mustWalk 1 (s.rd a) = false →
    let gr := s.rd a
    let key := hbmKey s.me.id.part lpa
    let fill := Instr.fillm a b xa xb g v
    let take := Instr.ldM d a b xa xb g
    let count := Instr.meltq d a xa g
    let plain := s.me.front.wait ≠ .refused ∧ ∀ w, s.me.front.wait ≠ .served w
    let s0 := s.setSlot s.cur { s.me with front := { s.me.front with wait := .none } }
    (s.ready [srcA a xa, srcB b xb] [] false = true → s.me.status.tl < 2 →
      (granuleForm gr = false → TrapsAs fill s s 6 4 gr)
      ∧ (granuleForm gr = true → (v = 0 ∨ 255 < v.toNat) → TrapsAs fill s s 6 3 (v.setWidth 64))
      ∧ (granuleForm gr = true → 1 ≤ v.toNat → v.toNat ≤ 255 →
          (s.access s.whoMe .store 1 gr = (u, .ok x) → x.melt = false → TrapsAs fill s u 6 5 gr)
          ∧ (s.access s.whoMe .store 1 gr = (u, .ok x) → x.melt = true → x.target = .hbm lpa → u.meltArea (u.rd b) = none →
              TrapsAs fill s u 6 9 (s.rd b))
          ∧ (s.access s.whoMe .store 1 gr = (u, .ok x) → x.melt = true → x.target = .hbm lpa → u.meltArea (u.rd b) = some (core, off) →
              (s.meltAt key 2048).isSome = true → TrapsAs fill s u 6 6 gr)
          ∧ (s.access s.whoMe .store 1 gr = (u, .ok x) → x.melt = true → x.target = .hbm lpa → u.meltArea (u.rd b) = some (core, off) →
              s.meltAt key 2048 = none → (∀ c ∈ s.cores, c.2.atomics = []) →
              (u.fillRoom key = (y, false) → exec fill s = .next { y with flow := .wait })
              ∧ (u.fillRoom key = (y, true) → s.partials = [] → s.mem.wf = true →
                  ∃ t j, exec fill s = .next t ∧ 1 ≤ j ∧ j ≤ 420 ∧ { due := s.now + j, ev := .meltFillDone key, arg := [] } ∈ t.agenda
                    ∧ t.melts = s.melts ++ [{ key := key, live := false, count := v.toNat, order := s.nextAge, part := s.me.id.part,
                                              ctx := s.me.id.ctx, uid := s.me.id.uid, src := some (poolKey core off), held := [], known := some [s.myCore], rels := [] }]
                    ∧ t.bytesAt (meltKey key) 2048 = s.bytesAt (poolKey core off) 2048
                    ∧ (∀ b, (b < key ∨ key + 2048 ≤ b) → (b < meltKey key ∨ meltKey key + 2048 ≤ b) → t.mem.read b = s.mem.read b)
                    ∧ t.me = { s.me with pend := { s.me.pend with seq := s.me.pend.seq + 1, lastStore := s.me.pend.seq } }
                    ∧ t.flow = .seq ∧ ∀ i, i ≠ s.cur → t.slot i = s.slot i))))
    ∧ (s.ready [srcA a xa, srcB b xb] [d] true = true → plain → granuleForm gr = true → s.access s.whoMe .load 1 gr = (u, .ok x) →
        x.melt = true → x.target = .hbm lpa → u.meltArea (u.rd b) = some (core, off) → core < 2048 → off < 2 ^ 20 →
        ∃ t j, exec take s = .next t ∧ 1 ≤ j ∧ j ≤ u.sliceBound s.myCore (u.homeOfGran (key / 2048))
          ∧ { due := s.now + j, ev := .ldmAtHome s.me.id.uid s.nextTag key (BitVec.ofNat 32 (core * 2 ^ 20 + off)), arg := [] } ∈ t.agenda
          ∧ t.me = { s.me with front := { s.me.front with wait := .melt s.nextTag } } ∧ t.flow = .held ∧ SameElsewhere s t)
    ∧ (s.ready [srcA a xa, srcB b xb] [d] true = true → s.me.front.wait = .served w →
        ∃ t, exec take s = .next t ∧ BeganWithin s0 t d .load 16 (.val w))
    ∧ (s.ready [srcA a xa, srcB b xb] [d] true = true → s.me.status.tl < 2 → s.me.front.wait = .refused → TrapsAs take s s0 6 8 gr)
    ∧ (s.ready [srcA a xa] [d] true = true → granuleForm gr = true → s.access s.whoMe .load 1 gr = (u, .ok x) → x.melt = true →
        x.target = .hbm lpa →
        let n := match s.meltAt key 2048 with
          | some m => m.count
          | none => 0
        ∃ t, exec count s = .next t ∧ BegunWithin s t d .load (u.sliceBound s.myCore (u.homeOfGran (key / 2048))) (.val (BitVec.ofNat 64 n)) ∧ SameButAccess s t)

/-- R196-R198: granules at their home. An LD.M is refused by an ORDINARY granule, held by a FILLING one, and served by a LIVE one, whose 2 KiB go to
the area and whose count falls; an LD.M toward whose core nothing orders the fill may be refused as if it had come before it. A load that a FILLING
granule holds gets the granule's bytes once it is LIVE. At a count of zero the granule is gone, and what HBM holds is as it was. A fill that is done makes the granule LIVE, each of its
64-byte pieces as the source area was when the home accepted it or as it is then. A set of 16 LIVE granules that needs a way evicts the earliest: its
data go to HBM, and its context's under-read word gets the granule, its count and reason 1. -/
def GranulesAtTheirHome : Prop :=
  ∀ (s y : State) (uid tag key k core off src : Nat) (m : Melt) (count : BitVec 8) (data : List Byte) (part ctx : Nat),
    s.mem.wf = true →
    let area := BitVec.ofNat 32 (core * 2 ^ 20 + off)
    let ldm := Instr.ldmAtHome uid tag key area
    (s.slotOf uid = some k → (s.slot k).front.wait = .melt tag → core < 2048 → off + 2048 ≤ 2 ^ 20 →
      let refused := fun (t : State) => (t.slot k).front.wait = .refused ∧ t.melts = s.melts ∧ t.mem = s.mem
      let served := fun (t : State) => (t.slot k).front.wait = .served (BitVec.ofNat 64 ((m.count - 1) * 256))
        ∧ t.bytesAt (poolKey core off) 2048 = s.bytesAt (meltKey key) 2048
        ∧ (∀ b, b < 2 ^ 60 → t.mem.read b = s.mem.read b)
        ∧ (m.count ≤ 1 → t.melts = s.melts.filter fun x => x.key != key)
        ∧ (1 < m.count → t.melts = s.melts.map fun x => if x.key = key then { x with count := m.count - 1 } else x)
      let holds := fun (t : State) => t.slots = s.slots ∧ t.mem = s.mem
        ∧ t.melts = s.melts.map fun x => if x.key = key then { x with held := x.held ++
            [{ uid := uid, tag := tag, area := some area, key := key, size := 2048, sext := false, acq := none, cmd := none, flit := none }] } else x
      let ordered := m.known = none ∨ ∃ l, m.known = some l ∧ coreOf k ∈ l
      ((∀ m ∈ s.melts, m.key ≠ key) → ∃ t, exec ldm s = .next t ∧ refused t)
      ∧ (s.melts.find? (fun m => m.key == key) = some m → m.live = false →
          ∃ t, exec ldm s = .next t ∧ (holds t ∨ (¬ ordered ∧ refused t)))
      ∧ (s.melts.find? (fun m => m.key == key) = some m → m.live = true → (∀ c ∈ s.cores, c.2.atomics = []) →
          ∃ t, exec ldm s = .next t ∧ (served t ∨ (¬ ordered ∧ refused t))))
    ∧ (s.melts.find? (fun m => m.key == key && !m.live) = some m → m.held = [] →
        let live := s.melts.map fun x => if x.key = key then { x with live := true, held := [] } else x
        (m.src = none → exec (.meltFillDone key) s = .next { s with melts := live })
        ∧ (m.src = some src →
            ∃ t, exec (.meltFillDone key) s = .next t ∧ t = { s with mem := t.mem, tick := t.tick, melts := live }
              ∧ (∀ b, (b < meltKey key ∨ meltKey key + 2048 ≤ b) → t.mem.read b = s.mem.read b)
              ∧ ∀ i, i < 32 → t.bytesAt (meltKey key + 64 * i) 64 = s.bytesAt (meltKey key + 64 * i) 64
                  ∨ t.bytesAt (meltKey key + 64 * i) 64 = s.bytesAt (src + 64 * i) 64))
    ∧ (∀ h : MeltHeld, s.melts = [m] → m.key = key → m.live = false → m.src = none → m.held = [h] → h.area = none → h.cmd = none → h.flit = none →
        h.acq = none → s.badBytes = [] → key % 2048 = 0 → key ≤ h.key → h.key + h.size ≤ key + 2048 → 1 ≤ h.size → h.size ≤ 8 →
        ∃ t j, exec (.meltFillDone key) s = .next t ∧ 1 ≤ j ∧ j ≤ s.sliceBound (s.coreOfStrand h.uid) (s.homeOfGran (key / 2048))
          ∧ Due1 s t j (.deliver h.uid h.tag (.val (extended h.size h.sext (s.bytesAt (meltKey h.key) h.size))))
          ∧ t = { s with agenda := t.agenda, tick := t.tick, melts := [{ m with live := true, held := [] }] })
    ∧ ((s.meltAt key 2048).isSome = true → exec (.fillmAtHome key count data part ctx) s = .next s)
    ∧ (s.meltAt key 2048 = none → s.fillRoom key = (y, false) →
        ∃ t, exec (.fillmAtHome key count data part ctx) s = .next t ∧ Due1 y t 1 (.fillmAtHome key count data part ctx)
          ∧ t = { y with agenda := t.agenda })
    ∧ (s.meltAt key 2048 = none → data.length = 2048 → s.fillRoom key = (y, true) →
        ∃ t j, exec (.fillmAtHome key count data part ctx) s = .next t ∧ 1 ≤ j ∧ j ≤ 420
          ∧ { due := s.now + j, ev := .meltFillDone key, arg := [] } ∈ t.agenda ∧ t.bytesAt (meltKey key) 2048 = data
          ∧ t.melts = s.melts ++ [{ key := key, live := false, count := count.toNat, order := s.nextAge, part := part, ctx := ctx, uid := 0,
                                    src := none, held := [], known := none, rels := [] }])
    ∧ (s.meltVictim (s.homeOfGran (key / 2048)) (key / 2048) = some m → m.key = key → s.ccbWord m.part m.ctx 64 = 0 → key < 2 ^ 60 →
        s.partials = [] → (∀ c ∈ s.cores, c.2.atomics = []) →
        let ccb := hbmKey m.part (s.context (contextKey m.part m.ctx)).ccb.toNat
        (∀ x ∈ s.melts, x.key + 2048 ≤ ccb ∨ ccb + 128 ≤ x.key) → ccb < 2 ^ 60 →
        let old := s.ccbWord m.part m.ctx 104
        ∃ t, exec (.meltEviction key) s = .next t ∧ t.melts = s.melts.filter (fun x => x.key != key)
          ∧ t.bytesAt key 2048 = s.bytesAt (meltKey key) 2048
          ∧ t.ccbWord m.part m.ctx 104 = (if old.getLsbD 0 then old ||| 2
              else BitVec.ofNat 64 (key % 2 ^ 49 / 2048 * 2 ^ 26 + m.count * 2 ^ 18 + 4) ||| 1))

/-- R196-R198: melt granules, as strands fill, read and query them, and at their home. Choices of the model that it rests on: log 36, log 37, log 54, log 119, log 141, log 147. -/
def Obligations.MeltGranulesAreCounted : Prop := MeltInstructions ∧ GranulesAtTheirHome

-- ==== tuples (R166-R186, R229-R231) ====

/-- R128, R169, R229, R231: the handle of a tuple operation is checked, in order, for its type, its reserved bits, a wildcard in a deposit, LEN64, the form
of its area, and the area's end; then, in .C mode, for B, the frame depth, a register-bound name, an outstanding long producer and STATUS.UI. Each failure traps
with class 5 and its own detail. Then a key of the system's fields traps in user mode with class 9, detail 3. TCANCEL takes the first two checks and the last. -/
def TupleOperationsAreChecked : Prop :=
  ∀ (s : State) (d b : Reg) (hn : HReg) (xa xb : Bool) (g : PReg) (m : TMode),
    s.src.pred g = true → s.me.status.tl < 2 →
    let ready := if m = .c then s.ready [srcH hn xa, srcB b xb] [] true else s.ready [srcH hn xa] [d] true
    let h := s.rdH hn
    let bits := fun (lo n : Nat) => h.toNat / 2 ^ lo % 2 ^ n
    let plain := bits 0 4 = 6 ∧ bits 192 64 = 0 ∧ bits 10 6 = 0 ∧ bits 4 4 = 0
    let r : Word := hn.setWidth 64
    let la := bits 16 32
    let formed := la < 2 ^ 27 ∧ (la / 2 ^ 22 % 32 < 24 ∨ la / 2 ^ 22 % 32 = 31) ∧ la / 2 ^ 20 % 4 = 0 ∧ la % 64 = 0
    let system := 0xffffff00 ≤ bits 64 32 ∧ s.me.status.priv = .u
    let three := [(TupOp.dep, Instr.tdep d hn b xa xb g m), (.rd, .trd d hn b xa xb g m), (.take, .ttake d hn b xa xb g m)]
    let size := fun (op : TupOp) => if op = .dep then 64 * bits 48 16 else 64 + 64 * bits 48 16
    let formedFor := fun (op : TupOp) => plain ∧ (op = .dep → bits 8 2 = 0) ∧ bits 48 16 ≤ 1024 ∧ formed
    let fits := fun (op : TupOp) => formedFor op ∧ (size op = 0 ∨ (s.padAt s.src s.myCore la (size op)).isSome = true)
    let named := ∃ i, s.findName s.src.id.part (s.rd b) = .ok (s.myCore, i) ∧ (s.mintEntry s.myCore i).state = .cont ∧ nameDevice (s.rd b) = s.plat.device
    let bound := s.cores.any (fun c => c.2.mint.any fun e => decide (e.2.state = .reg) && e.2.uid == s.src.id.uid)
    (ready = true →
      (∀ x ∈ three,
        (bits 0 4 ≠ 6 → TrapsAs x.2 s s 5 0 r) ∧ (bits 0 4 = 6 → ¬plain → TrapsAs x.2 s s 5 1 r)
        ∧ (x.1 = .dep → plain → (bits 8 1 = 1 ∨ bits 9 1 = 1) → TrapsAs x.2 s s 5 2 r)
        ∧ (plain → (x.1 = .dep → bits 8 2 = 0) → 1024 < bits 48 16 → TrapsAs x.2 s s 5 3 r)
        ∧ (plain → (x.1 = .dep → bits 8 2 = 0) → bits 48 16 ≤ 1024 → ¬formed → TrapsAs x.2 s s 5 4 r)
        ∧ (formedFor x.1 → size x.1 ≠ 0 → s.padAt s.src s.myCore la (size x.1) = none → TrapsAs x.2 s s 5 5 r)
        ∧ (m = .c → fits x.1 →
            (¬named → TrapsAs x.2 s s 5 6 (s.rd b))
            ∧ (named → s.src.depth ≠ 0 → TrapsAs x.2 s s 5 7 (s.rd b))
            ∧ (named → s.src.depth = 0 → bound = true → TrapsAs x.2 s s 5 8 (s.rd b))
            ∧ (named → s.src.depth = 0 → bound = false → s.src.pend.out ≠ [] → TrapsAs x.2 s s 5 9 (s.rd b))
            ∧ (named → s.src.depth = 0 → bound = false → s.src.pend.out = [] → s.src.status.ui = true → TrapsAs x.2 s s 5 10 (s.rd b)))
        ∧ (fits x.1 → system → (m = .c → named ∧ s.src.depth = 0 ∧ bound = false ∧ s.src.pend.out = [] ∧ s.src.status.ui = false) →
            TrapsAs x.2 s s 9 3 (BitVec.ofNat 64 (bits 64 32)))))
    ∧ (s.ready [srcH hn xa] [d] true = true →
        (bits 0 4 ≠ 6 → TrapsAs (.tcancel d hn xa g) s s 5 0 r) ∧ (bits 0 4 = 6 → ¬plain → TrapsAs (.tcancel d hn xa g) s s 5 1 r)
        ∧ (plain → system → TrapsAs (.tcancel d hn xa g) s s 9 3 (BitVec.ofNat 64 (bits 64 32))))

/-- R169-R174, R178, R182, R229, R231: a tuple operation that passes its checks, on a home of its own device and with one of the core's 64 requests free, is
a long producer whose request, with the fields of the handle, the payload and the strand's names, reaches the home after the network's time. In .C mode no
register is a destination: the strand leaves its slot at once, its earlier stores performed (R118, R128), and the request names its continuation. -/
def TupleRequestsLeave : Prop :=
  ∀ (s : State) (d b : Reg) (hn : HReg) (xa xb : Bool) (g : PReg) (m : TMode) (core off : Nat),
    s.src.pred g = true → s.src.id = s.me.id →
    let h := s.rdH hn
    let f := fun (lo : Nat) => BitVec.ofNat 32 (h.toNat / 2 ^ lo)
    let len := h.toNat / 2 ^ 48 % 2 ^ 16
    let home := s.homeVia (clusterOf s.myCore) s.me.id.part (f 64) (f 96)
    home.device = s.plat.device → (s.core s.myCore).tupOut.length < 64 → ((f 64).toNat < 0xffffff00 ∨ s.me.status.priv ≠ .u) →
    let sent := fun (t : State) (r : TupReq) (op : TupOp) (m : TMode) (arrival : TupReq → Instr) =>
      { due := s.now + s.arriveIn s.myCore home.slice, ev := arrival r, arg := [] } ∈ t.agenda
        ∧ (t.core s.myCore).tupOut = (s.core s.myCore).tupOut ++ [(s.me.id.uid, s.nextTag)]
        ∧ r.op = op ∧ r.mode = m ∧ r.part = s.me.id.part ∧ r.ctx = s.me.id.ctx ∧ r.uid = s.me.id.uid ∧ r.core = s.myCore ∧ r.tag = s.nextTag
        ∧ r.f0 = f 64 ∧ r.f1 = f 96 ∧ r.f2 = f 128 ∧ r.f3 = f 160 ∧ r.w2 = h.getLsbD 8 ∧ r.w3 = h.getLsbD 9 ∧ r.len64 = len
        ∧ r.home = home.slice ∧ r.slot = s.cur % 8 ∧ r.gen = (s.part s.me.id.part).rtgen ∧ r.host = none ∧ r.remote = none ∧ r.tries = 0
        ∧ r.rel = (if op = .dep then some { uid := s.me.id.uid, core := s.myCore, seq := s.me.pend.seq,
                                            scope := if (s.part s.me.id.part).spans then .device else .die } else none)
        ∧ r.name = (if m = .c then s.rd b else r.name)
        ∧ r.sid = s.src.sid ∧ r.cid = s.cidOf s.myCore
        ∧ (op ≠ .dep → r.payload = [])
        ∧ (op = .dep → s.padAt s.src s.myCore (h.toNat / 2 ^ 16 % 2 ^ 32) (64 * len) = some (core, off) →
            r.payload = s.bytesAt (poolKey core off) (64 * len))
    let runs := fun (i : Instr) (op : TupOp) (m : TMode) (arrival : TupReq → Instr) => m ≠ .c → (op = .dep → ∀ c ∈ s.cores, c.2.atomics = []) →
      s.ready [srcH hn xa] [d] true = true → s.tupleFault op m hn h (s.rd b) = none →
        ∃ t r, exec i s = .next t ∧ Began s t d (if m = .w then .tuple else .other) ∧ sent t r op m arrival
          ∧ t = { s with slots := t.slots, cores := t.cores, agenda := t.agenda, nextTag := t.nextTag, flow := .seq }
    let leaves := fun (i : Instr) (op : TupOp) (arrival : TupReq → Instr) =>
      (∀ c ∈ s.cores, c.2.atomics = []) → (s.core s.myCore).sb = [] → (s.core s.myCore).l1d = [] →
      s.ready [srcH hn xa, srcB b xb] [] true = true → s.tupleFault op .c hn h (s.rd b) = none →
        ∃ t r, exec i s = .next t ∧ sent t r op .c arrival ∧ t.slot s.cur = { Slot.empty with front := { Slot.empty.front with readyAt := s.now + 1 } } ∧ t.flow = .retired
          ∧ (∀ i, i ≠ s.cur → t.slot i = s.slot i)
          ∧ (t.context (contextKey s.me.id.part s.me.id.ctx)).live = (s.context (contextKey s.me.id.part s.me.id.ctx)).live - 1
    runs (.tdep d hn b xa xb g m) .dep m .depositAtHome ∧ runs (.trd d hn b xa xb g m) .rd m .matchAtHome
    ∧ runs (.ttake d hn b xa xb g m) .take m .matchAtHome
    ∧ (s.ready [srcH hn xa] [d] true = true → s.tupleFault .cancel .p hn h 0 = none →
        ∃ t r, exec (.tcancel d hn xa g) s = .next t ∧ Began s t d .other ∧ sent t r .cancel .p .cancelAtHome)
    ∧ leaves (.tdep d hn b xa xb g .c) .dep .depositAtHome ∧ leaves (.trd d hn b xa xb g .c) .rd .matchAtHome
    ∧ leaves (.ttake d hn b xa xb g .c) .take .matchAtHome

/-- R169-R174, R229, R231: tuple operations at issue. Choices of the model that it rests on: log 42, log 55. -/
def Obligations.TupleOperationsIssue : Prop := TupleOperationsAreChecked ∧ TupleRequestsLeave

/-- `t` answers request `r` of this device with a status and a length: into its register within the time of R186, or, in .C mode, by a landing on its name;
a .C request counts no more among the core's 64. -/
def Answered (s t : State) (r : TupReq) (status len64 : Nat) : Prop :=
  let w := BitVec.ofNat 64 (len64 * 256 + status)
  ∃ j, 1 ≤ j ∧ j ≤ s.answerIn r.core r.home 0 ∧
    (r.mode ≠ .c → { due := s.now + j, ev := .deliver r.uid r.tag (.val w), arg := [] } ∈ t.agenda)
    ∧ (r.mode = .c → (r.uid, r.tag) ∉ (t.core r.core).tupOut ∧
        { due := s.now + j, ev := .landingArrival { name := r.name, value := w, scope := s.homeScope r.part s.plat.device, part := r.part,
                                                    src := .ccb, rel := none }, arg := [] } ∈ t.agenda)

/-- `t` has begun the delivery of tuple `x` of slice `h` to request `r`, and for the waiter of age `wt`: it is TAKEN for a TTAKE, one more copy for a TRD, and
the delivery is due within the times of R186. -/
def Delivering (s t : State) (h : Nat) (x : TupleEntry) (r : TupReq) (wt : Option Nat) : Prop :=
  let n := x.payload.length / 64
  ∃ id c j, t.copies.get? id = some c ∧ c.req = r ∧ c.slice = h ∧ c.age = x.age ∧ c.waiter = wt ∧ 1 ≤ j
    ∧ j ≤ s.answerIn r.core h n + (if n = 0 then 0 else if (s.part r.part).spans then 420 else 300)
    ∧ { due := s.now + j, ev := .tupleDeliveryDone id, arg := [] } ∈ t.agenda
    ∧ ({ x with taken := x.taken || r.op == .take, copies := x.copies + if r.op = .take then 0 else 1 } ∈ (t.slice h).tuples)

/-- R172, R175, R179, R434: a deposit at its home. One that its strand's earlier accesses hold back comes again in the next cycle. With SIZE 0 it answers
FULL; one whose key has moved is answered HOMEMOVED; with a full heap .P answers FULL and the others are sent again after 1,024 cycles; where no waiter
matches it becomes the youngest tuple and answers MATCH; the oldest taker that fits serves it, the depositor still answers MATCH. Choices of the model that
it rests on: log 42, log 123. -/
def DepositsAtHome : Prop :=
  ∀ (s : State) (r q : TupReq) (w : WaiterEntry),
    (s.relBlocked q.rel = true → exec (.depositAtHome q) s = .next (s.arrive 1 (.depositAtHome q)))
    ∧ (r.host = none → r.remote = none → r.rel = none →
      let p := s.part r.part
      let heap := 1024 * (p.fheap.toNat % 2 ^ 16)
      let n := r.payload.length / 64
      let h := s.slice r.home
      let x : TupleEntry := { age := s.nextAge * 2 ^ 15 + s.plat.device, part := r.part, f0 := r.f0, f1 := r.f1, f2 := r.f2, f3 := r.f3, payload := r.payload,
                              sid := r.sid, cid := r.cid, taken := false, copies := 0 }
      let taker := fun (w : WaiterEntry) => !w.serving && x.meets w.req && w.req.op == .take && n ≤ w.req.len64
      let spill := if 8192 ≤ h.tuples.length && !h.waiters.any taker then 1 else 0
      (heap = 0 → ∃ t, exec (.depositAtHome r) s = .next t ∧ Answered s t r 2 0 ∧ (t.slice r.home).tuples = h.tuples
          ∧ (t.slice r.home).fulls = h.fulls + 1)
      ∧ (0 < heap → s.ownsKey r = false → exec (.depositAtHome r) s = .next (s.after 1 (.homemoved r)))
      ∧ (0 < heap → s.ownsKey r = true → s.rangeHeld r = true → exec (.depositAtHome r) s = .next (s.arrive 1 (.depositAtHome r)))
      ∧ (0 < heap → s.ownsKey r = true → s.rangeHeld r = false → heap < s.heapUsed r.part + n + spill →
          (r.mode = .p → ∃ t, exec (.depositAtHome r) s = .next t ∧ Answered s t r 2 0 ∧ (t.slice r.home).tuples = h.tuples)
          ∧ (r.mode ≠ .p → exec (.depositAtHome r) s = .next (s.after 1024 (.depositResend r))))
      ∧ (0 < heap → s.ownsKey r = true → s.rangeHeld r = false → s.heapUsed r.part + n + spill ≤ heap →
          ((∀ w ∈ h.waiters, w.serving = true ∨ x.meets w.req = false) →
            ∃ t, exec (.depositAtHome r) s = .next t ∧ Answered s t r 0 n ∧ (t.slice r.home).tuples = h.tuples ++ [x]
              ∧ t.nextAge = s.nextAge + 1 ∧ (t.slice r.home).waiters = h.waiters)
          ∧ (h.waiters = [w] → w.serving = false → x.meets w.req = true → w.req.op = .take → n ≤ w.req.len64 →
            ∃ t, exec (.depositAtHome r) s = .next t ∧ Answered s t r 0 n ∧ (t.slice r.home).waiters = [{ w with serving := true }]
              ∧ Delivering s t r.home x w.req (some w.age)))
      ∧ exec (.depositResend r) s = .next (s.arrive (s.arriveIn r.core r.home) (.depositAtHome { r with tries := 0 })))

/-- R172, R180-R182, R392: TRD and TTAKE at their home take the oldest LIVE tuple that matches; one that is too long answers TOOLONG with its length, and no
younger one is tried. With none, .P answers NOMATCH and the others wait. TCANCEL withdraws the oldest waiter of its template, both with CANCELLED, or answers
NOMATCH. A request whose key has moved is sent again to the new home; the sixteenth HOMEMOVED in a row is the result. While the key's range is moved to
another device, a request is queued. -/
def RequestsAtHome : Prop :=
  ∀ (s : State) (r : TupReq) (x : TupleEntry) (l1 l2 : List TupleEntry) (w : WaiterEntry),
    r.host = none → r.remote = none →
    let heap := 1024 * ((s.part r.part).fheap.toNat % 2 ^ 16)
    let n := x.payload.length / 64
    let h := s.slice r.home
    (0 < heap → s.ownsKey r = false → exec (.matchAtHome r) s = .next (s.after 1 (.homemoved r)) ∧ exec (.cancelAtHome r) s = .next (s.after 1 (.homemoved r)))
    ∧ (0 < heap → s.ownsKey r = true → s.rangeHeld r = true →
        exec (.matchAtHome r) s = .next (s.arrive 1 (.matchAtHome r)) ∧ exec (.cancelAtHome r) s = .next (s.arrive 1 (.cancelAtHome r)))
    ∧ (0 < heap → s.ownsKey r = true → s.rangeHeld r = false →
      (h.tuples = l1 ++ x :: l2 → (∀ y ∈ l1, y.taken = true ∨ y.meets r = false) → x.taken = false → x.meets r = true →
        (n ≤ r.len64 → ∃ t, exec (.matchAtHome r) s = .next t ∧ Delivering s t r.home x r none)
        ∧ (r.len64 < n → ∃ t, exec (.matchAtHome r) s = .next t ∧ Answered s t r 4 n ∧ (t.slice r.home) = h))
      ∧ ((∀ y ∈ h.tuples, y.taken = true ∨ y.meets r = false) →
        (r.mode = .p → ∃ t, exec (.matchAtHome r) s = .next t ∧ Answered s t r 1 0 ∧ t.slices = s.slices)
        ∧ (r.mode ≠ .p → h.waiters.length < 2048 → ∃ t, exec (.matchAtHome r) s = .next t
            ∧ (t.slice r.home).waiters = h.waiters ++ [{ age := s.nextAge * 2 ^ 15 + s.plat.device, req := r, serving := false }]
            ∧ t.nextAge = s.nextAge + 1 ∧ t.agenda = s.agenda))
      ∧ (h.waiters.find? (fun w => w.cancelledBy r) = some w → w.req.remote = none → w.req.host = none →
        ∃ t, exec (.cancelAtHome r) s = .next t ∧ Answered s t w.req 3 0 ∧ Answered s t r 3 0
          ∧ (t.slice r.home).waiters = h.waiters.filter fun y => y.age != w.age)
      ∧ ((∀ w ∈ h.waiters, w.cancelledBy r = false) →
        ∃ t, exec (.cancelAtHome r) s = .next t ∧ Answered s t r 1 0 ∧ t.slices = s.slices))
    ∧ (15 ≤ r.tries → ∃ t, exec (.homemoved r) s = .next t ∧ Answered s t r 5 0 ∧ t.slices = s.slices)
    ∧ (r.tries < 15 →
        let h := s.homeVia (clusterOf r.core) r.part r.f0 r.f1
        let again := { r with tries := r.tries + 1, home := h.slice, gen := (s.part r.part).rtgen }
        h.device = s.plat.device →
        exec (.homemoved r) s = .next (s.arrive (s.arriveIn r.core h.slice)
          (if r.op = .dep then .depositAtHome again else if r.op = .cancel then .cancelAtHome again else .matchAtHome again)))

/-- R177, R180, R183, R184: a delivery that is complete writes the header piece and the payload at the area and gives the requester MATCH with the length; a
take that no copy holds back frees its tuple, a read gives its copy back, and the waiter that it served is FREE. -/
def DeliveriesOfTuplesEnd : Prop :=
  ∀ (s : State) (copy core off room k : Nat) (c : Copy) (x : TupleEntry) (o : Outst),
    s.copies.get? copy = some c → s.tupleAt c.slice c.age = some x → c.req.remote = none → c.req.mode ≠ .c → s.mem.wf = true →
    (∀ c ∈ s.cores, c.2.l1d = [] ∧ ∀ r ∈ c.2.atomics, r.old = none) →
    s.holdsFor c.req = true →
    s.areaAt c.req.core (contextKey c.req.part c.req.ctx) c.req.area = some (core, off, room) → 64 + x.payload.length ≤ room →
    s.slotOf c.req.uid = some k → (s.slot k).pend.out.find? (fun o => o.tag == c.req.tag) = some o → Resident (s.slot k) o.reg →
    let n := x.payload.length / 64
    let header := leBytes 4 x.f0.toNat ++ leBytes 4 x.f1.toNat ++ leBytes 4 x.f2.toNat ++ leBytes 4 x.f3.toNat ++ leBytes 2 n
      ++ List.replicate 6 0 ++ leBytes 8 x.sid.toNat ++ leBytes 8 x.cid.toNat ++ List.replicate 24 0
    ∃ t, exec (.tupleDeliveryDone copy) s = .next t
      ∧ t.bytesAt (poolKey core off) (64 + x.payload.length) = header ++ x.payload
      ∧ (∀ b, b < poolKey core off ∨ poolKey core off + 64 + x.payload.length ≤ b → t.mem.read b = s.mem.read b)
      ∧ (t.slot k).regs.get (physAbs o.reg) = { val := BitVec.ofNat 64 (n * 256), mark := .full, poison := false }
      ∧ (c.req.uid, c.req.tag) ∉ (t.core c.req.core).tupOut ∧ t.copies.get? copy = none
      ∧ (∀ a, c.waiter = some a → ∀ y ∈ (t.slice c.slice).waiters, y.age ≠ a)
      ∧ (c.req.op = .take → x.taken = true → x.copies = 0 → ∀ y ∈ (t.slice c.slice).tuples, y.age ≠ c.age)
      ∧ (c.req.op = .rd → x.taken = false → t.tupleAt c.slice c.age = some { x with copies := x.copies - 1 })

/-- R172-R184: tuple requests at their home, and the end of a delivery. Choices of the model that it rests on: log 41, log 42, log 123. -/
def Obligations.TuplesMeetAtTheirHome : Prop := DepositsAtHome ∧ RequestsAtHome ∧ DeliveriesOfTuplesEnd

-- ==== strands, barriers, messages and the scheduler (R102-R144, R150) ====

/-- The issuing slot is its strand's, and its core has nothing that a release must perform, send or tell first: no store, atomic or dirty line, no request that
may leave now, no queue descriptor under change and no fill that only some cores know. -/
def Quiet (s : State) : Prop :=
  s.slotOf s.me.id.uid = some s.cur ∧ (s.core s.myCore).sb = [] ∧ (∀ c ∈ s.cores, c.2.atomics = []) ∧ (s.core s.myCore).l1d = []
    ∧ (∀ u ∈ (s.core s.myCore).unacked, s.sendable s.myCore u = false) ∧ (∀ q ∈ s.drift.queues, q.2.old = none) ∧ ∀ m ∈ s.melts, m.known = none

/-- The key of the issuing strand's context, and its strand-number counter (R106). -/
def myContext (s : State) : Nat := contextKey s.me.id.part s.me.id.ctx

/-- The slot of a strand that has left it: free from the next cycle on (R134). -/
def Vacated (s : State) (u : Slot) : Prop := u = { Slot.empty with front := { Slot.empty.front with readyAt := s.now + 1 } }

/-- What a new strand is to its context and its cluster's queue (R106, R107, R118): entry `e`, with its number, is the last of the queue, one more strand is live,
the context's counter holds the next number, and no other byte of memory changes. -/
def StrandMade (s t : State) (part q ctx : Nat) (e : QEntry) : Prop :=
  let k := contextKey part ctx
  let ccb := hbmKey part (s.context k).ccb.toNat
  let number := max 1 ((s.ccbWord part ctx 24).toNat % 2 ^ 32)
  (t.cluster q).queues.get [] k = (s.cluster q).queues.get [] k ++ [e] ∧ e.strand.toNat = number ∧ e.enq = s.now
    ∧ (t.context k).live = (s.context k).live + 1 ∧ (t.ccbWord part ctx 24).toNat = number + 1
    ∧ (∀ b, (b < ccb + 24 ∨ ccb + 32 ≤ b) → t.mem.read b = s.mem.read b)

/-- A SPAWN's register: PENDING, and its strand's number comes `n` cycles later (R131). -/
def NumberComes (s t : State) (d : Reg) (n number : Nat) : Prop :=
  (d ≠ 0 → t.me.reg d = { val := s.me.val d, mark := .pending, poison := false }) ∧ SameRegsBut s t d
    ∧ { due := s.now + n, ev := .deliver s.me.id.uid s.nextTag (.val (BitVec.ofNat 64 number)), arg := [] } ∈ t.agenda ∧ t.flow = .seq
    ∧ ∀ i, i ≠ s.cur → t.slot i = s.slot i

/-- R105, R106, R118, R131, R132: a SPAWN that passes its checks makes a record of PC, the PLACE and PRI of its second operand, the parent's PW, FMT and CTX and the
first NREG out-registers, gives it the context's next strand number, counts it live, puts it at the end of the queue of the parent's cluster, and delivers the number
20 cycles after issue. -/
def SpawnMakesAStrand : Prop :=
  ∀ (s : State) (d a b : Reg) (xa xb : Bool) (g : PReg) (nreg : BitVec 4),
    let pw := (s.rd b).toNat
    let number := max 1 ((s.ccbWord s.me.id.part s.me.id.ctx 24).toNat % 2 ^ 32)
    let i := Instr.spawn d a b xa xb g nreg
    s.src.pred g = true → s.ready ([srcA a xa, srcB b xb] ++ outRegs nreg) [d] true = true → nreg.toNat ≤ 6 →
    (s.me.status.tl < 2 → s.me.status.priv = .u → 2 ^ 20 ≤ pw → TrapsAs i s s 8 0 (s.rd b))
    ∧ (pw < 2 ^ 20 →
      (s.me.status.tl < 2 → placeAssigned (pw % 2 ^ 16) = false → TrapsAs i s s 8 0 (s.rd b))
      ∧ (s.me.status.tl < 2 → placeAssigned (pw % 2 ^ 16) = true → pw % 2 ^ 16 < 0x8018 → s.usable s.me.id.part (clusterOf s.myCore) = false →
          TrapsAs i s s 8 1 (s.rd b))
      ∧ (placeAssigned (pw % 2 ^ 16) = true → (0x8018 ≤ pw % 2 ^ 16 ∨ s.usable s.me.id.part (clusterOf s.myCore) = true) →
        (s.me.status.tl < 2 → ((s.rd a).toNat % 8 ≠ 0 ∨ 2 ^ 63 ≤ (s.rd a).toNat) → TrapsAs i s s 8 2 (s.rd a))
        ∧ ((s.rd a).toNat % 8 = 0 → (s.rd a).toNat < 2 ^ 63 →
          (s.me.status.tl < 2 → number = 2 ^ 32 - 1 → TrapsAs i s s 8 3 0)
          ∧ (number ≠ 2 ^ 32 - 1 → s.queued (clusterOf s.myCore) (myContext s) < 4096 → Quiet s → s.melts = [] → s.partials = [] → s.mem.wf = true →
            ∃ t e, exec i s = .next t ∧ StrandMade s t s.me.id.part (clusterOf s.myCore) s.me.id.ctx e ∧ NumberComes s t d 20 number
              ∧ e.record.pc = s.rd a ∧ e.acq = some (if pw % 2 ^ 16 = 0xfffe then .die else .cluster)
              ∧ e.record.ctl = BitVec.ofNat 64 (pw % 2 ^ 16 * 2 ^ 48 + nreg.toNat * 2 ^ 44 + pw / 2 ^ 16 % 16 * 2 ^ 40 + s.src.pw.toNat / 2 * 2 ^ 33
                  + s.src.fmt.toNat * 2 ^ 16 + s.src.id.ctx)
              ∧ (∀ k, k < nreg.toNat → e.record.s[k]? = some (s.rd (BitVec.ofNat 5 (24 + k))))))))

/-- R129: the root form of SPAWN, at S or M: the record of a scratchpad becomes a strand of its own context in the cluster that the operand names, a release at
DEVICE; its number comes after 20 cycles, 60 from another die. -/
def RootSpawnsMakeAStrand : Prop :=
  ∀ (s : State) (d a b : Reg) (xa xb : Bool) (g : PReg) (core off : Nat),
    let pw := (s.rd b).toNat
    let q := pw / 2 ^ 18 % 4 * 16 + pw / 2 ^ 14 % 16
    let part := s.me.id.part
    let r := recordOf (s.bytesAt (poolKey core off) 64)
    let ctx := r.ctl.toNat % 2 ^ 16
    let number := max 1 ((s.ccbWord part ctx 24).toNat % 2 ^ 32)
    let i := Instr.spawn d a b xa xb g 0
    s.src.pred g = true → s.ready [srcA a xa, srcB b xb] [d] true = true → pw / 2 ^ 20 % 2 = 1 → s.me.status.priv ≠ .u →
    (s.me.status.tl < 2 → (pw / 2 ^ 21 % 2 = 1 ∨ pw % 2 ^ 14 ≠ 0 ∨ s.usable part q = false) → TrapsAs i s s 8 14 (s.rd b))
    ∧ (pw / 2 ^ 21 % 2 = 0 → pw % 2 ^ 14 = 0 → s.usable part q = true →
      (s.me.status.tl < 2 → (2 ^ 27 ≤ (s.rd a).toNat ∨ areaMalformed (s.rd a).toNat = true) → TrapsAs i s s 8 15 (s.rd a))
      ∧ ((s.rd a).toNat < 2 ^ 27 → areaMalformed (s.rd a).toNat = false → s.padAt s.src s.myCore (s.rd a).toNat 64 = some (core, off) →
        (s.cluster q).entryOf ctx ≠ none → s.recordReason q part ctx false r = none → number ≠ 2 ^ 32 - 1 → s.queued q (contextKey part ctx) < 4096 →
        Quiet s → s.melts = [] → s.partials = [] → s.mem.wf = true →
        ∃ t e, exec i s = .next t ∧ StrandMade s t part q ctx e ∧ NumberComes s t d (if q / 16 = dieOf s.myCore then 20 else 60) number
          ∧ e.record = r ∧ e.acq = some .device))

/-- R133, R134: EXIT, YIELD and SUSPEND free the slot. EXIT destroys the strand's names and withdraws its tuple waits; YIELD puts its record in transit, to its cluster's
queue after 8 cycles, under the same number; SUSPEND stores the record, in another device's memory once that device has acknowledged it. EXIT and SUSPEND leave one live strand
less. Each traps in a completion-interrupt handler, and YIELD and SUSPEND where the strand would lose a frame, a name or a result. -/
def StrandsLeaveTheirSlots : Prop :=
  ∀ (s u : State) (a : Reg) (xa : Bool) (g : PReg) (x : Acc),
    s.src.pred g = true →
    let uid := s.me.id.uid
    let live := fun (t : State) => (t.context (myContext s)).live
    let left := fun (t : State) => Vacated s (t.slot s.cur) ∧ t.flow = .retired ∧ ∀ i, i ≠ s.cur → t.slot i = s.slot i
    let v := fun (n : Reg) => if (s.src.reg n).mark = .full then s.src.val n else 0
    let r : Record := { pc := (s.src.pc + 8) &&& 0x7ffffffffffffff8, s := [v 8, v 9, v 10, v 11, v 12, v 13],
                        ctl := BitVec.ofNat 64 (s.src.id.place.toNat * 2 ^ 48 + 6 * 2 ^ 44 + s.src.pri.toNat * 2 ^ 40 + s.src.pw.toNat / 2 * 2 ^ 33
                                  + s.src.fmt.toNat * 2 ^ 16 + s.src.id.ctx) }
    let parks := s.me.status.ui = false ∧ s.me.depth = 0 ∧ s.holdsRegName uid = false ∧ s.src.pend.out = []
      ∧ ∀ n : Reg, 8 ≤ n.toNat → n.toNat < 14 → (s.src.reg n).poison = false
    let acts := s.remoteOpen s.myCore uid = false ∧ Quiet s
    (s.me.status.ui = false → acts → (∀ c ∈ s.cmds, c.2.uid ≠ uid) →
      ∃ t, exec (.exit g) s = .next t ∧ left t ∧ live t = live s - 1
        ∧ (∀ c i, t.mintEntry c i = if (s.mintEntry c i).state ≠ .free ∧ (s.mintEntry c i).uid = uid then (s.mintEntry c i).freed else s.mintEntry c i)
        ∧ ∀ h, ∀ w ∈ (t.slice h).waiters, w.req.uid = uid → w.req.remote = none → w.req.mode = .c ∨ w.req.op = .dep)
    ∧ (parks → acts →
      ∃ t, exec (.yield g) s = .next t ∧ left t ∧ live t = live s
        ∧ { due := s.now + 8, ev := .yieldRecordEnqueue s.me.id.part (clusterOf s.myCore) s.me.id.ctx
              { record := r, strand := s.me.id.strand, enq := s.now + 8, addr := 0, acq := some .device }, arg := [] } ∈ t.agenda
        ∧ (t.cluster (clusterOf s.myCore)).transit.get 0 (myContext s) = (s.cluster (clusterOf s.myCore)).transit.get 0 (myContext s) + 1
        ∧ ∀ b, t.mem.read b = s.mem.read b)
    ∧ (parks → acts → s.ready [srcA a xa] [] false = true → (∀ v, s.me.front.wait ≠ .served v) → s.mustWalk 64 (s.rd a) = false →
        s.access s.whoMe .store 64 (s.rd a) = (u, .ok x) →
        s.melts = [] → s.partials = [] → 2 ≤ live s → s.mem.wf = true → ((∃ l, x.target = .hbm l) ∨ ∃ p l, x.target = .host p l) →
        let key := targetKey s.me.id.part x.target
        ∃ t, exec (.suspend a xa g) s = .next t ∧ left t ∧ live t = live s - 1
          ∧ t.bytesAt key 64 = leBytes 8 r.pc.toNat ++ leBytes 8 r.ctl.toNat ++ (r.s.map fun v => leBytes 8 v.toNat).flatten
          ∧ ∀ b, b < key ∨ key + 64 ≤ b → t.mem.read b = s.mem.read b)
    ∧ (s.ready [srcA a xa] [] false = true → (∃ v, s.me.front.wait = .served v) → 2 ≤ live s →
        ∃ t, exec (.suspend a xa g) s = .next t ∧ left t ∧ live t = live s - 1 ∧ t.mem = s.mem)
    ∧ (s.me.status.tl < 2 → s.remoteOpen s.myCore uid = false → ∀ i ∈ [Instr.yield g, .suspend a xa g], s.ready [srcA a xa] [] false = true → (∀ v, s.me.front.wait ≠ .served v) →
        (s.me.status.ui = true → TrapsAs i s s 8 7 0)
        ∧ (s.me.status.ui = false → s.me.depth ≠ 0 → TrapsAs i s s 8 4 (BitVec.ofNat 64 s.me.depth))
        ∧ (s.me.status.ui = false → s.me.depth = 0 → s.holdsRegName uid = true → TrapsAs i s s 8 5 0)
        ∧ (s.me.status.ui = false → s.me.depth = 0 → s.holdsRegName uid = false → s.src.pend.out ≠ [] → TrapsAs i s s 8 6 0))
    ∧ (s.me.status.tl < 2 → s.me.status.ui = true → TrapsAs (.exit g) s s 8 7 0)

/-- R105, R106, R118, R129, R131-R134: strands begin and leave. Choices of the model that it rests on: log 33. -/
def Obligations.StrandsBeginAndLeave : Prop := SpawnMakesAStrand ∧ RootSpawnsMakeAStrand ∧ StrandsLeaveTheirSlots

/-- R120, R121, R135-R139: barriers. BARSET writes the count of a counter at which nothing has arrived. BAR makes its strand wait; the arrival that completes the round starts
the release, which comes after the scope's time, frees every waiter in one step, one that a handler has set aside before the handler's own, and advances ROUND. BARQ reads the counter. At a GROUP or DOMAIN counter, what other devices send counts as well: arrivals, and the COUNT of a BARSET. Choices of the model that it rests on: log 20, log 142. -/
def Obligations.BarriersReleaseTheirRound : Prop :=
  ∀ (s : State) (d a b : Reg) (xa xb : Bool) (g : PReg) (sc : Scope) (key i : Nat) (u : Nat),
    let n := (s.rd a).toNat
    let c := (s.rd b).toNat
    let mine := s.barrierKey sc n
    let x := s.barrier mine
    (s.src.pred g = true → n < 16 → s.awaitsRemote sc = false → Quiet s →
      (s.ready [srcA a xa, srcB b xb] [] false = true → 1 ≤ c → c ≤ barrierLimit sc → x.arrived = 0 →
        ∃ t, exec (.barset a b xa xb g sc) s = .next t ∧ t.barrier mine = { x with count := c } ∧ t.me.regs = s.me.regs ∧ t.flow = .seq
          ∧ (∀ k, k ≠ mine → t.barrier k = s.barrier k) ∧ SameElsewhere s t)
      ∧ (s.ready [srcA a xa] [] false = true → x.count ≠ 0 → x.releasing = false →
        ∃ t, exec (.bar a xa g sc) s = .next t ∧ t.me.front = { s.me.front with wait := .barrier mine } ∧ t.me.regs = s.me.regs ∧ SameElsewhere s t ∧ t.flow = .seq
          ∧ t.barrier mine = { x with arrived := x.arrived + 1, waiters := x.waiters ++ [s.me.id.uid], releasing := x.arrived + 1 == x.count }
          ∧ (x.arrived + 1 = x.count →
              { due := s.now + releaseTime (barrierScope mine), ev := .barrierRelease mine 0, arg := [] } ∈ t.agenda))
      ∧ (s.ready [srcA a xa] [d] true = true →
        ∃ t, exec (.barq d a xa g sc) s = .next t
          ∧ BeganWithin s t d .arith (releaseTime sc.code)
              (.val (BitVec.ofNat 64 (x.round.toNat * 2 ^ 56 + x.count % 2 ^ 28 * 2 ^ 28 + x.arrived % 2 ^ 28)))))
    ∧ (s.src.pred g = true → n < 16 → s.me.status.tl < 2 →
      (s.ready [srcA a xa, srcB b xb] [] false = true →
        ((c = 0 ∨ barrierLimit sc < c) → TrapsAs (.barset a b xa xb g sc) s s 8 9 (s.rd b))
        ∧ (1 ≤ c → c ≤ barrierLimit sc → x.arrived ≠ 0 → TrapsAs (.barset a b xa xb g sc) s s 8 10 (s.rd a)))
      ∧ (s.ready [srcA a xa] [] false = true → x.count = 0 → TrapsAs (.bar a xa g sc) s s 8 11 (s.rd a)))
    ∧ (s.argAt 0 = 0 → (s.barrier key).releasing = true → (s.barrier key).waiters = [u] → (s.barrier key).next = [] → s.slotOf u = some i →
        ∃ t, exec (.barrierRelease key 0) s = .next t
          ∧ (match (s.slot i).front.held.find fun _ w => w == .barrier key with
            | none => (s.slot i).front.wait = .barrier key → t.slot i = { s.slot i with front := { (s.slot i).front with wait := .none } }
            | some p => t.slot i = { s.slot i with front := { (s.slot i).front with held := (s.slot i).front.held.del p.1 } })
          ∧ t.barrier key = { s.barrier key with round := (s.barrier key).round + 1, arrived := 0, releasing := false, waiters := [] })
    ∧ (s.argAt 0 = 0 → (s.barrier key).releasing = false → exec (.barrierRelease key 0) s = .next s)
    ∧ (5 ≤ barrierScope key → s.argAt 0 ≠ 0 → (s.barrier key).arrived = 0 → s.argAt 0 ≤ barrierLimit (scopeOfKey key) →
        ∃ t, exec (.barrierRelease key 0) s = .next t ∧ t.barrier key = { s.barrier key with count := s.argAt 0 } ∧ t.slots = s.slots)
    ∧ (5 ≤ barrierScope key → s.argAt 0 = 0 → u ≠ 0 → (s.barrier key).releasing = false → (s.barrier key).arrived + u ≤ (s.barrier key).count →
        ∃ t, exec (.barrierRelease key u) s = .next t ∧ t.slots = s.slots
          ∧ t.barrier key = { s.barrier key with arrived := (s.barrier key).arrived + u,
                                                 releasing := (s.barrier key).arrived + u == (s.barrier key).count })

/-- `t` has, beyond the agenda of `s`, a step of a message, with the numbers `arg` that it takes, between cores `a` and `b` (R124): 4 cycles from now in a cluster; to another cluster or die at a free
time, so that a message and its answer take at most 32 or 120 cycles. -/
def MessageDue (s t : State) (a b : Nat) (e : Instr) (arg : List Nat) : Prop :=
  ∃ j, { due := s.now + j, ev := e, arg := arg } ∈ t.agenda
    ∧ (if clusterOf a = clusterOf b then j = 4 else 1 ≤ j ∧ j ≤ (if dieOf a = dieOf b then 16 else 60))

/-- R122-R126, R141-R143: messages. MFS of MSGIN waits at its core for the oldest message of its virtual core and its context, which its delivery takes from the queue, with MSGSRC;
MTS of MSGOUT sends the value and waits for the answer, which lets the bundle complete, makes it trap with class 1, detail 8 where its source has X, or lets it send
again 64 cycles later: of its sends, the one that the step's number names. A receive queue of 16 entries accepts for the holder of the core's slice. Choices of the model that it rests on: log 10, log 50. -/
def Obligations.MessagesAreAcceptedOrRefused : Prop :=
  ∀ (s : State) (d a : Reg) (xa : Bool) (g : PReg) (f : MsgFlit) (uid i tag : Nat) (v : Word) (o : Outst),
    let me := s.virtualCore s.cur
    let quiet := { s.me.front with wait := .none }
    let waiter := fun (b : Bool) => ({ uid := s.me.id.uid, slot := s.cur, tag := s.nextTag, served := b } : MsgWaiter)
    (s.src.pred g = true → s.ready [] [d] true = true → (s.core s.myCore).waiters = [] →
      ∃ t, exec (.mfs d 10 g) s = .next t ∧ Began s t d .msgin ∧ (t.core s.myCore).recvq = (s.core s.myCore).recvq
        ∧ ((∃ f ∈ (s.core s.myCore).recvq, f.dst = me ∧ f.uid / 2 ^ 32 = s.me.id.uid / 2 ^ 32) →
            (t.core s.myCore).waiters = [waiter true] ∧ { due := s.now + 1, ev := .deliver s.me.id.uid s.nextTag .msg, arg := [] } ∈ t.agenda)
        ∧ ((∀ f ∈ (s.core s.myCore).recvq, ¬ (f.dst = me ∧ f.uid / 2 ^ 32 = s.me.id.uid / 2 ^ 32)) → (t.core s.myCore).waiters = [waiter false] ∧ t.agenda = s.agenda))
    ∧ (s.slotOf uid = some i → (s.slot i).pend.out.find? (fun o => o.tag == tag) = some o → Resident (s.slot i) o.reg →
        (s.core (coreOf i)).waiters.any (fun w => w.tag == tag) = true →
        (s.core (coreOf i)).recvq.find? (fun f => f.dst == s.virtualCore i && f.uid / 2 ^ 32 == uid / 2 ^ 32) = some f →
        ∃ t, exec (.deliver uid tag .msg) s = .next t ∧ (t.slot i).regs.get (physAbs o.reg) = { val := f.value, mark := .full, poison := false }
          ∧ (t.slot i).msgsrc = BitVec.ofNat 64 (f.slot * 2 ^ 26 + (s.cidOf f.core).toNat)
          ∧ (t.core (coreOf i)).recvq = (s.core (coreOf i)).recvq.erase f
          ∧ (t.core (coreOf i)).waiters = (s.core (coreOf i)).waiters.filter (fun w => w.tag != tag))
    ∧ (s.src.pred g = true → s.ready [srcA a xa] [] false = true → Quiet s →
      (s.me.front.wait = .none → s.msgOk s.me.msgdst = true →
        ∃ t m, exec (.mts 9 a xa g) s = .next t ∧ t.me.front = { s.me.front with wait := .send xa m } ∧ t.me.regs = s.me.regs ∧ t.flow = .held
          ∧ MessageDue s t me (s.me.msgdst.toNat % 2 ^ 11) (.messageFlit m) []
          ∧ m = { dst := s.me.msgdst.toNat % 2 ^ 11, value := s.rd a, ctx := s.me.id.ctx, core := me, slot := segVslot s.me.id.seg,
                  uid := s.me.id.uid, xa := xa, num := s.nextTag })
      ∧ (s.me.status.tl < 2 → s.me.front.wait = .none → s.msgOk s.me.msgdst = false → TrapsAs (.mts 9 a xa g) s s 8 13 s.me.msgdst)
      ∧ (s.me.front.wait = .served v → exec (.mts 9 a xa g) s = .next { s.setSlot s.cur { s.me with front := quiet } with flow := .seq })
      ∧ (s.me.status.tl < 2 → s.me.front.wait = .refused →
          ∃ t, exec (.mts 9 a xa g) s = .next t ∧ Trapped (s.setSlot s.cur { s.me with front := quiet }) t 1 8 (BitVec.ofNat 64 a.toNat)))
    ∧ (let core := s.physCore f.dst
       ((s.core core).recvq.length < 16 → s.holds core (f.uid / 2 ^ 32) = true → (s.core core).waiters = [] →
          ∃ t, exec (.messageFlit f) s = .next t ∧ (t.core core).recvq = (s.core core).recvq ++ [f]
            ∧ (∀ i, (t.slot i).regs = (s.slot i).regs ∧ (t.slot i).pc = (s.slot i).pc) ∧ MessageDue s t f.core f.dst (.messageAnswer f.uid true) [f.num])
       ∧ ((16 ≤ (s.core core).recvq.length ∨ s.holds core (f.uid / 2 ^ 32) = false) →
          ∃ t, exec (.messageFlit f) s = .next t ∧ t.cores = s.cores ∧ t.slots = s.slots ∧ MessageDue s t f.core f.dst (.messageAnswer f.uid false) [f.num]))
    ∧ (s.slotOf uid = some i → (s.slot i).front.wait = .send xa f → f.xa = xa → (∀ w ∈ (s.slot i).front.held, ∀ y h, w.2 = .send y h → h.num ≠ f.num) →
        let u := s.slot i
        let waits := fun (t : State) (w : Wait) => t.slot i = { u with front := { u.front with wait := w, held := (t.slot i).front.held } }
          ∧ (∀ k, (t.slot i).front.held.get? k = u.front.held.get? k) ∧ ∀ k, k ≠ i → t.slot k = s.slot k
        (s.argAt 0 = f.num →
          (∃ t, exec (.messageAnswer uid true) s = .next t ∧ waits t (.served 0) ∧ t = { s with slots := t.slots })
          ∧ (∃ t, exec (.messageAnswer uid false) s = .next t ∧ waits t (if xa then .refused else .send xa f)
              ∧ t.agenda = s.agenda ++ (if xa = true then [] else [{ due := s.now + 64, ev := .messageResend uid, arg := [f.num] }]))
          ∧ (xa = false → ∃ t, exec (.messageResend uid) s = .next t ∧ MessageDue s t f.core f.dst (.messageFlit f) [] ∧ t.slots = s.slots))
        ∧ (∀ b, s.argAt 0 ≠ f.num → (∀ w ∈ u.front.held, ∀ y h, w.2 = .send y h → h.num ≠ s.argAt 0) →
            ∃ t, exec (.messageAnswer uid b) s = .next t ∧ waits t u.front.wait ∧ t.agenda = s.agenda))

/-- What the refusal of a record leaves (R104, R118): its reason and address stand in the exception word, or OVERRUN beside an earlier one, and its strand is live
no more. -/
def Refused (s t : State) (part ctx : Nat) (addr : Word) (n : Nat) : Prop :=
  let old := s.ccbWord part ctx 96
  let k := contextKey part ctx
  (t.context k).live = (s.context k).live - 1
    ∧ t.ccbWord part ctx 96 = if old.getLsbD 0 then old ||| 2 else BitVec.ofNat 64 (addr.toNat / 64 * 64 + n * 4) ||| 1

/-- R104, R107-R109, R118, R134, R150: from the queue into a slot. A record that has a free slot leaves the queue, at most one every 4 cycles; its slot is chosen,
and loaded 16 cycles later or more, after the pool has been cleared where the context is new to the core. A record that no core can run is refused at its choice, one
that fails another check of R104 at the load of its slot, which is then free. -/
def RecordsAreDispatched : Prop :=
  ∀ (s : State) (q k v core i n : Nat) (e : QEntry),
    let c := s.cluster q
    let part := k / 65536
    let ctx := k % 65536
    let plain := s.mem.wf = true ∧ s.melts = [] ∧ s.partials = [] ∧ (∀ c ∈ s.cores, c.2.atomics = [])
    (s.holderKey q = some k → c.saving = none → (s.context k).dead = false → c.nextLoad ≤ s.now → c.queues.get [] k = [e] → (s.context k).overflow = [] →
      (s.noCore q part e.record = false → s.coreFor q e.record = some (v, core) → s.freeSlotOf core = some i →
        ∃ t j, exec (.dispatchRecord q) s = .next t ∧ (t.cluster q).queues.get [] k = [] ∧ (t.cluster q).nextLoad = s.now + 4
          ∧ (t.slot i).phase = .chosen ∧ (t.slot i).incoming = some e ∧ (t.slot i).id.strand = e.strand
          ∧ (t.slot i).id.part = part ∧ (t.slot i).id.ctx = ctx ∧ (t.slot i).id.place = BitVec.ofNat 16 (e.record.ctl.toNat / 2 ^ 48)
          ∧ (∀ x, x ≠ i → t.slot x = s.slot x) ∧ t.mem = s.mem ∧ 16 ≤ j ∧ { due := s.now + j, ev := .slotLoad i, arg := [] } ∈ t.agenda
          ∧ ((s.core core).poolFor ≠ some (k, (s.context k).latch) →
              3088 ≤ j ∧ (t.core core).poolFor = some (k, (s.context k).latch) ∧ (t.core core).poolWord = (s.context k).pool
              ∧ { due := s.now + 3072, ev := .poolClear core, arg := [] } ∈ t.agenda))
      ∧ (s.noCore q part e.record = true → 2 ≤ (s.context k).live → plain → s.ccbWord part ctx 64 = 0 →
        ∃ t, exec (.dispatchRecord q) s = .next t ∧ (t.cluster q).queues.get [] k = [] ∧ t.slots = s.slots
          ∧ Refused s t part ctx e.addr ((s.recordReason q part ctx true e.record).getD 4)))
    ∧ (let t0 := s.slot i
       t0.phase = .chosen → t0.incoming = some e → s.recordReason (clusterOf (coreOf i)) t0.id.part t0.id.ctx true e.record = some n →
        2 ≤ (s.context (contextKey t0.id.part t0.id.ctx)).live → plain → s.ccbWord t0.id.part t0.id.ctx 64 = 0 →
        ∃ t, exec (.slotLoad i) s = .next t ∧ Vacated s (t.slot i) ∧ (∀ x, x ≠ i → t.slot x = s.slot x) ∧ Refused s t t0.id.part t0.id.ctx e.addr n)

/-- R35, R36, R132, R150, R301: the pool's clearing leaves zero in every byte of the pool; a slot whose record passes R104 is loaded with the record's PC and
predicates, and with its NREG values from s8 upward, the other registers IDLE; a register clear makes the IDLE registers zero and FULL. -/
def SlotsAreLoaded : Prop :=
  ∀ (s : State) (core i : Nat) (e : QEntry),
    (∃ t, exec (.poolClear core) s = .next t ∧ t.slots = s.slots ∧ (t.core core).written = []
      ∧ (∀ off, off < 2 ^ 20 → t.mem.read (poolKey core off) = 0)
      ∧ ∀ b, b < poolKey core 0 ∨ poolKey core (2 ^ 20) ≤ b → t.mem.read b = s.mem.read b)
    ∧ ((s.slot i).phase = .chosen → (s.slot i).incoming = some e → (∀ c ∈ s.cores, c.2.l1d = []) →
      let t0 := s.slot i
      s.recordReason (clusterOf (coreOf i)) t0.id.part t0.id.ctx true e.record = none →
      let w := s.ccbWord t0.id.part t0.id.ctx 0
      let n := e.record.ctl.toNat / 2 ^ 44 % 16
      ∃ t, exec (.slotLoad i) s = .next t ∧ (t.slot i).pc = e.record.pc ∧ (t.slot i).id = t0.id ∧ (t.slot i).depth = 0
        ∧ (t.slot i).pw = BitVec.ofNat 8 (e.record.ctl.toNat / 2 ^ 32) ||| 1 ∧ (t.slot i).fmt = BitVec.ofNat 4 (e.record.ctl.toNat / 2 ^ 16)
        ∧ (t.slot i).pri = BitVec.ofNat 4 (e.record.ctl.toNat / 2 ^ 40)
        ∧ (t.slot i).tvec = s.ccbWord t0.id.part t0.id.ctx 16 &&& 0x7ffffffffffff800
        ∧ (t.slot i).status.ui = false ∧ (t.slot i).status.tl = 0 ∧ (t.slot i).status.startclr = w.getLsbD 16
        ∧ (t.slot i).status.priv = (if w.toNat / 2 ^ 17 % 4 = 0 then .u else if w.toNat / 2 ^ 17 % 4 = 1 then .s else .m)
        ∧ (w.getLsbD 16 = false → (t.slot i).phase = .live)
        ∧ (w.getLsbD 16 = true → (t.slot i).phase = .clearing ∧ { due := s.now + 24, ev := .registerClear i, arg := [] } ∈ t.agenda)
        ∧ (∀ j, j < n → (t.slot i).reg (BitVec.ofNat 5 (8 + j)) = { val := e.record.s.getD j 0, mark := .full, poison := false })
        ∧ (∀ r : Reg, r ≠ 0 → (r.toNat < 8 ∨ 8 + n ≤ r.toNat) → ((t.slot i).reg r).mark = .idle)
        ∧ (∀ h : HReg, h ≠ 0 → ((t.slot i).handle h).mark = .idle) ∧ (∀ x, x ≠ i → t.slot x = s.slot x) ∧ ∀ b, t.mem.read b = s.mem.read b)
    ∧ ((s.slot i).phase = .clearing →
      ∃ t, exec (.registerClear i) s = .next t ∧ (t.slot i).phase = .live ∧ (t.slot i).pc = (s.slot i).pc
        ∧ (∀ k : Fin 80, (t.slot i).regs.get k = if ((s.slot i).regs.get k).mark = .idle then { val := 0, mark := .full, poison := false }
            else (s.slot i).regs.get k)
        ∧ (∀ k : Fin 16, (t.slot i).handles.get k = if ((s.slot i).handles.get k).mark = .idle then { val := 0, mark := .full }
            else (s.slot i).handles.get k)
        ∧ (∀ x, x ≠ i → t.slot x = s.slot x) ∧ t = { s with slots := t.slots })

/-- R107, R110, R115, R116, R119, R134: the queues and the slices. A yielded record enters its queue and is in transit no more. An idle cluster whose holder has had no record for 1,024 cycles takes a
record of PLACE 0xFFFE from another cluster of its die, whose own count begins anew when that was its last. A slice ends at its time, when its holder is pre-empted if it
has a strand or a record there, or lives on elsewhere, or early when the holder has nothing left; the only runnable context becomes the next holder for 131,072
cycles. -/
def QueuesAndSlices : Prop :=
  ∀ (s : State) (part q p ctx : Nat) (e : QEntry) (entry : Nat),
    let k := contextKey part ctx
    let c := s.cluster q
    let queue := fun (t : State) (q : Nat) => (t.cluster q).queues.get [] k
    (0 < c.transit.get 0 k → s.queued q k < 4096 →
      ∃ t, exec (.yieldRecordEnqueue part q ctx e) s = .next t ∧ queue t q = queue s q ++ [e] ∧ (t.cluster q).transit.get 0 k = c.transit.get 0 k - 1
        ∧ t.slots = s.slots)
    ∧ (s.holderKey q = some k → queue s q = [] → c.saving = none → (s.virtualCores q).any (fun x => (s.freeSlotOf x.2).isSome) = true →
        c.emptyFrom.get 0 k + 1024 ≤ s.now → (s.context k).overflow = [] → p / 16 = q / 16 → p ≠ q → (s.cluster p).entryOf (k % 65536) ≠ none →
        s.ownerOf p = some (k / 65536) → queue s p = [e] → e.record.ctl.toNat / 2 ^ 48 = 0xfffe →
        (∀ x, x / 16 = q / 16 → x ≠ q → x ≠ p → s.stealable x k = []) →
        ∃ t, exec (.steal q) s = .next t ∧ queue t q = [e] ∧ queue t p = [] ∧ (t.cluster p).emptyFrom.get 0 k = s.now ∧ t.slots = s.slots ∧ t.mem = s.mem)
    ∧ (s.now < c.sliceEnd → exec (.sliceExpiry q) s = .next s)
    ∧ (c.sliceEnd ≤ s.now → c.saving = none → c.holder = some entry →
        (s.slotsOf q (s.entryKey q entry) ≠ [] ∨ s.recordsIn q (s.entryKey q entry) ≠ 0 ∨ (s.context (s.entryKey q entry)).live ≠ 0) →
        ∃ t, exec (.sliceExpiry q) s = .next t ∧ (t.cluster q).saving = some entry
          ∧ { due := s.now + 1, ev := .contextSave q entry, arg := [] } ∈ t.agenda ∧ t.mem = s.mem)
    ∧ (c.saving = none → c.holder = none → (List.range 16).filter (s.runnable q) = [entry] → entry ∉ c.imaged →
        ∃ t, exec (.sliceEarlyEnd q) s = .next t ∧ (t.cluster q).holder = some entry ∧ (t.cluster q).sliceEnd = s.now + 131072
          ∧ { due := s.now, ev := .dispatchRecord q, arg := [] } ∈ t.agenda ∧ { due := s.now + 131072, ev := .sliceExpiry q, arg := [] } ∈ t.agenda
          ∧ t.slots = s.slots ∧ t.mem = s.mem)
    ∧ (c.saving = none → c.holder = some entry → s.slotsOf q (s.entryKey q entry) ≠ [] → exec (.sliceEarlyEnd q) s = .next s)

/-- R35, R36, R104-R119, R134, R150: the scheduler, from the queues into the slots. Choices of the model that it rests on: log 48, log 52, log 117, log 127, log 128, log 129, log 146. -/
def Obligations.StrandsAreScheduled : Prop := RecordsAreDispatched ∧ SlotsAreLoaded ∧ QueuesAndSlices

-- ==== engine commands (R232-R294) ====

/-- Nothing is written at a home while an atomic stands between its load and its store, a partial result waits, or a granule melts. -/
def PlainHomes (s : State) : Prop :=
  s.melts = [] ∧ s.partials = [] ∧ s.mem.wf = true ∧ ∀ c ∈ s.cores, ∀ r ∈ c.2.atomics, r.old = none

/-- What a dispatch, or a RESUME, leaves as it was: every register of the strand, every other slot, every byte of memory, every other command. -/
def OnlyQueued (s t : State) : Prop :=
  t.me = { s.me with pend := t.me.pend } ∧ t.me.pend.out = s.me.pend.out ∧ SameElsewhere s t ∧ t.nextCmd = s.nextCmd + 1
    ∧ (∀ k, k ≠ s.nextCmd → t.cmds.get? k = s.cmds.get? k)
    ∧ t = { s with slots := t.slots, cores := t.cores, clusters := t.clusters, slices := t.slices, cmds := t.cmds, nextCmd := t.nextCmd, agenda := t.agenda,
                   nextTag := t.nextTag, spent := t.spent, flow := .seq }

/-- The step in which a unit of a core looks for a command to start. -/
def unitStep (core : Nat) : CmdUnit → Instr
  | .vector => .vectorGrant (quadOf core)
  | .matrix => .leaseGrant (quadOf core)
  | .copy => .copyEngineStart (clusterOf core * 2 + coreNo core % 2)

/-- R44, R238-R241, R270: every command of an AE word (VADD, VSUB, VMUL, VFMA, VMAX, VMIN, VABS, VNEG, VEXP2, VLOG2, VRCP, VRSQ, VCVT, VSCALE, VSEL, VAND, VOR, VXOR, VFILL,
VCOPY, VTRANS, VGATHER, VSCATTER, VCMP, VRED, VSHIFT, MMA, MMAS, MZERO, MDRAIN, MACCLD, CPY, CPYG, CPYS, CPYR; `r` are the registers of its word) waits while its unit's queue of two is full; it
traps with the detail and the operand that the checks name; else a command enters the queue with the images, the pair and the formats that its strand has now, and its unit, or for a copy with a
GLOBAL source that consumes nothing the combining node, sees it 2 cycles later. Nothing of the strand or of memory changes. Choices of the model that it rests on: log 62, log 125, log 145. -/
def Obligations.EngineCommandsAreQueued : Prop :=
  ∀ (s : State) (i : Instr) (r : AeRegs), aeRegs i = some r → (∀ c ∈ s.cmds, c.2.owed = false) → s.ready r.sources [] false = true →
    let hd := s.rdH r.hd
    let ha := s.rdH r.ha
    let hb := s.rdH r.hb
    let hl := s.rdH r.hl
    let pair := if r.sc = 0 then none else some (s.rd r.sc, s.rd (r.sc + 1))
    let full := 2 ≤ (s.queueOf s.myCore (cmdUnit i)).length
    let fails := s.commandFail s.issuer i hd ha hb hl (decide (r.hl ≠ 0)) pair
    (full → exec i s = .next { s with flow := .wait })
    ∧ (¬full → s.me.status.tl < 2 → ∀ d o, fails = some (d, o) → TrapsAs i s s 7 d (BitVec.ofNat 64 o))
    ∧ (¬full → s.me.status.tl < 2 → hd.toNat % 16 ∉ [1, 2, 3] → TrapsAs i s s 7 0 0)
    ∧ (¬full → fails = none → Quiet s → s.src.id = s.me.id →
      ∃ t c, exec i s = .next t ∧ t.cmds.get? s.nextCmd = some c ∧ OnlyQueued s t ∧ t.spent = s.spent
        ∧ c.id = s.nextCmd ∧ c.core = s.myCore ∧ c.uid = s.me.id.uid ∧ c.part = s.me.id.part ∧ c.ctx = s.me.id.ctx ∧ c.asid = s.me.id.asid
        ∧ c.priv = s.src.status.priv ∧ c.unit = cmdUnit i ∧ c.ins = i ∧ c.fmt = s.src.fmt ∧ c.hd = hd ∧ c.ha = ha ∧ c.hb = hb ∧ c.hl = hl
        ∧ c.hasComp = decide (r.sc ≠ 0) ∧ (r.sc ≠ 0 → c.target = s.rd r.sc ∧ c.control = s.rd (r.sc + 1))
        ∧ (r.sc = 0 → c.target = 0 ∧ c.control = 1) ∧ c.vcore = segVcore s.me.id.seg ∧ c.strides = s.stridesOf s.issuer hl
        ∧ c.state = .waiting ∧ c.prog = [0, 0, 0, 0, 0] ∧ c.flags = 0 ∧ c.readyAt = s.now + 2 ∧ c.owed = false ∧ c.spent = [] ∧ c.pieces = []
        ∧ c.held = (cmdUnit i == .copy && ha.toNat % 16 == 3 && ha.toNat / 2 ^ 8 % 2 == 0)
        ∧ (c.held = false → { due := s.now + 2, ev := unitStep s.myCore (cmdUnit i), arg := [] } ∈ t.agenda))

/-- R288: HSET replaces one quarter of a handle, the others of an IDLE one becoming zero; HGET reads a quarter. -/
def HandlesAreSetAndRead : Prop :=
  ∀ (s : State) (d : HReg) (e : Reg) (a : Reg) (h : HReg) (q : BitVec 2) (xa : Bool) (g : PReg),
    s.src.pred g = true →
    let quarter := fun (x : HandleImage) (k : Nat) => x.toNat / 2 ^ (64 * k) % 2 ^ 64
    (s.ready [srcA a xa] [] false = true →
      ∃ t, exec (.hset d a q xa g) s = .next t ∧ t.me = { s.me with handles := t.me.handles } ∧ SameElsewhere s t
        ∧ t = { s with slots := t.slots, flow := .seq } ∧ (∀ n : HReg, (d = 0 ∨ n ≠ d) → t.me.handle n = s.me.handle n)
        ∧ (d ≠ 0 → (t.me.handle d).mark = .full ∧ ∀ k, k < 4 → quarter (t.me.handle d).val k =
            if k = q.toNat then (s.rd a).toNat else if (s.src.handle d).mark = .full then quarter (s.src.handle d).val k else 0))
    ∧ LongOf (.hget e h q xa g) s g [srcH h xa] e .arith 2 (BitVec.ofNat 64 (quarter (s.rdH h) q.toNat))

/-- R245, R248, R249, R289-R291: rings and leases. RSET checks its descriptor, loads it, and the strand's next bundle comes 4 cycles later; RPUSH counts one more filled slot, waits for
a full ring and traps on one without slots; LEASE and UNLEASE end the core's lease, and LEASE marks the next. -/
def RingsAndLeases : Prop :=
  ∀ (s : State) (r : BitVec 3) (n : BitVec 5) (a : Reg) (xa : Bool) (g : PReg) (core off id : Nat),
    s.src.pred g = true →
    let v := segVcore s.me.id.seg
    let rid := 8 * v + r.toNat
    let ring := fun (t : State) => (t.core s.myCore).rings.get 0 rid
    let field := fun (x : BitVec 256) (lo n : Nat) => x.toNat / 2 ^ lo % 2 ^ n
    let filled := (field (ring s) 48 16 + 65536 - field (ring s) 32 16) % 65536
    let d := BitVec.ofNat 256 (leNat (s.bytesAt (poolKey core off) 32))
    (s.ready [srcA a xa] [] false = true → (s.rd a).toNat % 32 = 0 → s.ownPad s.issuer (s.rd a).toNat 32 = some (core, off) →
      (s.me.status.tl < 2 → s.ringOk s.issuer d = false → TrapsAs (.rset r a xa g) s s 7 9 5)
      ∧ (s.ringOk s.issuer d = true → s.ringBusy s.myCore v r.toNat = true → exec (.rset r a xa g) s = .next { s with flow := .wait })
      ∧ (s.ringOk s.issuer d = true → s.ringBusy s.myCore v r.toNat = false →
          ∃ t x, exec (.rset r a xa g) s = .next t ∧ t.agenda = s.agenda ++ [{ due := s.now, ev := .ringLoad s.myCore rid, arg := [x] }]
            ∧ x / 2 ^ 32 = d.toNat / 2 ^ 32 ∧ x % 2 ^ 32 = withCore v (d.toNat % 2 ^ 32)
            ∧ t.me = { s.me with front := { s.me.front with readyAt := s.now + 4 } } ∧ SameElsewhere s t
            ∧ t = { s with slots := t.slots, agenda := t.agenda, flow := .seq }))
    ∧ (s.me.status.tl < 2 → field (ring s) 64 16 = 0 → TrapsAs (.rpush r g) s s 7 9 0)
    ∧ (1 ≤ field (ring s) 64 16 → field (ring s) 64 16 ≤ filled → exec (.rpush r g) s = .next { s with flow := .wait })
    ∧ (filled < field (ring s) 64 16 → Quiet s →
        ∃ t, exec (.rpush r g) s = .next t ∧ field (ring t) 48 16 = (field (ring s) 48 16 + 1) % 65536 ∧ field (ring t) 0 48 = field (ring s) 0 48
          ∧ field (ring t) 64 192 = field (ring s) 64 192 ∧ (∀ k, k ≠ rid → (t.core s.myCore).rings.get 0 k = (s.core s.myCore).rings.get 0 k)
          ∧ t.me = { s.me with pend := t.me.pend } ∧ t.me.pend.out = s.me.pend.out ∧ SameElsewhere s t
          ∧ t = { s with slots := t.slots, cores := t.cores, clusters := t.clusters, slices := t.slices, agenda := t.agenda, flow := .seq })
    ∧ (∃ t, exec (.lease n g) s = .next t ∧ t.core s.myCore = { s.core s.myCore with leases := (t.core s.myCore).leases }
        ∧ (t.core s.myCore).leases.marker = some n.toNat ∧ (t.core s.myCore).leases.cur = none ∧ (∀ c, c ≠ s.myCore → t.core c = s.core c)
        ∧ (∀ k, (∀ x, (s.core s.myCore).leases.cur = some x → k ≠ x.1) → (t.core s.myCore).leases.left.get? k = (s.core s.myCore).leases.left.get? k)
        ∧ t = { s with cores := t.cores, agenda := t.agenda, flow := .seq } ∧ { due := s.now, ev := .leaseGrant (quadOf s.myCore), arg := [] } ∈ t.agenda)
    ∧ (∃ t, exec (.unlease g) s = .next t ∧ t.core s.myCore = { s.core s.myCore with leases := (t.core s.myCore).leases }
        ∧ (t.core s.myCore).leases.marker = none ∧ (t.core s.myCore).leases.cur = none ∧ (∀ c, c ≠ s.myCore → t.core c = s.core c)
        ∧ (∀ k, (∀ x, (s.core s.myCore).leases.cur = some x → k ≠ x.1) → (t.core s.myCore).leases.left.get? k = (s.core s.myCore).leases.left.get? k)
        ∧ t = { s with cores := t.cores, agenda := t.agenda, flow := .seq } ∧ { due := s.now, ev := .leaseGrant (quadOf s.myCore), arg := [] } ∈ t.agenda)
    ∧ (∃ t, exec (.ringLoad core id) { s with arg := [rid] } = .next t ∧ (t.core core).rings.get 0 id = BitVec.ofNat 256 rid
        ∧ (∀ k, k ≠ id → (t.core core).rings.get 0 k = (s.core core).rings.get 0 k) ∧ (∀ c, c ≠ core → t.core c = s.core c)
        ∧ t = { s with cores := t.cores, arg := [rid] })

/-- R243, R252, R270, R292, R294: ENGSTAT and RESUME. ENGSTAT without a record reads the state of the command of its target, with a fault's detail, or what the log holds of one delivered, or
0. With a record it writes that of a SUSPENDED command, too. RESUME queues the command that a record of a FAULTED one
describes, at its progress index and with what it had consumed, or abandons it. -/
def CommandsAreReadAndResumed : Prop :=
  ∀ (s : State) (d a b : Reg) (xa xb : Bool) (g : PReg) (c : Cmd) (k core off : Nat) (e : LogEntry),
    s.src.pred g = true → (∀ c ∈ s.cmds, c.2.owed = false) →
    let target := s.rd a
    let w := (s.rd b).toNat
    let seen := s.cmds.find fun _ c => c.core == s.myCore && c.target == target && s.mayFind c.uid && decide (c.state ≠ .saved)
    let logged := (s.core s.myCore).log.find? fun e => e.target == target && s.mayFind e.uid
    let stat := Instr.engstat d a b xa xb g
    let again := Instr.resume a b xa xb g
    (s.ready [srcA a xa, srcB b xb] [d] true = true →
      (s.me.status.tl < 2 → w / 2 ^ 32 % 2 = 1 → s.recordPlace (w % 2 ^ 32) = none → TrapsAs stat s s 7 13 6)
      ∧ (s.me.status.tl < 2 → 2 ^ 33 ≤ w → (w / 2 ^ 32 % 2 = 1 → s.recordPlace (w % 2 ^ 32) ≠ none) → TrapsAs stat s s 7 14 6)
      ∧ (w < 2 ^ 32 → seen = some (k, c) → ∃ t, exec stat s = .next t ∧ BeganWithin s t d .other 11 (.val (BitVec.ofNat 64
            (match c.state with | .waiting => 1 | .running | .finished => 2 | .suspended | .saved => 3 | .faulted => c.detail * 65536 + 4))))
      ∧ (w < 2 ^ 32 → seen = none → logged = some e →
          ∃ t, exec stat s = .next t ∧ BeganWithin s t d .other 11 (.val (BitVec.ofNat 64 (e.result * 256 + 5))))
      ∧ (2 ^ 32 ≤ w → w < 2 ^ 33 → s.recordPlace (w % 2 ^ 32) = some (core, off) → seen = some (k, c) → c.state = .suspended → s.mem.wf = true →
          ∃ t, exec stat s = .next t ∧ t.cmds = s.cmds ∧ (∃ j, 1 ≤ j ∧ j ≤ 11 ∧ Due1 s t j (.deliver s.me.id.uid s.nextTag (.val (BitVec.ofNat 64 (2 ^ 24 + 3)))))
            ∧ (d ≠ 0 → t.me.reg d = { val := s.me.val d, mark := .pending, poison := false }) ∧ SameRegsBut s t d
            ∧ (∀ i, i ≠ s.cur → t.slot i = s.slot i) ∧ t.bytesAt (poolKey core off) 192 = c.record 3
            ∧ (∀ a, a < poolKey core off ∨ poolKey core off + 192 ≤ a → t.mem.read a = s.mem.read a) ∧ t.flow = .seq)
      ∧ (w < 2 ^ 32 → seen = none → logged = none → ∃ t, exec stat s = .next t ∧ BeganWithin s t d .other 11 (.val 0)))
    ∧ (s.ready [srcA a xa, srcB b xb] [] false = true →
      (s.me.status.tl < 2 → (2 ^ 27 ≤ target.toNat ∨ s.recordPlace target.toNat = none) → TrapsAs again s s 7 13 5)
      ∧ (target.toNat < 2 ^ 27 → s.recordPlace target.toNat = some (core, off) →
        let l := s.bytesAt (poolKey core off) 192
        (s.me.status.tl < 2 → recordCmd s.blankCmd l [4] = none → TrapsAs again s s 7 12 5)
        ∧ (recordCmd s.blankCmd l [4] = some c →
          let known := s.spent.find? fun y => y.ctx == contextKey c.part c.ctx && y.record == leNat l
          let dropped := match known with | some y => s.spent.erase y | none => s.spent
          (s.me.status.tl < 2 → 2 ≤ w → TrapsAs again s s 7 14 6)
          ∧ (w = 1 → c.hasComp = false → s.awaitsRemote c.scope = false → Quiet s →
              ∃ t, exec again s = .next t ∧ t.cmds = s.cmds ∧ t.me = { s.me with pend := t.me.pend } ∧ t.me.pend.out = s.me.pend.out ∧ SameElsewhere s t
                ∧ t.spent = dropped
                ∧ t = { s with slots := t.slots, cores := t.cores, clusters := t.clusters, slices := t.slices, agenda := t.agenda, spent := t.spent, flow := .seq })
          ∧ (w = 1 → c.hasComp = true → c.control.getLsbD 3 = true → c.control.getLsbD 8 = false → s.awaitsRemote c.scope = false → Quiet s →
              ∃ t, exec again s = .next t ∧ t.cmds = s.cmds ∧ t.me = { s.me with pend := t.me.pend } ∧ t.me.pend.out = s.me.pend.out ∧ SameElsewhere s t
                ∧ (let v := BitVec.ofNat 64 (c.control.toNat / 2 ^ 16 * 2 ^ 16 + c.flags.toNat * 256 + 1)
                   let f : Landing := { name := c.target, value := v, scope := Scope.ofBits (BitVec.ofNat 3 c.control.toNat), part := c.part, src := .ccb, rel := none }
                   { due := s.now + 1, ev := .landingArrival f, arg := [] } ∈ t.agenda)
                ∧ t.spent = dropped
                ∧ t = { s with slots := t.slots, cores := t.cores, clusters := t.clusters, slices := t.slices, agenda := t.agenda, spent := t.spent, flow := .seq })
          ∧ (w = 0 → (s.queueOf s.myCore c.unit).length < 2 → Quiet s →
              s.commandFail s.issuer c.ins c.hd c.ha c.hb c.hl (hKind c.hl != 0 || (match aeRegs c.ins with | some r => r.hl != 0 | none => false))
                (if c.hasComp then some (c.target, c.control) else none) = none →
              ∃ t x, exec again s = .next t ∧ OnlyQueued s t ∧ t.cmds.get? s.nextCmd = some x ∧ x.state = .waiting ∧ x.ins = c.ins ∧ x.prog = c.prog ∧ x.flags = c.flags
                ∧ x.hd = c.hd ∧ x.ha = c.ha ∧ x.hb = c.hb ∧ x.hl = c.hl ∧ x.target = c.target ∧ x.control = c.control
                ∧ x.fmt = c.fmt ∧ x.strides = s.stridesOf s.issuer c.hl
                ∧ t.spent = dropped ∧ x.spent = (match known with | some y => y.granules | none => [])))))

/-- R243, R245, R248, R249, R288-R294: handles, rings, leases, ENGSTAT and RESUME. Choices of the model that it rests on: log 64, log 65. -/
def Obligations.EngineInstructionsAct : Prop := HandlesAreSetAndRead ∧ RingsAndLeases ∧ CommandsAreReadAndResumed

/-- R244, R250, R251: the vector unit grants the first core, from its pointer on, whose head command can start, and takes it back after 4,096 cycles at an iteration boundary; a copy
engine runs at most four commands, in arrival order; a closed combining window makes the one fetch for all its commands and lets them go. A unit that has been given back is
granted again no sooner than 4 cycles later. -/
def VectorAndCopyUnits : Prop :=
  ∀ (s : State) (quad engine cluster window k : Nat) (c : Cmd) (w : CombineWindow),
    let q := s.quad quad
    let runs := fun (t : State) => t.cmds.get? c.id = some { c with state := .running } ∧ ∃ j, { due := s.now + j, ev := .iterationCommit c.id, arg := [] } ∈ t.agenda
    (q.vGrant ≠ none → exec (.vectorGrant quad) s = .next s)
    ∧ (q.vGrant = none → s.now < q.vFrom → ∃ t, exec (.vectorGrant quad) s = .next t ∧ t = { s with agenda := t.agenda }
        ∧ ∃ x ∈ t.agenda, x.ev = .vectorGrant quad)
    ∧ (q.vGrant = none → q.vFrom ≤ s.now → s.firstReady quad q.v .vector = some (k, c) →
        ∃ t, exec (.vectorGrant quad) s = .next t ∧ t.quad quad = { q with v := (k + 1) % 4, vGrant := some c.id, vStart := s.now } ∧ runs t
          ∧ t.slots = s.slots ∧ t.cores = s.cores ∧ t.mem = s.mem)
    ∧ (s.now < q.vStart + 4096 → exec (.vectorSliceExpiry quad) s = .next s)
    ∧ (q.vStart + 4096 ≤ s.now → q.vGrant = some c.id → s.cmds.get? c.id = some c → c.state = .running → c.unit = .vector → quadOf c.core = quad →
        ∃ t, exec (.vectorSliceExpiry quad) s = .next t ∧ t.quad quad = { q with vGrant := none, vFrom := s.now + 4 } ∧ t.cmds.get? c.id = some { c with state := .suspended, pieces := [] }
          ∧ { due := s.now + 4, ev := .vectorGrant quad, arg := [] } ∈ t.agenda ∧ t.mem = s.mem)
    ∧ (let n := (s.cmds.select fun _ c => c.unit == .copy && copyEngineOf c.core == engine && decide (c.state = .running)).length
       (4 ≤ n → exec (.copyEngineStart engine) s = .next s)
       ∧ (n < 4 → s.copyQueue engine = some c → s.canStart c = true → ∃ t, exec (.copyEngineStart engine) s = .next t ∧ runs t ∧ t.mem = s.mem))
    ∧ ((s.cluster cluster).windows.find? (fun w => w.id == window) = some w →
        ∃ t, exec (.combineWindowClose cluster window) s = .next t ∧ (∀ x ∈ (t.cluster cluster).windows, x.id ≠ window)
          ∧ (let held := w.cmds.filter fun i => (s.cmds.get? i).any (·.held)
             let group := if held.length < 2 then 0 else window
             (∀ i c, s.cmds.get? i = some c → t.cmds.get? i = some (if i ∈ held then { c with held := false, group := group } else c))
             ∧ (group = 0 → t.merged = s.merged ∧ t.cores = s.cores ∧ t.mem = s.mem)
             ∧ (group ≠ 0 → ∃ r, t.merged.get? window = some { cmds := held, read := r }))
          ∧ t.slots = s.slots
          ∧ { due := s.now, ev := .copyEngineStart (cluster * 2), arg := [] } ∈ t.agenda
          ∧ { due := s.now, ev := .copyEngineStart (cluster * 2 + 1), arg := [] } ∈ t.agenda)

/-- R245, R291: the matrix array is leased to the first core, from its pointer on, whose head command can start; the lease ends when its commands have retired, when none of them has been at the head for 64
cycles, or, at an iteration boundary, 65,536 cycles after it began; the next begins no sooner than 8 cycles later. -/
def MatrixLeases : Prop :=
  ∀ (s : State) (quad k : Nat) (c : Cmd) (l : Nat × Nat),
    let q := s.quad quad
    (q.mRun ≠ none → exec (.leaseGrant quad) s = .next s)
    ∧ (q.mRun = none → q.lease = none → s.now < q.mFrom → ∃ t, exec (.leaseGrant quad) s = .next t ∧ t = { s with agenda := t.agenda }
        ∧ ∃ x ∈ t.agenda, x.ev = .leaseGrant quad)
    ∧ (q.mRun = none → q.lease = none → q.mFrom ≤ s.now → s.firstReady quad q.m .matrix = some (k, c) →
        ∃ t, exec (.leaseGrant quad) s = .next t
          ∧ t.quad quad = { q with m := (k + 1) % 4, lease := some (c.core, c.lease), mRun := some c.id, leaseFrom := s.now + 1 }
          ∧ t.cmds.get? c.id = some { c with state := .running } ∧ { due := s.now + 65536, ev := .leaseExpiry quad, arg := [] } ∈ t.agenda
          ∧ ∃ j, { due := s.now + j, ev := .iterationCommit c.id, arg := [] } ∈ t.agenda)
    ∧ (let ended := fun (t : State) => (t.quad quad).lease = none ∧ (t.quad quad).leaseFrom = 0 ∧ (t.quad quad).mFrom = s.now + 8 ∧ { due := s.now + 8, ev := .leaseGrant quad, arg := [] } ∈ t.agenda
          ∧ t.slots = s.slots ∧ t.cores = s.cores ∧ t.mem = s.mem
       (q.mRun = none → q.lease = some l → ((s.core l.1).leases.left.get 0 l.2 = 0 ∨ (q.leaseFrom ≠ 0 ∧ q.leaseFrom + 65536 ≤ s.now + 1)) → ∃ t, exec (.leaseGrant quad) s = .next t ∧ ended t ∧ t.cmds = s.cmds)
       ∧ (q.mRun = none → q.lease = some l → s.leaseRunning l = false → q.idleFrom + 64 ≤ s.now →
            ∃ t, exec (.leaseIdleEnd quad) s = .next t ∧ ended t ∧ t.cmds = s.cmds)
       ∧ (q.leaseFrom ≠ 0 → q.leaseFrom + 65536 ≤ s.now + 1 → s.arg = [1] → q.mRun = some c.id → s.cmds.get? c.id = some c → c.state = .running →
            c.unit = .matrix → quadOf c.core = quad →
            ∃ t, exec (.leaseExpiry quad) s = .next t ∧ ended t ∧ (t.quad quad).mRun = none ∧ t.cmds.get? c.id = some { c with state := .suspended, pieces := [] })
       ∧ (s.now + 1 < q.leaseFrom + 65536 → exec (.leaseExpiry quad) s = .next s))

/-- R241, R244, R245, R250, R251, R291: the units of a quad and a cluster, as they take commands up and put them down. Choices of the model that it rests on: log 61, log 62. -/
def Obligations.EngineUnitsTakeTurns : Prop := VectorAndCopyUnits ∧ MatrixLeases

/-- Nothing stops a command at its iteration boundary: its cluster is not being saved (R329), or its commands complete first, since its context has come to its end (R133);
its slice or its lease runs on (R244, R245). -/
def RunsOn (s : State) (c : Cmd) : Prop :=
  ((s.cluster (clusterOf c.core)).saving = none ∨ s.draining (clusterOf c.core) = true) ∧ (c.unit = .vector → s.now < (s.quad (quadOf c.core)).vStart + 4096)
    ∧ (c.unit = .matrix → s.now + 1 < (s.quad (quadOf c.core)).leaseFrom + 65536)

/-- R241, R242, R252: an iteration that commits moves the command one step of its index on, or, as the last, finishes it, and its completion leaves within 3 cycles; where its context is being saved it is
SUSPENDED at the boundary, and where its slice or its lease is over it is given back there; one that waits is tried again in the next cycle, one that needs a walk when that ends; one that cannot commit makes the command FAULTED, with a detail and a value that its strand is owed. -/
def IterationsCommit : Prop :=
  ∀ (s u : State) (c x : Cmd) (d : BitVec 5) (v : Word) (n : Nat),
    s.cmds.get? c.id = some c → c.state = .running →
    (c.done = false → s.iterate c = (u, x, .ok ()) → x.id = c.id →
      (x.done = false → RunsOn u x → ∃ t, exec (.iterationCommit c.id) s = .next t ∧ t.cmds.get? c.id = some x ∧ t.mem = u.mem
          ∧ ∃ j, 1 ≤ j ∧ { due := u.now + j, ev := .iterationCommit c.id, arg := [] } ∈ t.agenda)
      ∧ (x.done = false → (u.cluster (clusterOf x.core)).saving ≠ none → u.draining (clusterOf x.core) = false → ∃ t, exec (.iterationCommit c.id) s = .next t
          ∧ t.cmds.get? c.id = some { x with state := .suspended, pieces := [] } ∧ t.mem = u.mem)
      ∧ (x.done = false → ((u.cluster (clusterOf x.core)).saving = none ∨ u.draining (clusterOf x.core) = true) → ¬RunsOn u x → ∃ t, exec (.iterationCommit c.id) s = .next t ∧ t.cmds.get? c.id = some x
          ∧ t.mem = u.mem ∧ { due := u.now, ev := (if x.unit = .vector then .vectorSliceExpiry (quadOf x.core) else .leaseExpiry (quadOf x.core)),
                              arg := (if x.unit = .vector then [] else [1]) } ∈ t.agenda)
      ∧ (x.done = true → ∃ t, exec (.iterationCommit c.id) s = .next t
          ∧ t.cmds.get? c.id = some { x with state := .finished, pieces := [], counted := true, popped := true } ∧ t.mem = u.mem
          ∧ (x.unit = .matrix → x.counted = false → (t.core x.core).leases.left.get 0 x.lease = (u.core x.core).leases.left.get 0 x.lease - 1)
          ∧ ∃ j, 1 ≤ j ∧ j ≤ 3 ∧ { due := u.now + j, ev := .engineCompletion c.id, arg := [] } ∈ t.agenda))
    ∧ (c.done = false → s.iterate c = (u, x, .error .wait) → x.id = c.id → RunsOn u x →
        ∃ t, exec (.iterationCommit c.id) s = .next t ∧ t.cmds.get? c.id = some x ∧ { due := u.now + 1, ev := .iterationCommit c.id, arg := [] } ∈ t.agenda)
    ∧ (c.done = false → s.iterate c = (u, x, .error (.walk v)) → x.id = c.id → RunsOn u x →
        ∃ t j, exec (.iterationCommit c.id) s = .next t ∧ { due := u.now + j, ev := .iterationCommit c.id, arg := [] } ∈ t.agenda ∧ t.mem = u.mem)
    ∧ (c.done = false → s.iterate c = (u, x, .error (.fault n v)) → x.id = c.id →
        ∃ t, exec (.iterationCommit c.id) s = .next t ∧ t.cmds.get? c.id = some x
          ∧ { due := u.now, ev := .engineFault c.id (BitVec.ofNat 5 n) v, arg := [] } ∈ t.agenda)
    ∧ (∃ t, exec (.engineFault c.id d v) s = .next t ∧ t.mem = s.mem ∧ t.slots = s.slots ∧ (∀ k, k ≠ c.core → t.core k = s.core k)
        ∧ t.core c.core = { s.core c.core with log := (s.core c.core).log.filter fun e => decide (e.id ≠ c.id) }
        ∧ (∀ k, k ≠ c.id → t.cmds.get? k = s.cmds.get? k)
        ∧ t.cmds.get? c.id = some { c with state := .faulted, owed := true, detail := d.toNat, tval := v, pieces := [], sent := false })

/-- R242, R255, R276, R278: the one iteration of VAND, VOR, VXOR or VCOPY on one INT32 element in local storage writes, at the place of D, the code that the command names, and no other byte; the command
is then finished. -/
def OneElementCommands : Prop :=
  ∀ (s : State) (c : Cmd) (hd ha hb hl : HReg) (sc : Reg) (xs : Bool) (cd od ca oa cb ob : Nat),
    s.cmds.get? c.id = some c → c.state = .running → c.prog = [0, 0, 0, 0, 0] → c.hl = 0 → s.badBytes = [] → PlainHomes s → c.unit = .vector →
    let one := fun (h : HandleImage) => h.toNat % 16 = 1 ∧ h.toNat / 2 ^ 4 % 16 = 9 ∧ h.toNat / 2 ^ 48 % 2 ^ 16 = 1 ∧ h.toNat / 2 ^ 64 % 2 ^ 16 = 1
    let at_ := fun (h : HandleImage) => s.cmdLocal c (withCore c.vcore (h.toNat / 2 ^ 16 % 2 ^ 32)) 4
    one c.hd → one c.ha → at_ c.hd = .ok (cd, od) → at_ c.ha = .ok (ca, oa) → c.vcore < 24 →
    let a := leNat (s.bytesAt (poolKey ca oa) 4)
    let b := leNat (s.bytesAt (poolKey cb ob) 4)
    let key := poolKey cd od
    let gives := fun (i : Instr) (v : Nat) => c.ins = i →
      ∃ t, exec (.iterationCommit c.id) s = .next t ∧ leNat (t.bytesAt key 4) = v ∧ (∀ k, k < key ∨ key + 4 ≤ k → t.mem.read k = s.mem.read k)
        ∧ (t.cmds.get? c.id).map (·.state) = some .finished ∧ t.slots = s.slots
    gives (.vcopy hd ha hl sc xs) a
    ∧ (one c.hb → at_ c.hb = .ok (cb, ob) →
        gives (.vand hd ha hb hl sc xs) (a &&& b) ∧ gives (.vor hd ha hb hl sc xs) (a ||| b) ∧ gives (.vxor hd ha hb hl sc xs) (a ^^^ b))

/-- A command in its one iteration: it has no loops, nothing stands in its way at a home, and none of the data is bad. -/
def OneIteration (s : State) (c : Cmd) : Prop :=
  s.cmds.get? c.id = some c ∧ c.state = .running ∧ c.prog = [0, 0, 0, 0, 0] ∧ c.hl = 0 ∧ c.unit = cmdUnit c.ins ∧ c.vcore < 24 ∧ s.badBytes = [] ∧ PlainHomes s

/-- An image of a tensor in local storage without scales (R234): its format, shape and row stride, and the pool place of its first byte. -/
def LocalTile (s : State) (c : Cmd) (h : HandleImage) (fmt rows cols stride core off : Nat) : Prop :=
  let f := fun (lo n : Nat) => h.toNat / 2 ^ lo % 2 ^ n
  let a := withCore c.vcore (f 16 32)
  let bytes := (rows - 1) * stride + elemBytes fmt * cols
  f 0 4 = 1 ∧ f 4 4 = fmt ∧ f 48 16 = rows ∧ f 64 16 = cols ∧ f 80 32 = stride ∧ f 112 64 = 0 ∧ 0 < rows ∧ 0 < cols ∧ fmt ≠ 5
    ∧ a % 2 ^ 20 + bytes ≤ 2 ^ 20 ∧ s.cmdLocal c a bytes = .ok (core, off)

/-- An image of an INT32 table of one column in global memory, without scales, CONSUME and MCOUNT (R235). -/
def GlobalColumn (h : HandleImage) (rows stride va : Nat) : Prop :=
  let f := fun (lo n : Nat) => h.toNat / 2 ^ lo % 2 ^ n
  f 0 4 = 3 ∧ f 4 4 = 9 ∧ f 8 8 = 0 ∧ f 16 64 = va ∧ f 80 16 = rows ∧ f 96 16 = 1 ∧ f 112 32 = stride ∧ f 144 40 = 0

/-- The code of element (r, j) of a local tile (R255). -/
def elemAt (s : State) (core off stride size r j : Nat) : Nat := leNat (s.bytesAt (poolKey core (off + r * stride + j * size)) size)

/-- A code as an engine reads it (R261): a denormal as a zero where FMT.DAZ says so. -/
def engineValue (m : BitVec 4) (f : FFmt) (code : Nat) : FVal := if fmtDaz m && f.denormal code then .num (Exact.zero (f.neg code)) else f.value code

/-- The FP32 code of a result (R264): a NaN among the inputs by R67, the core's new NaN for an invalid operation (R66), else one rounding under FMT.RND. -/
def fp32Result (c : Cmd) (ins : List FVal) (r : FRes) : Nat :=
  match nanPick ins, r with
  | some q, _ => q
  | none, none => 0x7fc00000 + c.core % 2048 * 2048 + 0x7ff
  | none, some v => (v.to32 (fmtRnd c.fmt)).code

/-- What an iteration has written: the code of each place of D, and no other byte; as the last of its command it has finished it. -/
def WroteTile (s t : State) (c : Cmd) (size rows cols stride core off : Nat) (code : Nat → Nat → Nat) : Prop :=
  let key := fun (r j : Nat) => poolKey core (off + r * stride + j * size)
  (∀ r j, r < rows → j < cols → elemAt t core off stride size r j = code r j)
    ∧ (∀ b, (∀ r j, r < rows → j < cols → b < key r j ∨ key r j + size ≤ b) → t.mem.read b = s.mem.read b)
    ∧ (t.cmds.get? c.id).map (·.state) = some .finished ∧ t.slots = s.slots

/-- R255-R261, R264-R266, R273-R275, R280: the iteration of a vector command on FP32 tiles of local storage, whose sources may be one row or one column that is broadcast (R272): the elementwise
commands, VSEL by the codes that D held, VCMP to INT32, VSCALE by INT32 counts, and VRED of four columns, pairs first. -/
def VectorResults : Prop :=
  ∀ (s : State) (c : Cmd) (hd ha hb hl : HReg) (sc : Reg) (xs : Bool) (cc : FCond) (rows cols ra ca rb cb sd sa sb kd od ka oa kb ob : Nat),
    OneIteration s c → 4 * cols ≤ sd → LocalTile s c c.ha 0 ra ca sa ka oa →
    let rnd := fmtRnd c.fmt
    let at_ := fun (core off stride n k r j : Nat) => elemAt s core off stride 4 (if n = 1 then 0 else r) (if k = 1 then 0 else j)
    let value := engineValue c.fmt fp32
    let x := fun (r j : Nat) => value (at_ ka oa sa ra ca r j)
    let y := fun (r j : Nat) => value (at_ kb ob sb rb cb r j)
    let z := fun (r j : Nat) => value (elemAt s kd od sd 4 r j)
    let fits := fun (n k : Nat) => (n = 1 ∨ n = rows) ∧ (k = 1 ∨ k = cols)
    let gives := fun (i : Instr) (p : (Nat → Nat → Nat) → Prop) => c.ins = i → ∃ t f, exec (.iterationCommit c.id) s = .next t ∧ WroteTile s t c 4 rows cols sd kd od f ∧ p f
    let all := fun (i : Instr) (g : Nat → Nat → Nat) => gives i fun f => ∀ r j, r < rows → j < cols → f r j = g r j
    let one := fun (i : Instr) (g : FVal → FRes) => all i fun r j => fp32Result c [x r j] (g (x r j))
    let two := fun (i : Instr) (g : FVal → FVal → FRes) => all i fun r j => fp32Result c [x r j, y r j] (g (x r j) (y r j))
    (LocalTile s c c.hd 0 rows cols sd kd od → fits ra ca →
      one (.vabs hd ha hl sc xs) (fun v => some (match v with | .num e => .num { e with neg := false } | .inf _ => .inf false | w => w))
      ∧ one (.vneg hd ha hl sc xs) (fun v => some v.negate)
      ∧ one (.vrcp hd ha hl sc xs) FVal.rcp ∧ one (.vrsq hd ha hl sc xs) FVal.rsqrt ∧ one (.vcvt hd ha hl sc xs) some
      ∧ gives (.vexp2 hd ha hl sc xs) (fun f => ∀ r j e, r < rows → j < cols → x r j = .num e → e.integral = true → -149 ≤ e.toInt 1 → e.toInt 1 ≤ 127 →
          f r j = (fp32.round 0 { neg := false, num := 1, exp := e.toInt 1, den := 1 }).code)
      ∧ gives (.vlog2 hd ha hl sc xs) (fun f => ∀ r j n, r < rows → j < cols → 0 < n → n < 255 → at_ ka oa sa ra ca r j = n * 2 ^ 23 →
          f r j = (fp32.round 0 (Exact.ofInt ((n : Int) - 127))).code)
      ∧ (LocalTile s c c.hb 0 rb cb sb kb ob → fits rb cb →
          two (.vadd hd ha hb hl sc xs) (fun v w => v.add rnd w) ∧ two (.vsub hd ha hb hl sc xs) (fun v w => v.add rnd w.negate)
          ∧ two (.vmul hd ha hb hl sc xs) FVal.mul
          ∧ two (.vmax hd ha hb hl sc xs) (fun v w => some (if v.below w then w else v)) ∧ two (.vmin hd ha hb hl sc xs) (fun v w => some (if w.below v then w else v))
          ∧ all (.vfma hd ha hb hl sc xs) (fun r j => fp32Result c [x r j, y r j, z r j] (((x r j).mul (y r j)).bind fun p => p.add rnd (z r j)))
          ∧ all (.vsel hd ha hb hl sc xs) (fun r j => let v := if elemAt s kd od sd 4 r j ≠ 0 then x r j else y r j; fp32Result c [v] (some v)))
      ∧ (LocalTile s c c.hb 9 rb cb sb kb ob → fits rb cb →
          all (.vscale hd ha hb hl sc xs) (fun r j =>
            let n := (BitVec.ofNat 32 (at_ kb ob sb rb cb r j)).toInt
            fp32Result c [x r j] (some (match x r j with | .num e => .num { e with exp := e.exp + max (-512) (min 512 n) } | w => w)))))
    ∧ (LocalTile s c c.hd 9 rows cols sd kd od → LocalTile s c c.hb 0 rb cb sb kb ob → fits ra ca → fits rb cb →
        all (.vcmp hd ha hb hl sc xs cc) (fun r j =>
          let u := x r j
          let v := y r j
          let un := u.isNaN || v.isNaN
          let holds := match cc with
            | .eq => !un && u.equal v | .ne => un || !(u.equal v) | .lt => !un && u.less v | .le => !un && (u.less v || u.equal v)
            | .gt => !un && v.less u | .ge => !un && (v.less u || u.equal v) | .un => un | .ord => !un
          if holds then 1 else 0))
    ∧ (LocalTile s c c.hd 0 rows 1 sd kd od → ra = rows → ca = 4 → cols = 1 →
        let v := fun (r j : Nat) => value (elemAt s ka oa sa 4 r j)
        let as32 := fun (w : FVal) => fp32.value (w.to32 rnd).code
        let top := fun (a b : FVal) => if a.below b then b else a
        let low := fun (a b : FVal) => if b.below a then b else a
        gives (.vred hd ha hl sc xs .sum) (fun f => ∀ r p q w, r < rows → nanPick [v r 0, v r 1, v r 2, v r 3] = none → (v r 0).add rnd (v r 1) = some p →
          (v r 2).add rnd (v r 3) = some q → (as32 p).add rnd (as32 q) = some w → f r 0 = (w.to32 rnd).code)
        ∧ gives (.vred hd ha hl sc xs .max) (fun f => ∀ r, r < rows → nanPick [v r 0, v r 1, v r 2, v r 3] = none →
          f r 0 = ((top (top (v r 0) (v r 1)) (top (v r 2) (v r 3))).to32 rnd).code)
        ∧ gives (.vred hd ha hl sc xs .min) (fun f => ∀ r, r < rows → nanPick [v r 0, v r 1, v r 2, v r 3] = none →
          f r 0 = ((low (low (v r 0) (v r 1)) (low (v r 2) (v r 3))).to32 rnd).code))

/-- R255, R256, R261-R263, R282, R283: an iteration of MMA on BF16 or FP16, or of MMAS on FP8 without block scales, of one k-step: every accumulator becomes its exact sum with the products,
rounded once to nearest even; an infinity or a NaN stays; special elements count as zero and mark their row. MDRAIN writes a marked row as the payload NaN of its mark; MACCLD and MZERO set the
accumulators and their marks. -/
def MatrixResults : Prop :=
  ∀ (s : State) (c : Cmd) (hd ha hb hl : HReg) (sc : Reg) (xs : Bool) (sd sa sb kd od ka oa kb ob : Nat),
    OneIteration s c →
    let value := engineValue c.fmt
    let num := fun (v : FVal) => match v with | .num e => e | _ => Exact.zero false
    let mark := fun (u : State) (core off r : Nat) => (u.core core).marks.get? (off / 1024 * 16 + r)
    let acc := fun (r n : Nat) => elemAt s kd od 64 4 r n
    let step := fun (i : Instr) (f : FFmt) (fmt w : Nat) => c.ins = i → LocalTile s c c.hd 0 16 16 64 kd od → LocalTile s c c.ha fmt 16 w sa ka oa →
      LocalTile s c c.hb fmt w 16 sb kb ob →
      let a := fun (r k : Nat) => value f (elemAt s ka oa sa (elemBytes fmt) r k)
      let b := fun (k n : Nat) => value f (elemAt s kb ob sb (elemBytes fmt) k n)
      ∃ t, exec (.iterationCommit c.id) s = .next t
        ∧ WroteTile s t c 4 16 16 64 kd od (fun r n => match fp32.value (acc r n) with
            | .nan q => quiet q
            | .inf _ => acc r n
            | .num e => (fp32.round 0 ((List.range w).foldl (fun x k => x.add 0 ((num (a r k)).mul (num (b k n)))) e)).code)
        ∧ ∀ r, r < 16 → (∀ k n, k < w → n < 16 → (b k n).finite = true) →
            ((∀ k, k < w → (a r k).finite = true) → mark t kd od r = mark s kd od r)
            ∧ ∀ k, k < w → mark s kd od r = none → (a r k).finite = false → (∀ j, j < k → (a r j).finite = true) → mark t kd od r = some (c.core % 2048, k)
    let held := fun (i : Instr) (g : State → (Nat → Nat → Nat) → Prop) (stride : Nat) => c.ins = i → LocalTile s c c.hd 0 16 16 stride kd od → 64 ≤ stride →
      ∃ t f, exec (.iterationCommit c.id) s = .next t ∧ WroteTile s t c 4 16 16 stride kd od f ∧ g t f
    let src := fun (r n : Nat) => elemAt s ka oa sa 4 r n
    step (.mma hd ha hb hl sc xs) bf16 1 16 ∧ step (.mma hd ha hb hl sc xs) fp16 2 16 ∧ step (.mmas hd ha hb hl sc xs) e4m3 3 32 ∧ step (.mmas hd ha hb hl sc xs) e5m2 4 32
    ∧ (LocalTile s c c.ha 0 16 16 sa ka oa →
        held (.mdrain hd ha hl sc xs) (fun _ f => ∀ r n, r < 16 → n < 16 → f r n = match mark s ka oa r, fp32.value (src r n) with
          | some k, _ => 0x7fc00000 + k.1 % 2048 * 2048 + k.2 % 2048
          | none, .nan q => quiet q
          | none, _ => src r n) sd
        ∧ held (.maccld hd ha hl sc xs) (fun t f => ∀ r, r < 16 →
            (∀ n, n < 16 → f r n = if (fp32.value (src r n)).finite then src r n else 0)
            ∧ ((∀ n, n < 16 → (fp32.value (src r n)).finite = true) → mark t kd od r = none)
            ∧ ∀ n, n < 16 → (fp32.value (src r n)).finite = false → mark t kd od r = some (c.core % 2048, 0x7ff)) 64)
    ∧ held (.mzero hd hl sc xs) (fun t f => ∀ r, r < 16 → (∀ n, n < 16 → f r n = 0) ∧ mark t kd od r = none) 64

/-- R212, R213, R284-R287: CPY copies the codes of a local tile. CPYG and CPYS move one INT32 element of a GLOBAL table of one column by an index, which outside the table gives 0, or nothing. CPYR
adds one INT32 element to memory: whoever reads it at its home finds the sum. -/
def CopyResults : Prop :=
  ∀ (s u : State) (c : Cmd) (hd ha hb hl : HReg) (sc : Reg) (xs : Bool) (fmt rows cols n stride va sd sa sb kd od ka oa kb ob lpa : Nat) (x : Acc),
    OneIteration s c →
    let size := elemBytes fmt
    let key := hbmKey c.part lpa
    let i := (BitVec.ofNat 32 (elemAt s kb ob sb 4 0 0)).toInt
    let inside := 0 ≤ i ∧ i < (n : Int)
    let row := BitVec.ofNat 64 (va + i.toNat * stride)
    let plain := c.pieces = [] ∧ s.merged.get? c.group = none ∧ (s.core c.core).l1d = []
    let a := elemAt s ka oa sa 4 0 0
    let ends := fun (t : State) => (t.cmds.get? c.id).map (·.state) = some .finished ∧ t.slots = s.slots
    let cell := LocalTile s c c.hb 9 1 1 sb kb ob
    (c.ins = .cpy hd ha hl sc xs → LocalTile s c c.hd fmt rows cols sd kd od → size * cols ≤ sd → LocalTile s c c.ha fmt rows cols sa ka oa →
      ∃ t, exec (.iterationCommit c.id) s = .next t ∧ WroteTile s t c size rows cols sd kd od (fun r j => elemAt s ka oa sa size r j))
    ∧ (c.ins = .cpyg hd ha hb hl sc xs → LocalTile s c c.hd 9 1 1 sd kd od → GlobalColumn c.ha n stride va → cell →
      (¬inside → ∃ t, exec (.iterationCommit c.id) s = .next t ∧ WroteTile s t c 4 1 1 sd kd od fun _ _ => 0)
      ∧ (inside → s.cmdAccess c .load 4 row = (u, .ok x) → x.target = .hbm lpa → plain →
          ∃ t, exec (.iterationCommit c.id) s = .next t ∧ WroteTile s t c 4 1 1 sd kd od fun _ _ => leNat (s.bytesAt key 4)))
    ∧ (c.ins = .cpys hd ha hb hl sc xs → GlobalColumn c.hd n stride va → LocalTile s c c.ha 9 1 1 sa ka oa → cell →
      (¬inside → ∃ t, exec (.iterationCommit c.id) s = .next t ∧ ends t ∧ ∀ b, t.mem.read b = s.mem.read b)
      ∧ (inside → s.cmdAccess c .store 4 row = (u, .ok x) → x.target = .hbm lpa →
          ∃ t, exec (.iterationCommit c.id) s = .next t ∧ ends t ∧ leNat (t.bytesAt key 4) = a ∧ ∀ b, b < key ∨ key + 4 ≤ b → t.mem.read b = s.mem.read b))
    ∧ (c.ins = .cpyr hd ha hl sc xs → GlobalColumn c.hd 1 stride va → LocalTile s c c.ha 9 1 1 sa ka oa → s.cmdAccess c .rmw 4 (BitVec.ofNat 64 va) = (u, .ok x) →
      x.target = .hbm lpa → plain →
        ∃ t, exec (.iterationCommit c.id) s = .next t ∧ ends t ∧ (t.readMerged key 4).2 = leBytes 4 (leNat (s.bytesAt key 4) + a)
          ∧ ∀ b, b < key ∨ key + 4 ≤ b → t.mem.read b = s.mem.read b)

/-- R241, R246, R247: a finished command is delivered after those of its core and unit that were dispatched before it: its entry is free, the log has its value, which stands at the completion word, or is on its way to the
name, or goes nowhere where the command has no pair; the strand that asked for it is
interrupted, up to eight times before it takes one. A completion word that cannot be written makes the command FAULTED. -/
def CompletionsAreDelivered : Prop :=
  ∀ (s u : State) (c : Cmd) (x : Acc) (e : TrapInfo) (lpa i : Nat),
    s.cmds.get? c.id = some c → c.state = .finished → c.sent = false → (∀ y ∈ s.queueOf c.core c.unit, c.id ≤ y.id) → s.cmdRemoteOpen c = false →
    (s.core c.core).log.length < 64 →
    let v := BitVec.ofNat 64 (c.control.toNat / 2 ^ 16 * 2 ^ 16 + c.flags.toNat * 256)
    let logged := fun (t : State) => (t.core c.core).log = (s.core c.core).log ++ [{ id := c.id, uid := c.uid, target := c.target, value := v, result := 0 }]
      ∧ t.cmds = s.cmds.del c.id
    let bit := fun (n : Nat) => c.control.getLsbD n
    (c.hasComp = false → ∃ t, exec (.engineCompletion c.id) s = .next t ∧ logged t ∧ t.mem = s.mem ∧ t.slots = s.slots)
    ∧ (c.hasComp = true → bit 3 = false → bit 8 = false → s.access { core := c.core, part := c.part, asid := c.asid, priv := c.priv } .store 8 c.target = (u, .ok x) →
        x.target = .hbm lpa → PlainHomes s →
        let key := hbmKey c.part lpa
        ∃ t, exec (.engineCompletion c.id) s = .next t ∧ logged t ∧ t.slots = s.slots ∧ t.contexts = s.contexts
          ∧ t.bytesAt key 8 = leBytes 8 v.toNat ∧ ∀ b, b < key ∨ key + 8 ≤ b → t.mem.read b = s.mem.read b)
    ∧ (c.hasComp = true → bit 3 = true → nameDevice c.target = s.plat.device →
        ∃ t, exec (.engineCompletion c.id) s = .next t ∧ logged t ∧ t.mem = s.mem
          ∧ { due := s.now + 1, ev := .landingArrival { name := c.target, value := v, scope := Scope.ofBits (BitVec.ofNat 3 c.control.toNat), part := c.part,
                                                        src := .engine c.core c.id, rel := none }, arg := [] } ∈ t.agenda
          ∧ (bit 8 = false → t.slots = s.slots)
          ∧ (bit 8 = true → s.slotOf c.uid = some i → (s.slot i).uint.pending.length < 8 →
              t.slot i = { s.slot i with uint := { (s.slot i).uint with pending := (s.slot i).uint.pending ++ [(v, c.target)] }, front := (t.slot i).front })
          ∧ (bit 8 = true → s.slotOf c.uid = some i → 8 ≤ (s.slot i).uint.pending.length →
              t.slot i = { s.slot i with uint := { (s.slot i).uint with dropped := true }, front := (t.slot i).front }))
    ∧ (c.hasComp = true → bit 3 = false → s.access { core := c.core, part := c.part, asid := c.asid, priv := c.priv } .store 8 c.target = (u, .error e) →
        ∃ t, exec (.engineCompletion c.id) s = .next t ∧ t.mem = u.mem ∧ t.slots = s.slots
          ∧ t.cmds.get? c.id = some { c with state := .faulted, owed := true, detail := (if e.cls = 4 then 16 else 17), tval := c.target, pieces := [] })

/-- R241, R242, R246, R247, R252, R255-R267, R273-R276, R280-R287: commands run, iteration by iteration, write what their entries say, and are delivered. Choices of the model that it rests on: log 57, log 69, log 138. -/
def Obligations.EngineCommandsRunAndComplete : Prop :=
  IterationsCommit ∧ OneElementCommands ∧ VectorResults ∧ MatrixResults ∧ CopyResults ∧ CompletionsAreDelivered

-- ==== contexts, images, TLBs, kills and soft errors (R308-R312, R318, R326-R352, R432) ====

/-- A structure of `n` bytes at `va` that the issuing strand's loads reach in one piece of this device's HBM, its bytes `l`; `u` is `s` after the lookup. -/
def StructAt (s u : State) (va : Word) (n : Nat) (l : List Byte) : Prop :=
  s.plainAt s.myCore ∧ s.me.front.got = [] ∧ piecesOf va.toNat n = [(va.toNat, n)] ∧ s.mustWalk 1 va = false
    ∧ ∃ x lpa, s.access s.whoMe .load 1 va = (u, .ok x) ∧ x.target = .hbm lpa ∧ l = s.bytesAt (hbmKey s.me.id.part lpa) n

/-- R323, R343, R347, R348: TLBINV drops the entries of its partition that its kind names, everywhere, and starts the walks again that could produce one; its bundle completes when the accesses
made before through what it dropped are performed. TLBPROBE answers from the TLBs in 4 cycles, or when a walk ends, for which it needs a walker. Both need S. Choices of the model that it
rests on: log 38. -/
def TlbInstructions : Prop :=
  ∀ (s : State) (d a b : Reg) (xa xb : Bool) (g : PReg) (k : TlbKind) (e : TlbEntry) (tag uid n r bits : Nat) (leaf : Word) (gone : List TlbEntry) (wk : Walk),
    s.src.pred g = true →
    let va := (s.rd a).toNat
    let asid := (s.rd b).toNat
    let part := s.me.id.part
    let inv := Instr.tlbinv a b xa xb g k
    let probe := Instr.tlbprobe d a xa g
    let names := fun (e : TlbEntry) => e.part = part ∧ match k with
      | .page => (e.asid = asid ∨ e.leaf.getLsbD 6 = true) ∧ e.page = va / 2 ^ e.bits
      | .asid => e.asid = asid ∧ e.leaf.getLsbD 6 = false
      | .all => True
    let again := fun (w : Walk) => w.part = part ∧ match k with | .page => w.page * 65536 / 2 ^ 30 = va / 2 ^ 30 | .asid => w.asid = asid | .all => True
    let first := ∀ t l, s.me.front.wait ≠ .drain t l
    (s.ready [srcA a xa, srcB b xb] [] false = true → first →
      (privGe s.me.status.priv .s = true → (k ≠ .all → asid < 4096) → (k = .page → va < 2 ^ 48) →
        ∃ t l, exec inv s = .next t ∧ (∀ c, ∀ e ∈ (t.core c).tlb, ¬names e ∧ e ∈ (s.core c).tlb)
          ∧ (∀ c, ∀ e ∈ (s.core c).tlb, ¬names e → e ∈ (t.core c).tlb)
          ∧ (∀ q, ∀ e ∈ (t.cluster q).tlb, ¬names e ∧ e ∈ (s.cluster q).tlb) ∧ (∀ q, ∀ e ∈ (s.cluster q).tlb, ¬names e → e ∈ (t.cluster q).tlb)
          ∧ (∀ c, t.core c = { s.core c with tlb := (t.core c).tlb }) ∧ (∀ q, t.cluster q = { s.cluster q with tlb := (t.cluster q).tlb })
          ∧ (∀ e ∈ l, names e) ∧ (∀ c, ∀ e ∈ (s.core c).tlb, names e → e ∈ l) ∧ (∀ q, ∀ e ∈ (s.cluster q).tlb, names e → e ∈ l)
          ∧ (∀ w, w ∈ t.walks ↔ w ∈ s.walks ∧ ¬again w)
          ∧ (∀ i, t.cmds.get? i = s.cmds.get? i ∨ ∃ c, s.cmds.get? i = some c ∧ c.walked ≠ none ∧ t.cmds.get? i = some { c with walked := none, walkFault := none })
          ∧ (∀ i, i ≠ s.cur → t.slot i = s.slot i ∨ (s.slot i).front.walked ≠ none ∧ t.slot i = { s.slot i with
              front := { (s.slot i).front with walked := none, walkFault := none, readyAt := min (s.slot i).front.readyAt (s.now + 1) } })
          ∧ t = { s with slots := t.slots, cores := t.cores, clusters := t.clusters, walks := t.walks, cmds := t.cmds, nextTag := s.nextTag + 1, flow := .held }
          ∧ t.me = { s.me with front := { s.me.front with wait := .drain s.nextTag l } })
      ∧ (s.me.status.tl < 2 → privGe s.me.status.priv .s = true → k ≠ .all → 4096 ≤ asid → TrapsAs inv s s 9 9 (s.rd b))
      ∧ (s.me.status.tl < 2 → privGe s.me.status.priv .s = true → k = .page → asid < 4096 → 2 ^ 48 ≤ va → TrapsAs inv s s 9 9 (s.rd a))
      ∧ (s.me.status.tl < 2 → s.me.status.priv = .u → TrapsAs inv s s 9 4 0))
    ∧ (s.me.front.wait = .drain tag gone →
      (s.drained part tag gone = true → exec inv s = .next { s.setSlot s.cur { s.me with front := { s.me.front with wait := .none } } with flow := .seq })
      ∧ (s.drained part tag gone = false → exec inv s = .next { s with flow := .wait })
      ∧ ((∃ c ∈ s.cores, ∃ x ∈ c.2.sb, x.part = part ∧ x.id < tag ∧ ∃ y ∈ gone, y.hits part (s.asidFor x.uid) x.va = true) → exec inv s = .next { s with flow := .wait }))
    ∧ (s.ready [srcA a xa] [d] true = true → s.me.status.tl < 2 →
        (s.me.status.priv = .u → TrapsAs probe s s 9 4 0)
        ∧ (privGe s.me.status.priv .s = true → 2 ^ 63 ≤ va → TrapsAs probe s s 9 9 (s.rd a)))
    ∧ (let hit := fun (l : List TlbEntry) => l.find? fun e => e.hits part s.me.id.asid (s.rd a)
      let word := fun (leaf bits n : Nat) => BitVec.ofNat 64 ((leaf / 2 ^ bits * 2 ^ bits + va % 2 ^ bits) / 65536 * 65536
        + (if bits = 30 then 2 else if bits = 21 then 1 else 0) * 2 ^ 14 + leaf / 2 ^ 8 % 4 * 2 ^ 10 + n * 256 + leaf / 2 ^ 2 % 64 * 4 + 1)
      let same := fun (w : Walk) => w.part == part && w.asid == s.me.id.asid && w.page == va / 65536
      let mine := s.walks.filter fun w => w.die == dieOf s.myCore
      let walk := s.walk s.myCore part s.me.id.asid (s.rd a)
      let ends := fun (c : Nat) (arg : List Nat) => ({ due := c, ev := .tlbWalk s.myCore s.me.id.asid (s.rd a) .load, arg := arg } : Due)
      (s.ready [srcA a xa] [d] true = true → privGe s.me.status.priv .s = true → va < 2 ^ 63 →
        (hit (s.core s.myCore).tlb = some e → ∃ t, exec probe s = .next t ∧ BeganFor s t d .arith 4 (.val (word e.leaf.toNat e.bits 1)))
        ∧ (hit (s.core s.myCore).tlb = none → hit (s.cluster (clusterOf s.myCore)).tlb = some e →
            ∃ t, exec probe s = .next t ∧ BeganFor s t d .arith 4 (.val (word e.leaf.toNat e.bits 1)))
        ∧ (hit (s.core s.myCore).tlb = none → hit (s.cluster (clusterOf s.myCore)).tlb = none →
            (mine.find? same = some wk → ∃ t, exec probe s = .next t ∧ Began s t d .arith ∧ t.walks = s.walks
              ∧ ends (s.now + (wk.done - s.now)) [part, s.me.id.uid, s.nextTag] ∈ t.agenda)
            ∧ (mine.find? same = none → mine.length < 16 → ∃ t j, exec probe s = .next t ∧ Began s t d .arith ∧ 1 ≤ j ∧ j ≤ walk.2.cycles + 1
              ∧ t.walks = s.walks ++ [{ die := dieOf s.myCore, part := part, asid := s.me.id.asid, page := va / 65536, done := s.now + j }]
              ∧ ends (s.now + j) [] ∈ t.agenda ∧ ends (s.now + j) [part, s.me.id.uid, s.nextTag] ∈ t.agenda)
            ∧ (mine.find? same = none → 16 ≤ mine.length → exec probe s = .next { s.setSlot s.cur { s.me with
                front := { s.me.front with readyAt := max s.me.front.readyAt (s.now + 1) } } with flow := .wait })))
      ∧ (s.walks = [] → s.arg = [part, uid, n] →
        let comes := fun (v : Word) => ∃ t, exec (.tlbWalk s.myCore s.me.id.asid (s.rd a) .load) s = .next t
          ∧ { due := s.now, ev := .deliver uid n (.val v), arg := [] } ∈ t.agenda
        (walk.2.result = .ok (leaf, bits) → comes (word leaf.toNat bits 0)) ∧ (walk.2.result = .error r → comes (BitVec.ofNat 64 (r * 256)))))

/-- R349-R352, R427: CTXSAVE, CTXLOAD and FOLDSET. They need S and an image address; CTXSAVE of the holder of another cluster clears RUN and begins the save, whose status comes later; CTXLOAD of an
image whose header is right sets RUN, so that the image is restored when its context is next chosen; FOLDSET writes its table to the image and installs it. -/
def ImageInstructions : Prop :=
  ∀ (s u : State) (d a : Reg) (xa : Bool) (g : PReg) (q e n : Nat) (l : List Byte),
    s.src.pred g = true →
    let w := s.rd a
    let entry := fun (kind : Nat) => s.entryStatus kind (s.entryNamed s.me.id.part w)
    let run := fun (t : State) => ((t.cluster q).ctable.get 0 e).getLsbD 20
    let save := Instr.ctxsave d a xa g
    let load := Instr.ctxload d a xa g
    let fold := Instr.foldset a xa g
    (∀ p ∈ [(save, 0), (load, 1)], s.ready [srcA a xa] [d] true = true →
      (s.me.status.tl < 2 → s.me.status.priv = .u → TrapsAs p.1 s s 9 4 0)
      ∧ (s.me.status.tl < 2 → privGe s.me.status.priv .s = true → imageOperand w = false → TrapsAs p.1 s s 9 7 w)
      ∧ (privGe s.me.status.priv .s = true → imageOperand w = true → entry p.2 = .error n →
          ∃ t, exec p.1 s = .next t ∧ BeganWithin s t d .other 1000 (.val (BitVec.ofNat 64 n)))
      ∧ (privGe s.me.status.priv .s = true → imageOperand w = true → s.entryNamed s.me.id.part w = some (q, e) →
          (q ≠ clusterOf s.myCore ∨ s.entryKey q e ≠ myContext s) →
          ((s.cluster q).saving = some e ∨ ∃ x ∈ s.agenda, x.ev = .contextSave q e ∧ x.arg = [3, 1 - p.2]) →
          ∃ t, exec p.1 s = .next t ∧ BeganWithin s t d .other 1000 (.val 2)))
    ∧ (s.ready [srcA a xa] [d] true = true → privGe s.me.status.priv .s = true → imageOperand w = true → entry 0 = .ok (q, e) →
      ((s.cluster q).holder = some e → ∃ t, exec save s = .next t ∧ run t = false ∧ (t.cluster q).saving = some e
          ∧ (clusterOf s.myCore ≠ q → (d ≠ 0 → t.me.reg d = { val := s.me.val d, mark := .pending, poison := false }) ∧ SameRegsBut s t d)
          ∧ (∀ i, i ≠ s.cur → i / 256 ≠ q → t.slot i = s.slot i) ∧ { due := s.now + 1, ev := .contextSave q e, arg := [0, s.me.id.uid, s.nextTag] } ∈ t.agenda ∧ t.mem = s.mem ∧ t.flow = .seq)
      ∧ ((s.cluster q).holder ≠ some e → e ∈ (s.cluster q).headed → ∃ t, exec save s = .next t ∧ run t = false
          ∧ BegunWithin s t d .other 1000 (.acq 0 .device))
      ∧ ((s.cluster q).holder ≠ some e → e ∉ (s.cluster q).headed → s.mem.wf = true → ∃ t, exec save s = .next t ∧ run t = false ∧ e ∈ (t.cluster q).headed
          ∧ t.mem.read (s.imageOf q e + 2) = 0 ∧ (∀ b, b < s.imageOf q e ∨ s.imageOf q e + 0x2000 ≤ b → t.mem.read b = s.mem.read b)
          ∧ (d ≠ 0 → t.me.reg d = { val := s.me.val d, mark := .pending, poison := false }) ∧ SameRegsBut s t d
          ∧ ∃ j, 1 ≤ j ∧ j ≤ 1000 ∧ { due := s.now + j, ev := .deliver s.me.id.uid s.nextTag (.acq 2048 .device), arg := [] } ∈ t.agenda))
    ∧ (s.ready [srcA a xa] [d] true = true → privGe s.me.status.priv .s = true → imageOperand w = true → entry 1 = .ok (q, e) →
      (run s = true → ∃ t, exec load s = .next t ∧ BeganWithin s t d .other 1000 (.val 2))
      ∧ (s.me.status.tl < 2 → run s = false → Quiet s → s.headerOk q e = false → ∃ t, exec load s = .next t ∧ t.flow = .trap ∧ Trapped (s.releaseMe .device) t 9 7 w)
      ∧ (run s = false → Quiet s → s.headerOk q e = true → ∃ t, exec load s = .next t ∧ run t = true
          ∧ (s.imageNat (s.imageOf q e) 2 1 ≠ 0 → e ∈ (t.cluster q).imaged) ∧ e ∈ (t.cluster q).headed
          ∧ { due := s.now, ev := .sliceEarlyEnd q, arg := [] } ∈ t.agenda ∧ (∀ b, t.mem.read b = s.mem.read b)
          ∧ (d ≠ 0 → t.me.reg d = { val := s.me.val d, mark := .pending, poison := false }) ∧ SameRegsBut s t d
          ∧ (∀ i, i ≠ s.cur → t.slot i = s.slot i) ∧ (∀ p, p ≠ q → t.cluster p = s.cluster p) ∧ t.flow = .seq
          ∧ ∃ j, 1 ≤ j ∧ j ≤ 1000 ∧ { due := s.now + j, ev := .deliver s.me.id.uid s.nextTag (.val 0), arg := [] } ∈ t.agenda))
    ∧ (s.feature 7 = true → s.ready [srcA a xa] [] false = true → s.me.status.tl < 2 →
        (s.me.status.priv = .u → TrapsAs fold s s 9 4 0)
        ∧ (privGe s.me.status.priv .s = true → (w.toNat % 8 ≠ 0 ∨ 2 ^ 63 ≤ w.toNat) → TrapsAs fold s s 9 8 w))
    ∧ (s.me.status.tl < 2 → s.feature 7 = false → ∃ t, exec fold s = .next t ∧ Trapped s t 0 0 s.issuedWord)
    ∧ (s.feature 7 = true → s.ready [srcA a xa] [] false = true → privGe s.me.status.priv .s = true → w.toNat % 8 = 0 → w.toNat < 2 ^ 63 → Quiet s →
        StructAt (s.releaseMe .device) u w 200 l → imageOperand (BitVec.ofNat 64 (leNat (l.take 8))) = true →
        s.entryNamed s.me.id.part (BitVec.ofNat 64 (leNat (l.take 8))) = some (q, e) → s.foldAllowed q e (descFold l) = true → s.mem.wf = true →
        let key := s.imageOf q e
        ∃ t, exec fold s = .next t ∧ t.bytesAt (key + 0x100) 192 = l.drop 8
          ∧ t.mem.read (key + 3) = (if (l.drop 8).all (· == 0) then 0 else 1)
          ∧ (∀ b, b ≠ key + 3 → (b < key + 0x100 ∨ key + 0x1c0 ≤ b) → t.mem.read b = s.mem.read b)
          ∧ (t.cluster q).folds.get [] e = (if (l.drop 8).all (· == 0) then [] else descFold l) ∧ (∀ i, i ≠ s.cur → t.slot i = s.slot i)
          ∧ t.me.regs = s.me.regs ∧ t.me.handles = s.me.handles ∧ t.me.pc = s.me.pc ∧ t.flow = .seq)

/-- R326, R328-R331, R335, R350: a save waits for its strands to stop, writes their records, and leaves their slots free; when its time is over its header stands in the image, and the strand that asked for it is
told the KiB that it moved. A kill in between leaves an image that holds nothing. A context that has come to its end
is not saved: its commands complete first, within its slice (R133). -/
def SavesWriteTheImage : Prop :=
  ∀ (s : State) (q entry v core i n uid tag kib nvc : Nat),
    let k := s.entryKey q entry
    let key := s.imageOf q entry
    let u := s.stopHolder q k
    let next := fun (t : State) => ∀ e, (t.cluster q).saving = some e → (t.cluster q).holder = some e ∧ { due := s.now + 1, ev := .contextRestore q e, arg := [] } ∈ t.agenda
    ((s.cluster q).saving ≠ some entry → exec (.contextSave q entry) s = .next s)
    ∧ ((s.cluster q).saving = some entry → (s.context k).dead = false →
      (s.arg = [0, uid, tag] → u.saveReady q k = true → u.present q k = [(v, core)] → u.slotsOf q k = [i] → (u.slot i).phase = .live →
          s.mem.wf = true →
          ∃ t j, exec (.contextSave q entry) s = .next t ∧ t.slot i = Slot.empty ∧ 64 ≤ j
            ∧ (∃ m, { due := s.now + j, ev := .contextSave q entry, arg := [1, uid, tag, m, v + 1] } ∈ t.agenda)
            ∧ t.bytesAt (key + sectionAt (s.placeOf q i).1 + 2048 * (s.placeOf q i).2) 2048 = (u.slot i).record
            ∧ (∀ x, x ≠ i → t.slot x = u.slot x) ∧ (∀ n c, u.cmds.get? n = some c → clusterOf c.core = q → contextKey c.part c.ctx = k →
                (t.cmds.get? n).map (·.state) = some .saved))
      ∧ (s.arg = [0, uid, tag] → u.saveReady q k = false →
          ∃ t, exec (.contextSave q entry) s = .next t ∧ { due := s.now + 1, ev := .contextSave q entry, arg := [0, uid, tag] } ∈ t.agenda ∧ t.mem = s.mem)
      ∧ (s.arg = [1, uid, tag, kib, nvc] → uid ≠ 0 → nvc ≤ 24 → kib < 2 ^ 32 → s.mem.wf = true →
          ∃ t, exec (.contextSave q entry) s = .next t ∧ entry ∈ (t.cluster q).imaged ∧ entry ∈ (t.cluster q).headed ∧ next t
            ∧ leNat (t.bytesAt key 2) = k % 65536 ∧ leNat (t.bytesAt (key + 2) 1) = nvc
            ∧ leNat (t.bytesAt (key + 8) 8) = (s.poolNow (k / 65536) (k % 65536)).toNat ∧ leNat (t.bytesAt (key + 16) 8) = (s.cidOf (coreAt q 0)).toNat
            ∧ t.bytesAt (key + 0x100) 192 = foldBytes (s.cluster q).fold ∧ (∀ b, b < key ∨ key + 0x2000 ≤ b → t.mem.read b = s.mem.read b)
            ∧ { due := s.now + 1, ev := .deliver uid tag (.acq (BitVec.ofNat 64 (kib * 256)) .device), arg := [] } ∈ t.agenda))
    ∧ ((s.cluster q).saving = some entry → (s.context k).dead = true → n < 2 → s.arg = [n, uid, tag] → uid ≠ 0 → s.mem.wf = true →
        ∃ t, exec (.contextSave q entry) s = .next t ∧ next t ∧ t.mem.read (key + 2) = 0 ∧ (∀ b, b ≠ key + 2 → t.mem.read b = s.mem.read b)
          ∧ t.slots = s.slots ∧ { due := s.now + 1, ev := .deliver uid tag (.acq 3 .device), arg := [] } ∈ t.agenda)
    ∧ ((s.cluster q).saving = some entry → s.arg = [2] → (s.context k).live = 0 →
        (s.commandsIn q k = true → s.now < (s.cluster q).sliceEnd →
          exec (.contextSave q entry) s = .next { s with agenda := s.agenda ++ [{ due := s.now + 1, ev := .contextSave q entry, arg := [2] }] })
        ∧ (s.commandsIn q k = false → ∃ t, exec (.contextSave q entry) s = .next t ∧ next t ∧ t.mem = s.mem ∧ t.slots = s.slots
            ∧ ∀ c, clusterOf c = q → (∃ x, (s.core c).poolFor = some (k, x)) → t.core c = { (s.core c).left with poolFor := none }))

/-- R334, R335, R338: a restore takes its time, and then a LIVE slot record of the image is a strand in its slot again, with its registers, handles and pc, and the cluster goes on dispatching. -/
def RestoresReadTheImage : Prop :=
  ∀ (s : State) (q entry n : Nat),
    let c := s.cluster q
    let k := s.entryKey q entry
    let key := s.imageOf q entry
    let l := s.bytesAt (key + sectionAt 0 + 2048 * n) 2048
    let i := q * 256 + n
    c.holder = some entry → (s.context k).dead = false →
    (s.arg = [] → c.saving = some entry → exec (.contextRestore q entry) s = .next { s with
        agenda := s.agenda ++ [{ due := s.now + moveTime (s.restoreKib key), ev := .contextRestore q entry, arg := [1] }] })
    ∧ (s.arg = [1] → c.saving = some entry → tableRun (c.ctable.get 0 entry) = true → s.imageNat key 2 1 = 1 → s.imageNat key 3 1 = 0 → s.imageNat key 0x18 8 = 0 →
        s.liveRecords key 0 = [n] → n < 8 → (recWord l 0).toNat % 8 = 0 → (recWord l 0).toNat < 2 ^ 63 → s.cmds = [] → (∀ c ∈ s.cores, c.2.l1d = []) →
        key + 0x10000000 < 2 ^ 60 →
        ∃ t, exec (.contextRestore q entry) s = .next t ∧ (t.slot i).phase = .live ∧ (t.slot i).pc = recWord l 0
          ∧ (∀ r : Fin 80, r.val ≠ 0 → (t.slot i).regs.get r = recCell l (r.val - 1)) ∧ (∀ h : HReg, h ≠ 0 → (t.slot i).handle h = recHandle l h.toNat)
          ∧ (t.cluster q).saving = none ∧ (t.cluster q).imaged = c.imaged.erase entry ∧ { due := s.now, ev := .dispatchRecord q, arg := [] } ∈ t.agenda)

/-- R326-R352: TLB upkeep, and contexts in and out of their images. Choices of the model that it rests on: log 53, log 83, log 84, log 87, log 90. -/
def Obligations.ContextsMoveThroughImages : Prop := TlbInstructions ∧ ImageInstructions ∧ SavesWriteTheImage ∧ RestoresReadTheImage

/-- R308, R309, R311, R312, R327, R336: a kill frees every slot, name and live strand of its context, which is dead; its record stands in the CCB within 20,000 cycles. A write of the context table takes effect at once on an entry that is neither
the holder's nor being saved; one with a zero field is refused. -/
def ContextsAreKilledAndBound : Prop :=
  ∀ (s : State) (part ctx q entry : Nat) (r : KillRec) (v : BitVec 256),
    let k := contextKey part ctx
    let killed := fun (t : State) (reason code : Nat) (pa : Word) => (t.context k).dead = true ∧ (t.context k).live = 0
      ∧ (∀ i, (s.slot i).phase ≠ .free → contextKey (s.slot i).id.part (s.slot i).id.ctx = k → t.slot i = Slot.empty)
      ∧ (∀ c i, (s.mintEntry c i).state ≠ .free → (s.mintEntry c i).ctx = k → (t.mintEntry c i).state = .free)
      ∧ (∃ r, (t.context k).kill = some r ∧ r.reason = reason ∧ r.code = code ∧ r.tval = pa ∧ r.cycle = s.now - s.plat.bootTime)
      ∧ (∀ i, (s.slot i).phase ≠ .free → contextKey (s.slot i).id.part (s.slot i).id.ctx ≠ k →
          (t.slot i).regs = (s.slot i).regs ∧ (t.slot i).pc = (s.slot i).pc ∧ (t.slot i).phase = (s.slot i).phase)
      ∧ ∃ j, 1 ≤ j ∧ j ≤ 20000 ∧ { due := s.now + j, ev := .killComplete part ctx, arg := [] } ∈ t.agenda
    let room := (s.part ((s.ownerOf q).getD 0)).capacity
    let inside := tableImage v + 0x1382000 ≤ room ∧ tableCcb v + 256 ≤ room
    ((s.context k).kill = none → (s.context k).dead = false → s.bound part ctx = true → ∃ t, exec (.ctxkill part ctx) s = .next t ∧ killed t 2 0 0)
    ∧ ((s.context k).kill = none → ((s.context k).dead = true ∨ s.bound part ctx = false) → exec (.ctxkill part ctx) s = .next s)
    ∧ ((s.context k).kill = some r → s.ccbWord part ctx 80 = 0 → PlainHomes s →
        ∃ t, exec (.killComplete part ctx) s = .next t
          ∧ t.ccbWord part ctx 128 = BitVec.ofNat 64 (r.cid.toNat % 2 ^ 26 * 2 ^ 16 + r.reason % 4 * 2 ^ 14 + r.code % 512)
          ∧ t.ccbWord part ctx 136 = r.sid ∧ t.ccbWord part ctx 144 = r.pc ∧ t.ccbWord part ctx 152 = r.tval ∧ t.ccbWord part ctx 160 = r.tpc1
          ∧ t.ccbWord part ctx 168 = r.tpc2 ∧ t.ccbWord part ctx 176 = r.causes ∧ t.ccbWord part ctx 184 = BitVec.ofNat 64 r.cycle
          ∧ (let ccb := hbmKey part (s.context k).ccb.toNat
             ∀ b, (b < ccb + 128 ∨ ccb + 192 ≤ b) → (b < ccb + 88 ∨ ccb + 96 ≤ b) → t.mem.read b = s.mem.read b)
          ∧ (t.ccbWord part ctx 88).toNat / 2 ^ 16 = ((s.ccbWord part ctx 88).toNat / 2 ^ 16 + 1) % 2 ^ 48 ∧ t.slots = s.slots)
    ∧ (tableWeight v ≠ 0 → ¬inside → exec (.contextTableWrite q entry v) s = .next s)
    ∧ (tableZero v = true → entry < 16 → (tableWeight v ≠ 0 → inside) → (s.cluster q).saving = some entry →
        exec (.contextTableWrite q entry v) s = .next (s.after 64 (.contextTableWrite q entry v)))
    ∧ (tableZero v = false → exec (.contextTableWrite q entry v) s = .next s)
    ∧ (tableZero v = true → entry < 16 → (tableWeight v ≠ 0 → inside) → (s.cluster q).saving ≠ some entry → (s.cluster q).holder ≠ some entry →
        ∃ t, exec (.contextTableWrite q entry v) s = .next t ∧ (t.cluster q).ctable.get 0 entry = v
          ∧ { due := s.now, ev := .sliceEarlyEnd q, arg := [] } ∈ t.agenda ∧ t.slots = s.slots
          ∧ (tableWeight v ≠ 0 → (t.context (contextKey ((s.ownerOf q).getD 0) (tableCtx v))).ccb = BitVec.ofNat 64 (tableCcb v)))

/-- R312, R336, R408: once the supervisor has written zero to PFAULT, the entry of the pending list of the cluster's holder acts at once: a drift request becomes sendable, a peal node comes to its
turn, and the list is empty. One whose buffer faults stays, with its fault in PFAULT, and the exception completion word completes. -/
def PendingEntriesAct : Prop :=
  ∀ (s : State) (q entry va len r i : Nat) (w : WorkReq) (run : PealRun) (node : GraphNode),
    let key := s.imageOf q entry
    let k := s.entryKey q entry
    let part := k / 65536
    let ccb := hbmKey part (s.context k).ccb.toNat
    let num := fun (t : State) (off n : Nat) => leNat (t.bytesAt (key + off) n)
    let seq := fun (t : State) => (t.ccbWord part (k % 65536) 72).toNat / 2 ^ 16
    let step := Instr.pfaultClear q entry
    let id := num s 0x404 4
    let trigger := num s 0x408 8
    (s.cluster q).holder = some entry → (s.cluster q).saving = none →
    (num s 0x28 8 ≠ 0 → exec step s = .next { s with agenda := s.agenda ++ [{ due := s.now + 64, ev := step, arg := [] }] })
    ∧ (num s 0x28 8 = 0 → num s 0x18 8 = 0 → exec step s = .next s)
    ∧ (num s 0x28 8 = 0 → num s 0x18 8 = 1 → s.mem.wf = true → key + 0x2000 < 2 ^ 55 →
      let acts := fun (p : State → Prop) => ∃ t, exec step s = .next t ∧ num t 0x18 8 = 0 ∧ num t 0x400 32 = 0 ∧ t.slots = s.slots ∧ p t
        ∧ ∀ b, (b < key + 0x18 ∨ key + 0x20 ≤ b) → (b < key + 0x400 ∨ key + 0x800 ≤ b) → t.mem.read b = s.mem.read b
      let stays := fun (va d : Nat) => ∃ t, exec step s = .next t ∧ num t 0x18 8 = 1 ∧ num t 0x400 32 = num s 0x400 32 ∧ num t 0x20 8 = va
        ∧ num t 0x28 8 = 2 ^ 63 + 4 * 32 + d ∧ seq t = (seq s + 1) % 2 ^ 48 ∧ t.drift = s.drift ∧ t.engine = s.engine ∧ t.slots = s.slots
        ∧ { due := s.now + 64, ev := step, arg := [] } ∈ t.agenda
      let plain := PlainHomes s ∧ s.ccbWord part (k % 65536) 64 = 0 ∧ (ccb + 0x100 ≤ key ∨ key + 0x2000 ≤ ccb)
      (num s 0x400 2 = 1 → ((s.dqueue part id).held.find? fun w => w.trig == 3 && w.cluster == q && w.uid / 2 ^ 32 == k) = some w →
        let pieces := piecesOf (w.va.toNat + w.off) (w.len - w.off)
        let walk := fun (a : Nat) => (s.walk 0 part ((s.descWord part id 16).toNat / 2 ^ 32 % 4096) (BitVec.ofNat 64 a)).2.result
        ((∀ p ∈ pieces, ∃ x, walk p.1 = .ok x) → acts fun t => { w with trig := 0, fired := true } ∈ (t.dqueue part id).held
          ∧ { due := s.now, ev := .driftSend part id, arg := [] } ∈ t.agenda)
        ∧ (pieces = [(va, len)] → va < 2 ^ 63 → r < 8 → walk va = .error r → plain → stays va r))
      ∧ (num s 0x400 2 = 2 → ((s.runsOf (pealKey part id)).find? fun x => x.2.seq % 2 ^ 32 == trigger / 65536 % 2 ^ 32) = some (i, run) →
        (s.pealOf run).bind (fun p => p.nodes[trigger % 65536]?) = some node →
        (s.nodeFault run node = none → acts fun t => { due := s.now, ev := .pealNode part i (trigger % 65536), arg := [] } ∈ t.agenda)
        ∧ (s.nodeFault run node = some (va, r) → va < 2 ^ 63 → r < 16 → plain → stays va r)))

/-- R318, R432: soft errors. A corrected event is counted in the low half of CECOUNT, one that is not in the high half, both saturating; the latter leaves a poison mark on the register that received the data, or uncorrectable bytes
that a later read meets, a fault on the fetched block, or kills the context with reason 3. -/
def SoftErrorsAreCountedAndContained : Prop :=
  ∀ (s : State) (place : BitVec 2) (uid reg i n : Nat) (pa : Word),
    let low := s.plat.cecount.toNat % 2 ^ 32
    let high := s.plat.cecount.toNat / 2 ^ 32
    let k := uid / 2 ^ 32
    (s.arg = [n] → ∃ t, exec .eccCorrected s = .next t ∧ t.plat.cecount.toNat = high * 2 ^ 32 + min (low + n) 0xffffffff ∧ t = { s with plat := t.plat })
    ∧ (let counted := fun (t : State) => t.plat.cecount.toNat = min (high + 1) 0xffffffff * 2 ^ 32 + low
       (s.slotOf uid = some i → Resident (s.slot i) reg →
          ∃ t, exec (.uncorrectableError place 0 uid reg pa) s = .next t ∧ counted t ∧ (uid, reg, place.toNat, pa) ∈ t.poisons ∧ t.mem = s.mem
            ∧ (t.slot i).regs.get (physAbs reg) = { (s.slot i).regs.get (physAbs reg) with poison := true }
            ∧ (∀ r : Fin 80, r ≠ physAbs reg → (t.slot i).regs.get r = (s.slot i).regs.get r)
            ∧ t.slot i = { s.slot i with regs := (t.slot i).regs } ∧ ∀ x, x ≠ i → t.slot x = s.slot x)
       ∧ (s.slotOf uid = some i →
          let key := if place = 0 then poolKey (i / 8) (pa.toNat / 8 % 2 ^ 17 * 8) else hbmKey (k / 65536) (pa.toNat / 8 % 2 ^ 46 * 8)
          ∃ t, exec (.uncorrectableError place 0 uid 0 pa) s = .next t ∧ counted t ∧ t = { s with plat := t.plat, badBytes := t.badBytes }
            ∧ ∀ b, b ∈ t.badBytes ↔ b ∈ s.badBytes ∨ (b.2 = place.toNat ∧ key ≤ b.1 ∧ b.1 < key + 8))
       ∧ (s.slotOf uid = some i →
          ∃ t, exec (.uncorrectableError place 1 uid reg pa) s = .next t ∧ counted t ∧ t.mem = s.mem
            ∧ (t.slot i).front.fetch.map (·.fault) = some (some (11, place.toNat * 8 + 1, pa)) ∧ t.slot i = { s.slot i with front := (t.slot i).front }
            ∧ ∀ x, x ≠ i → t.slot x = s.slot x)
       ∧ ((s.context k).dead = false → s.bound (k / 65536) (k % 65536) = true →
          ∃ t, exec (.uncorrectableError place 2 uid reg pa) s = .next t ∧ (t.context k).dead = true ∧ (t.context k).live = 0
            ∧ ∃ r, (t.context k).kill = some r ∧ r.reason = 3 ∧ r.code = 11 * 32 + place.toNat * 8 + 2 ∧ r.tval = pa))

/-- R308-R312, R318, R327, R336, R432: the end of a context, its binding, its pending list, and soft errors. Choices of the model that it rests on: log 89, log 91, log 92, log 148. -/
def Obligations.ContextsEndAndErrorsAreContained : Prop := ContextsAreKilledAndBound ∧ PendingEntriesAct ∧ SoftErrorsAreCountedAndContained

-- ==== partitions and the host (R358-R375) ====

/-- A quantum after a scrub (R365): no strand, nothing in its cluster, and its cores' pools zero. -/
def Scrubbed (t : State) (q : Nat) : Prop :=
  (∀ i, clusterOf (coreOf i) = q → t.slot i = Slot.empty) ∧ t.cluster q = Cluster.empty
    ∧ ∀ n, n < 24 → ∀ a, a < 2 ^ 20 → t.mem.read (poolKey (coreAt q n) a) = 0

/-- A partition's HBM is zero. -/
def Blank (t : State) (part : Nat) : Prop := ∀ a, a < 2 ^ 49 → t.mem.read (hbmKey part a) = 0

/-- The end of a command of PCTL is due within a bound. -/
def Ends (s t : State) (part bound : Nat) : Prop :=
  ∃ j, 1 ≤ j ∧ j ≤ bound ∧ { due := s.now + j, ev := .pctlCommandDone part, arg := [] } ∈ t.agenda

/-- R362, R363: a command while DONE is 0 is BUSY and does nothing else; one that its state, its quanta or a leaving cluster forbids is refused with RESULT 2, 3 or 4, the first that applies. -/
def CommandsAreRefused : Prop :=
  ∀ (s : State) (part q e : Nat),
    let p := s.part part
    let at_ := fun (i : Instr) (cmd : BitVec 4) (n : BitVec 8) => exec i s = .next (s.modPart part fun p => { p with cmd := cmd, result := n })
    let bad := p.qnew = 0 ∨ (∃ x ∈ s.parts, x.1 ≠ part ∧ x.2.quanta &&& p.qnew ≠ 0) ∨ p.qnew &&& s.plat.disabled ≠ 0
    (∀ i ∈ [Instr.create part, .start part, .stop part, .resize part, .reset part, .destroy part], p.done = false →
      exec i s = .next (s.modPart part fun p => { p with result := 1 }))
    ∧ (p.done = true →
      (p.state ≠ .free → at_ (.create part) 1 2) ∧ (p.state ≠ .stopped → at_ (.start part) 2 2) ∧ (p.state ≠ .running → at_ (.stop part) 3 2)
      ∧ (p.state ≠ .stopped ∧ p.state ≠ .running → at_ (.resize part) 4 2 ∧ at_ (.reset part) 5 2) ∧ (p.state ≠ .stopped → at_ (.destroy part) 6 2)
      ∧ (p.state = .free → s.feature 0 = true → s.plat.recovery = false → bad → at_ (.create part) 1 3)
      ∧ (p.state = .stopped ∨ p.state = .running → bad ∨ p.qnew &&& p.quanta = 0 → at_ (.resize part) 4 3)
      ∧ (p.state = .stopped ∨ p.state = .running → ¬bad → p.qnew &&& p.quanta ≠ 0 → q < 64 → p.quanta.getLsbD q = true → p.qnew.getLsbD q = false →
          e < 16 → tableWeight ((s.cluster q).ctable.get 0 e) ≠ 0 → at_ (.resize part) 4 4))

/-- R363-R366: what the six commands do where they are accepted; each is DONE later, and no other partition's page changes. RESIZE
remembers the memory requests that are under way to homes that move; what lies above the smaller of its two capacities is zero. -/
def CommandsAct : Prop :=
  ∀ (s : State) (part : Nat),
    let p := s.part part
    let bad := p.qnew = 0 ∨ (∃ x ∈ s.parts, x.1 ≠ part ∧ x.2.quanta &&& p.qnew ≠ 0) ∨ p.qnew &&& s.plat.disabled ≠ 0
    let bound := ∃ q e, q < 64 ∧ e < 16 ∧ p.quanta.getLsbD q = true ∧ p.qnew.getLsbD q = false ∧ tableWeight ((s.cluster q).ctable.get 0 e) ≠ 0
    let does := fun (i : Instr) (n : Nat) (x : Partition) (also : State → Prop) =>
      ∃ t, exec i s = .next t ∧ t.part part = { x with result := 0, done := false } ∧ Ends s t part n ∧ (∀ k, k ≠ part → t.part k = s.part k) ∧ also t
    let wiped := { p with rodep := 0, hdepdone := 0, hdeperr := 0, qbase := 0, smgen := p.smgen + 1, rtgen := p.rtgen + 1, keyDraws := p.keyDraws + 1,
                          records := 0, bulks := [], moved := [], hostq := [], hostOpen := [], nonce := [], attest := 0, report := [], state := .resetting }
    let erased := fun (t : State) => Blank t part ∧ (∀ q, q < 64 → p.quanta.getLsbD q = true → Scrubbed t q)
      ∧ (∀ n c, t.cmds.get? n = some c → c.part ≠ part) ∧ (∀ x ∈ t.contexts, x.1 / 65536 ≠ part) ∧ (∀ g ∈ t.melts, g.part ≠ part)
      ∧ (∀ c i, c < 64 * 32 → c % 32 < 24 → p.quanta.getLsbD (c / 32) = true → (t.mintEntry c i).state = .free)
    p.done = true →
    (p.state = .free → s.feature 0 = true → s.plat.recovery = false → ¬bad →
      does (.create part) 17000000 { p with quanta := p.qnew, state := .stopped, smgen := 1, rtgen := 1, keyDraws := p.keyDraws + 1, cmd := 1 }
        fun t => Blank t part ∧ ∀ q, q < 64 → p.qnew.getLsbD q = true → Scrubbed t q)
    ∧ (p.state = .stopped →
      does (.start part) 1000 { p with state := .running, inSlice := p.sliceMap, inRange := p.rangeTable, inHome := p.homeTable, smgen := p.smgen + 1, rtgen := p.rtgen + 1, cmd := 2 }
        fun t => t.slots = s.slots ∧ t.clusters = s.clusters
          ∧ ∀ q, q < 64 → p.quanta.getLsbD q = true → { due := s.now, ev := .sliceEarlyEnd q, arg := [] } ∈ t.agenda ∧ ∀ n, n < 24 → (t.core (coreAt q n)).l1d = [])
    ∧ (p.state = .running →
      does (.stop part) 1000 { p with cmd := 3 } fun t => ∀ q e, q < 64 → e < 16 → p.quanta.getLsbD q = true → tableWeight ((s.cluster q).ctable.get 0 e) ≠ 0 →
        tableRun ((t.cluster q).ctable.get 0 e) = false)
    ∧ (p.state = .stopped ∨ p.state = .running → ¬bad → p.qnew &&& p.quanta ≠ 0 → ¬bound →
      let moves := p.quanta ^^^ p.qnew
      let to_ := { p with quanta := p.qnew, inSlice := p.sliceMap, inHome := p.homeTable }
      let still := s.partials = [] ∧ s.melts = [] ∧ ∀ c ∈ s.cores, c.2.l1d = []
      ∃ t m, exec (.resize part) s = .next t
        ∧ t.part part = { to_ with smgen := p.smgen + 1, rtgen := p.rtgen + 1, moved := m, state := .resizing, back := p.state, cmd := 4, result := 0, done := false }
        ∧ Ends s t part 99000000 ∧ (∀ k, k ≠ part → t.part k = s.part k)
        ∧ (∀ q, q < 64 → moves.getLsbD q = true → Scrubbed t q)
        ∧ (s.melts = [] → (∀ i, moves.getLsbD (clusterOf (coreOf i)) = false → t.slot i = s.slot i) ∧ (∀ q, moves.getLsbD q = false → t.cluster q = s.cluster q))
        ∧ (∀ n c, t.cmds.get? n = some c → moves.getLsbD (clusterOf c.core) = false)
        ∧ (still → m = (s.oldRequests part to_).map (·.1) ∧ (part < 64 → ∀ a, a < 2 ^ 49 →
            t.mem.read (hbmKey part a) = if a < min p.capacity to_.capacity then s.mem.read (hbmKey part a) else 0)))
    ∧ (p.state = .stopped ∨ p.state = .running → does (.reset part) 1990000000 { wiped with back := .stopped, cmd := 5 } erased)
    ∧ (p.state = .stopped → does (.destroy part) 1990000000 { wiped with back := .free, cmd := 6 } erased)

/-- R362, R363: at its end a command is DONE, and the partition is in the state that the command leads to; STOP ends only when no cluster still stops. -/
def CommandsEnd : Prop :=
  ∀ (s : State) (part : Nat),
    let p := s.part part
    let ends := fun (x : Partition) => exec (.pctlCommandDone part) s = .next (s.modPart part fun _ => { x with done := true, result := 0 })
    (p.done = true → exec (.pctlCommandDone part) s = .next s)
    ∧ (p.done = false →
      (p.cmd = 1 ∨ p.cmd = 2 → ends p) ∧ (p.cmd = 3 → s.stillStopping part = false → ends { p with state := .stopped })
      ∧ (p.cmd = 3 → s.stillStopping part = true → ∃ t, exec (.pctlCommandDone part) s = .next t ∧ t.part part = p
          ∧ { due := s.now + 64, ev := .pctlCommandDone part, arg := [] } ∈ t.agenda)
      ∧ (p.cmd = 4 ∨ p.cmd = 5 → ends { p with state := p.back }) ∧ (p.cmd = 6 → ends { p with state := p.back, quanta := 0 }))

/-- R360, R362, R370, R371, R394: the writes of a partition's control page that have no row of their own, of 64 bits: who may write what. The ones that R360 does not allow change nothing. -/
def ControlPageWrites : Prop :=
  ∀ (s : State) (own p i : Nat) (v : Word),
    p < 64 →
    let x := s.part p
    let write := fun (priv : Priv) (off : Nat) => exec (.controlRegisterWrite own priv (0x1f0000000000 + p * 65536 + off) 8 v) s
    let sets := fun (off : Nat) (y : Partition) => write .m off = .next (s.modPart p fun _ => y)
    let nothing := fun (priv : Priv) (off : Nat) => write priv off = .next s
    let n := v.toNat
    let lo := n / 2 ^ 30 % 2 ^ 19 * 2 ^ 30
    let hi := lo + n / 2 % 2 ^ 15 * 2 ^ 30
    let base := x.fheap.toNat / 2 ^ 16 % 2 ^ 33 * 65536
    let top := base + x.fheap.toNat % 2 ^ 16 * 65536
    sets 0x18 { x with qnew := v }
    ∧ (n < 16 → n = 0 ∨ 6 < n → sets 0x10 (if x.done = true then { x with cmd := BitVec.ofNat 4 n, result := 2 } else { x with result := 1 }))
    ∧ (if n < 2 ^ 49 ∧ n % 2 ^ 15 = 0 then sets 0x20 { x with ptroot := v } else nothing .m 0x20)
    ∧ (if x.state = .stopped ∧ n < 2 ^ 49 then sets 0x28 { x with fheap := v } else nothing .m 0x28)
    ∧ (if n / 2 ^ 22 % 2 ^ 8 = 0 ∧ n / 4 % 2 ^ 6 = 0 ∧ (n % 2 = 0 ∨ s.feature 1 = true) then sets 0x48 { x with hmap := v } else nothing .m 0x48)
    ∧ (if n < 2 ^ 49 ∧ n / 2 ^ 16 % 2 ^ 14 = 0 ∧ (n % 2 = 0 ∨ s.feature 2 = true) ∧ hi ≤ x.capacity ∧ (top ≤ lo ∨ hi ≤ base ∨ base = top ∨ lo = hi)
        then sets 0x50 { x with hdm := v } ∧ (p = own → write .s 0x50 = write .m 0x50) else nothing .m 0x50 ∧ nothing .s 0x50)
    ∧ (if n = 0 then sets 0x58 { x with rodep := v } ∧ sets 0x68 { x with hdeperr := v } else nothing .m 0x58 ∧ nothing .m 0x68)
    ∧ (if x.state = .stopped ∧ n < 2 ^ 49 ∧ n / 2 % 2 ^ 17 = 0 then sets 0x70 { x with qbase := v } else nothing .m 0x70)
    ∧ (i < 64 → if n % 2 ^ 7 = 0 then sets (0x200 + 8 * i) { x with rangeTable := x.rangeTable.set i v } else nothing .m (0x200 + 8 * i))
    ∧ (i < 32 → ∃ t, write .m (0x100 + 8 * i) = .next t ∧ ∀ k, k < 8 → (t.part p).sliceMap.get 0 (8 * i + k) = BitVec.ofNat 8 (n / 2 ^ (8 * k)))
    ∧ (i < 32 → ∃ t, write .m (0x400 + 8 * i) = .next t ∧ ∀ k, k < 8 → (t.part p).homeTable.get 0 (8 * i + k) = BitVec.ofNat 8 (n / 2 ^ (8 * k)))
    ∧ (∀ off ∈ [0x00, 0x08, 0x38, 0x40, 0x60], nothing .m off)
    ∧ (∀ off ∈ [0x00, 0x08, 0x18, 0x20, 0x28, 0x38, 0x40, 0x48, 0x58, 0x60, 0x68, 0x70], nothing .s off)
    ∧ (p ≠ own → ∀ off, off % 8 = 0 → off < 65536 → nothing .s off)

/-- R358, R359: a lane that fails is replaced and nothing changes; the loss of an adjacent pair of dies is counted once, and its traffic takes the other route. -/
def DieLinksFail : Prop :=
  ∀ (s : State) (n : Nat),
    exec .ucieLaneFailure s = .next s
    ∧ (s.arg = [n] → n < 4 → n ∈ s.plat.lostPairs → exec .dieLinkLoss s = .next s)
    ∧ (s.arg = [n] → n < 4 → n ∉ s.plat.lostPairs → ∃ t, exec .dieLinkLoss s = .next t ∧ t = { s with plat := t.plat }
        ∧ t.plat.lostPairs = n :: s.plat.lostPairs ∧ t.plat.linkev.toNat = s.plat.linkev.toNat / 65536 * 65536 + min (s.plat.linkev.toNat % 65536 + 1) 65535)

/-- R358-R366: PCTL, the partition's control page, and the dies' links. Choices of the model that it rests on: log 45, log 93, log 94, log 95. -/
def Obligations.PartitionsAreCommanded : Prop := CommandsAreRefused ∧ CommandsAct ∧ CommandsEnd ∧ ControlPageWrites ∧ DieLinksFail

/-- A write of the host that is dropped (R374): HDEPERR counts it and holds the reason, and nothing else changes. -/
def HostDropped (s t : State) (part n : Nat) : Prop :=
  (t.part part).hdeperr.toNat = min ((s.part part).hdeperr.toNat / 2 ^ 32 + 1) 0xffffffff * 2 ^ 32 + n
    ∧ t = s.modPart part fun p => { p with hdeperr := (t.part part).hdeperr }

/-- A write without order is numbered and open until it is performed, after at most `n` cycles (R375). -/
def HostOpened (s t : State) (part port n : Nat) (i : Instr) : Prop :=
  ∃ j, 1 ≤ j ∧ j ≤ n ∧ (t.part part).hostOpen = (s.part part).hostOpen ++ [(port, s.nextTag)] ∧ (∀ k, k ≠ part → t.part k = s.part k) ∧ t = { s with
    parts := t.parts, agenda := s.agenda ++ [{ due := s.now + j, ev := i, arg := [1, s.nextTag] }], tick := s.tick + 1, nextTag := s.nextTag + 1 }

/-- R372-R375: writes through the ordered and the bulk window. One that lies outside the capacity or in the heap is dropped with reason 6; an ordered one with RO clear is in memory at once, or after the port's record that has
not acted, one with RO set within 10,000 cycles, and a bulk one later, when it is counted. Choices of the model that it rests on: log 97, log 157. -/
def WindowWrites : Prop :=
  ∀ (s : State) (part port addr x : Nat) (ro : Bool) (l : List Byte),
    let p := s.part part
    let base := p.fheap.toNat / 2 ^ 16 % 2 ^ 33 * 65536
    let top := base + p.fheap.toNat % 2 ^ 16 * 65536
    let ok := addr + l.length ≤ p.capacity ∧ (addr + l.length ≤ base ∨ top ≤ addr ∨ base = top)
    let ordered := Instr.hostOrderedWrite part port ro addr l
    let bulk := Instr.hostBulkWrite part port addr l
    let stored := fun (t : State) => (∀ k, k < l.length → t.mem.read (hbmKey part addr + k) = l.getD k 0)
      ∧ (∀ k, (k < hbmKey part addr ∨ hbmKey part addr + l.length ≤ k) → t.mem.read k = s.mem.read k) ∧ t.slots = s.slots
    let performed := p.hostOpen.filter fun w => decide (w ≠ (port, x))
    (s.arg = [] → ¬ok → ∀ i ∈ [ordered, bulk], ∃ t, exec i s = .next t ∧ HostDropped s t part 6)
    ∧ (ok →
      (s.arg = [] → ro = true → ∃ t, exec ordered s = .next t ∧ HostOpened s t part port 10000 ordered)
      ∧ (s.arg = [] → ∃ t, exec bulk s = .next t ∧ HostOpened s t part port 65536 bulk)
      ∧ ((s.meltAt (hbmKey part addr) l.length).isSome = true → (ro = false ∧ p.hostq.get [] port = []) ∨ s.arg = [1, x] →
          ∃ t, exec ordered s = .next t ∧ t = { s with parts := t.parts })
      ∧ (s.arg = [] → ro = false → p.hostq.get [] port ≠ [] →
          exec ordered s = .next (s.modPart part fun p => { p with hostq := p.hostq.set port (p.hostq.get [] port ++ [ordered]) }))
      ∧ (PlainHomes s →
        (s.arg = [] → ro = false → p.hostq.get [] port = [] →
          ∃ t, exec ordered s = .next t ∧ stored t ∧ t.part part = { p with hostq := p.hostq.del port } ∧ ∀ k, k ≠ part → t.part k = s.part k)
        ∧ (s.arg = [1, x] → ∃ t, exec ordered s = .next t ∧ stored t ∧ t.part part = { p with hostOpen := performed } ∧ ∀ k, k ≠ part → t.part k = s.part k)
        ∧ (s.arg = [1, x] → ∃ t, exec bulk s = .next t ∧ stored t
            ∧ t.part part = { p with hostOpen := performed, bulks := p.bulks.set port (p.bulks.get 0 port + 1) } ∧ ∀ k, k ≠ part → t.part k = s.part k)))

/-- R373-R375: a deposit record of 64 bytes is dropped with the reason that applies, or acts as a TDEP.W of the host: with RO clear at once at a home of this device, and the port's later ordered accesses wait for it. RODEP counts
the writes with RO set, accepted or not. -/
def DepositRecords : Prop :=
  ∀ (s : State) (part port addr : Nat) (l : List Byte) (x : Instr),
    let p := s.part part
    let len := structNat l 16 2
    let pa := structNat l 24 8
    let rec_ := fun (ro : Bool) => Instr.hostDepositRecord part port ro addr l
    let form := l.length = 64 ∧ addr % 64 = 0
    let zeros := len ≤ 1024 ∧ structNat l 18 6 = 0 ∧ structNat l 40 24 = 0
    let place := pa % 64 = 0 ∧ s.windowOk part pa (64 * len) = true
    let runs := p.state = .running ∨ (p.state = .resizing ∧ p.back = .running)
    let drops := fun (n : Nat) => ∃ t, exec (rec_ false) s = .next t ∧ HostDropped s t part n
    let taken := form ∧ zeros ∧ place ∧ p.records < 256 ∧ runs
    (s.arg = [] →
      (¬form → drops 1) ∧ (form → ¬zeros → drops 2) ∧ (form → zeros → ¬place → drops 3) ∧ (form → zeros → place → 256 ≤ p.records → drops 4)
      ∧ (form → zeros → place → p.records < 256 → ¬runs → drops 5)
      ∧ (∃ t, exec (rec_ true) s = .next t ∧ (t.part part).rodep = (if p.rodep.toNat = 2 ^ 64 - 1 then p.rodep else p.rodep + 1))
      ∧ (taken → ∃ t, exec (rec_ true) s = .next t ∧ HostOpened s t part port 10000 (rec_ true) ∧ (t.part part).records = p.records + 1)
      ∧ (taken → p.hostq.get [] port ≠ [] → exec (rec_ false) s = .next
          (s.modPart part fun p => { p with records := p.records + 1, hostq := p.hostq.set port (p.hostq.get [] port ++ [rec_ false]) }))
      ∧ (taken → p.hostq.get [] port = [] → s.partials = [] → s.melts = [] →
          (s.homeFor part (BitVec.ofNat 32 (structNat l 0 4)) (BitVec.ofNat 32 (structNat l 4 4))).device = s.plat.device →
          ∃ t r, exec (rec_ false) s = .next t ∧ { due := s.now, ev := .depositAtHome r, arg := [] } ∈ t.agenda ∧ (t.part part).records = p.records + 1
            ∧ (t.part part).hostq.get [] port = [rec_ false] ∧ t.mem = s.mem
            ∧ r.op = .dep ∧ r.mode = .w ∧ r.part = part ∧ r.host = some port ∧ r.f0 = BitVec.ofNat 32 (structNat l 0 4) ∧ r.f1 = BitVec.ofNat 32 (structNat l 4 4)
            ∧ r.f2 = BitVec.ofNat 32 (structNat l 8 4) ∧ r.f3 = BitVec.ofNat 32 (structNat l 12 4) ∧ r.len64 = len ∧ r.payload = s.bytesAt (hbmKey part pa) (64 * len)
            ∧ r.sid = BitVec.ofNat 64 (structNat l 32 8) ∧ r.cid = BitVec.ofNat 64 (0xffffffffffffff00 + port)))
    ∧ (s.arg = [2] → p.hostq.get [] port = [x] → exec (rec_ false) s = .next (s.modPart part fun p => { p with hostq := p.hostq.del port }))

/-- R372, R375: what the host reads: the words of BAR0, memory of the windows, through the ordered one after the port's earlier writes, Unsupported Request outside; BULKSYNC answers with the count of bulk writes performed, once
every bulk and RO write of its port that arrived before has been performed. -/
def WindowReads : Prop :=
  ∀ (s : State) (part port bar addr n : Nat),
    let p := s.part part
    let read := fun (bar addr n : Nat) => exec (.hostWindowRead part port bar addr n) s
    let answers := fun (o : Out) (bar addr : Nat) (data : Option (List Byte)) =>
      o = .next { s with host := s.host ++ [{ part := part, port := port, bar := bar, addr := addr, data := data }] }
    let open_ := ∃ w ∈ p.hostOpen, w.1 = port ∧ w.2 < n
    answers (read 0 0x10000 8) 0 0x10000 (some (wordBytes 8 p.hdepdone)) ∧ answers (read 0 0x10008 8) 0 0x10008 (some (wordBytes 8 p.hdeperr))
    ∧ answers (read 0 0x10010 8) 0 0x10010 (some (wordBytes 8 p.rodep)) ∧ answers (read 0 0x10020 8) 0 0x10020 (some (wordBytes 8 (s.partWord part 8)))
    ∧ read 0 0x10018 8 = .next (s.after 0 (.bulksync part port))
    ∧ (bar ≠ 0 → (bar = 2 → p.hostq.get [] port = []) →
      let answered := fun (data : Option (List Byte)) => ∃ t, read bar addr n = .next t ∧ (∀ k, k ≠ part → t.part k = s.part k)
        ∧ t.part part = (if bar = 2 ∧ s.arg.getD 0 0 ≠ 1 then { p with hostq := p.hostq.del port } else p)
        ∧ t = { s with slices := t.slices, cores := t.cores, parts := t.parts,
                       host := s.host ++ [{ part := part, port := port, bar := bar, addr := addr, data := data }] }
      (s.windowOk part addr n = false → answered none)
      ∧ (s.windowOk part addr n = true → s.melts = [] → s.partials = [] → (s.core deviceCore).l1d = [] → answered (some (s.bytesAt (hbmKey part addr) n))))
    ∧ (s.arg = [] → p.hostq.get [] port ≠ [] → read 2 addr n = .next
        (s.modPart part fun p => { p with hostq := p.hostq.set port (p.hostq.get [] port ++ [.hostWindowRead part port 2 addr n]) }))
    ∧ ((s.arg = [] ∧ n = s.nextTag ∨ s.arg = [n]) →
        (open_ → exec (.bulksync part port) s = .next (s.afterArg 1 (.bulksync part port) [n]))
        ∧ (¬open_ → answers (exec (.bulksync part port) s) 0 0x10018 (some (leBytes 8 (p.bulks.get 0 port)))))

/-- R215, R369, R371: the host's accesses to the HDM range reach memory, and one outside it is answered without data (log 99); a snoop brings the device's copy of host memory up to date. -/
def CxlAccesses : Prop :=
  ∀ (s : State) (part port addr n line : Nat) (l : List Byte),
    let v := (s.part part).hdm.toNat
    let lo := v / 2 ^ 30 % 2 ^ 19 * 2 ^ 30
    let inside := v % 2 = 1 ∧ lo ≤ addr ∧ addr + n ≤ lo + v / 2 % 2 ^ 15 * 2 ^ 30
    let answer := fun (data : Option (List Byte)) => State.hostAnswer s part 0 6 addr data
    let written := fun (t : State) (key n : Nat) => (∀ k, k < n → t.mem.read (key + k) = l.getD k 0)
      ∧ (∀ k, (k < key ∨ key + n ≤ k) → t.mem.read k = s.mem.read k) ∧ t.slots = s.slots
    (¬inside → ∀ w, exec (.cxlMemAccess part w addr n l) s = .next (answer none))
    ∧ (inside → s.melts = [] → s.partials = [] → (s.core deviceCore).l1d = [] → ∃ t, exec (.cxlMemAccess part false addr n l) s = .next t
        ∧ t = { answer (some (s.bytesAt (hbmKey part addr) n)) with slices := t.slices, cores := t.cores })
    ∧ (inside → PlainHomes s → l.length = n → ∃ t, exec (.cxlMemAccess part true addr n l) s = .next t ∧ written t (hbmKey part addr) n)
    ∧ (l.length = 64 → PlainHomes s → ∃ t, exec (.cxlSnoop port line l) s = .next t ∧ written t (hostKey port (line * 64)) 64)

/-- R369-R375: the host's windows and CXL. Choices of the model that it rests on: log 96, log 97, log 98, log 99, log 157. -/
def Obligations.HostReachesMemory : Prop := WindowWrites ∧ DepositRecords ∧ WindowReads ∧ CxlAccesses

-- ==== boot, attestation and the management page (R423-R433) ====

/-- R423, R424: a device reset scrubs everything that the package holds, frees every partition, clears DRVFEAT and starts TIMEBASE; it runs the image that flash holds, and where that does not verify the device is in recovery. -/
def ResetsBoot : Prop :=
  ∀ s : State, ∃ t, exec .deviceReset s = .next t ∧ t.parts = [] ∧ t.slots = [] ∧ t.cores = [] ∧ t.clusters = [] ∧ t.slices = [] ∧ t.cmds = [] ∧ t.contexts = []
    ∧ t.agenda = [] ∧ t.now = s.now ∧ t.plat.drvfeat = 0 ∧ t.plat.devfeat = s.plat.devfeat ∧ t.plat.disabled = s.plat.disabled ∧ t.plat.bootTime = s.now
    ∧ t.plat.cecount = 0 ∧ t.plat.linkev = 0 ∧ t.plat.plimit = 2600000 ∧ t.plat.throttle = 1 ∧ t.plat.mailbox = true ∧ t.plat.poweredOff = false
    ∧ t.plat.seed = s.plat.seed ∧ t.plat.rootKey = s.plat.rootKey ∧ t.plat.flash = s.plat.flash
    ∧ t.plat.recovery = s.plat.flash.isNone ∧ (∀ n, s.plat.flash = some n → t.plat.image = n)
    ∧ ∀ a, t.mem.read a = if 2 ^ 65 ≤ a then s.mem.read a else 0

/-- R424-R428, log 158: what the mailbox of the physical function does once it is open. A new image goes to flash after its signature verifies and changes nothing else; one that does not verify changes nothing; an update that is
interrupted leaves flash unverifiable. The device manager writes DRVFEAT for the driver, but not while it is locked, nor with a zero field or a bit that DEVFEAT clears. The host reads the certificate chain of the running firmware's key. -/
def MailboxCommands : Prop :=
  ∀ (s : State) (n : Nat) (x : List Nat),
    let flash := fun (f : Option Nat) => exec .firmwareUpdate s = .next { s with plat := { s.plat with flash := f } }
    let v := BitVec.ofNat 64 n
    let locked := ∃ p ∈ s.parts, p.2.state ≠ .free ∨ p.2.done = false
    let refused := bitsOf v 9 55 ≠ 0 ∨ v &&& ~~~s.plat.devfeat ≠ 0 ∨ locked
    (s.plat.mailbox = false → exec .firmwareUpdate s = .next s)
    ∧ (s.plat.mailbox = true →
      (s.arg = [1, n] ∨ s.arg = [1, n, 0] → flash (some n)) ∧ (s.arg = [1, n, 1] → flash none) ∧ (s.arg = 0 :: x → exec .firmwareUpdate s = .next s)
      ∧ (s.arg = [2, n] → refused → exec .firmwareUpdate s = .next s)
      ∧ (s.arg = [2, n] → ¬refused → exec .firmwareUpdate s = .next { s with plat := { s.plat with drvfeat := v } })
      ∧ (s.arg = [3] → exec .firmwareUpdate s = .next { s with
          host := s.host ++ [{ part := 0, port := 0, bar := 7, addr := 0,
                               data := some (Config.certificate s.plat.seed (Config.attestKey s.plat.seed ((List.range 64).map (Config.digest [s.plat.image])))) }] }))

/-- R423, R433: in recovery only the mailbox, a reset and what the package measures act; a package that is off acts only on a reset. -/
def OnlyTheMailboxWorks : Prop :=
  ∀ (s : State) (i : Instr),
    (s.plat.poweredOff = true → (s.works i = true ↔ i = .deviceReset))
    ∧ (s.plat.poweredOff = false → s.plat.recovery = true → (s.works i = true ↔ i = .deviceReset ∨ i = .firmwareUpdate ∨ i = .thermalStop ∨ i = .thermalPowerOff))
    ∧ (s.plat.poweredOff = false → s.plat.recovery = false → s.works i = true)

/-- R428, R429: a request for a report is under way at once and replaces one before it; within 5 ms the report is ready: the nonce of the request (zero where none was written), the three measurements, the TIMEBASE of its signing and the
signature over all of these under the key derived from the identity key seed and the measurement of the running firmware. -/
def ReportsAreMade : Prop :=
  ∀ (s : State) (p : Nat),
    let measure := fun (l : List Nat) => (List.range 64).map (Config.digest l)
    let firmware := measure [s.plat.image]
    let body := (s.part p).report.take 32 ++ firmware ++ measure s.configWords ++ measure (s.part p).words ++ leBytes 8 (s.now - s.plat.bootTime)
    s.arg = [p] →
    (∃ t j, exec .attestRequest s = .next t ∧ (t.part p).attest = 1 ∧ 1 ≤ j ∧ j ≤ 5000000 ∧ { due := s.now + j, ev := .attestReady, arg := [p] } ∈ t.agenda
        ∧ ((s.part p).nonce.length = 32 → (t.part p).report = (s.part p).nonce) ∧ ((s.part p).nonce = [] → (t.part p).report = List.replicate 32 0)
        ∧ t.mem = s.mem ∧ t.slots = s.slots ∧ t.agenda.countP (fun d => d.ev == .attestReady && d.arg.getD 0 0 == p) = 1)
    ∧ ((s.part p).attest = 1 → (s.part p).report.length = 32 →
        ∃ t, exec .attestReady s = .next t ∧ (t.part p).attest = 2 ∧ (t.part p).report.length = 3541
          ∧ (t.part p).report.take 232 = body ∧ ((t.part p).report.drop 224).take 8 = leBytes 8 (s.now - s.plat.bootTime)
          ∧ (∃ draw, ∀ k, k < 3309 → (t.part p).report.getD (232 + k) 0 = Config.signature (Config.attestKey s.plat.seed firmware) body draw k)
          ∧ t = { s with parts := t.parts, tick := s.tick + 1 } ∧ ∀ q, q ≠ p → t.part q = s.part q)
    ∧ ((s.part p).attest ≠ 1 → exec .attestReady s = .next s)

/-- R431-R433: the management page's registers: CECOUNT and LINKEV are cleared, THROTTLE is raised while POWER exceeds PLIMIT, at 105 degrees every running partition is stopped, one that a command keeps busy after that command, and at 115 the
package is off. A renewal of a link's key changes no register. -/
def PlatformRegistersMove : Prop :=
  ∀ (s : State) (n m : Nat),
    let plat := fun (i : Instr) (p : Platform) => exec i s = .next { s with plat := p }
    let stops := fun (t : State) (part : Nat) =>
      ((s.part part).done = true → (s.part part).state = .running → { due := s.now, ev := .stop part, arg := [] } ∈ t.agenda)
      ∧ ((s.part part).done = false → { due := s.now + 64, ev := .thermalStop, arg := [0, part + 1] } ∈ t.agenda)
    plat .cecountClear { s.plat with cecount := 0 } ∧ plat .linkevClear { s.plat with linkev := 0 }
    ∧ (∃ t, exec .linkRekey s = .next t ∧ t = { s with fab := { s.fab with rekeys := t.fab.rekeys } })
    ∧ (s.arg = [n, m] → n < 2 ^ 64 → s.plat.throttle.toNat < 65536 →
        ∃ t, exec .throttle s = .next t ∧ t = { s with plat := { s.plat with power := BitVec.ofNat 64 n, throttle := t.plat.throttle } }
          ∧ (s.plat.plimit.toNat < n → s.plat.throttle.toNat < 65535 → s.plat.throttle.toNat < t.plat.throttle.toNat ∧ t.plat.throttle.toNat < 65536)
          ∧ (s.plat.plimit.toNat < n → 1 ≤ m → m < 65536 → t.plat.throttle.toNat = min (max (s.plat.throttle.toNat + 1) m) 65535)
          ∧ (n ≤ s.plat.plimit.toNat → t.plat.throttle.toNat ≤ s.plat.throttle.toNat))
    ∧ (s.arg = [n] → n < 840 → plat .thermalStop { s.plat with temp := BitVec.ofNat 64 n })
    ∧ (s.arg = [n] → 840 ≤ n → ∃ t, exec .thermalStop s = .next t ∧ t = { s with plat := { s.plat with temp := BitVec.ofNat 64 n }, agenda := t.agenda }
        ∧ ∀ x ∈ s.parts, stops t x.1)
    ∧ (s.arg = [0, n + 1] → ∃ t, exec .thermalStop s = .next t ∧ t = { s with agenda := t.agenda } ∧ stops t n)
    ∧ (s.arg = [n] → n < 920 → plat .thermalPowerOff { s.plat with temp := BitVec.ofNat 64 n })
    ∧ (s.arg = [n] → 920 ≤ n → ∃ t, exec .thermalPowerOff s = .next t ∧ t.plat.poweredOff = true ∧ t.plat.mailbox = false ∧ t.slots = [] ∧ t.agenda = [])

/-- R423-R433: boot, attestation and the management page. Choices of the model that it rests on: log 13, log 100, log 101, log 158. -/
def Obligations.PlatformActs : Prop := ResetsBoot ∧ MailboxCommands ∧ OnlyTheMailboxWorks ∧ ReportsAreMade ∧ PlatformRegistersMove
-- ==== the fabric (R376-R391, R410, R411) ====

/-- A flit has left, or waits for entries on, a link of this device (R380). -/
def Leaves (t : State) (f : Flit) : Prop := ∃ o ∈ t.fab.waiting ++ t.fab.sent, o.flit = f

/-- No request of a core waits for its turn, and the order numbers of its requests and of its buffered stores have been given out. -/
def AllSent (u : State) (core : Nat) : Prop :=
  (∀ x ∈ (u.core core).unacked, (x.out = true ∨ x.acked = true) ∧ x.since < u.nextTag) ∧ ∀ e ∈ (u.core core).sb, e.id < u.nextTag

/-- A request of a core: its strand and tag, the address and kind that a failure reports, its target, source and channel (R379, R380, R388). -/
def Asked (u : State) (core uid part dev tag kind : Nat) (tval : Word) (x : Unacked) : Prop :=
  x.uid = uid ∧ x.tag = tag ∧ x.kind = kind ∧ x.tval = tval ∧ x.acked = false ∧ u.nextTag ≤ x.since ∧ x.flit.dst = dev ∧ x.flit.src = u.plat.device
    ∧ x.flit.part = part ∧ x.flit.core = core ∧ x.flit.vc = if x.flit.kind = .store ∨ x.flit.kind = .ffence then 2 else 0

/-- A request leaves on route `r`, number `k` of its choice, behind the core's requests `l`: it has the next SEQ of the pair, which then rises, and the pair's EPOCH; a resend is due after 50,000 cycles and the
end after 10 ms (R386, R388). `u` is the state that knows the pair's numbers. -/
def Goes (u t : State) (core : Nat) (l : List Unacked) (x : Unacked) (k : Nat) (r : List Nat) : Prop :=
  let c := u.core core
  let dev := x.flit.dst
  let seq := c.seqs.get 0 dev
  let epoch := c.epochs.get 0 dev
  let f := { x.flit with epoch := epoch, seq := seq }
  (t.core core).unacked = l ++ [{ x with flit := f, out := true, sent := u.now, first := u.now, via := k }]
    ∧ (t.core core).seqs.get 0 dev = seq + 1 ∧ (∀ n, n ≠ dev → (t.core core).seqs.get 0 n = c.seqs.get 0 n) ∧ (t.core core).epochs = c.epochs
    ∧ { due := u.now + 50000, ev := .fabricResend core dev seq, arg := [] } ∈ t.agenda
    ∧ { due := u.now + 10000000, ev := .uncertain core dev, arg := [seq.toNat, epoch.toNat] } ∈ t.agenda
    ∧ (r ≠ [] → Leaves t f)

/-- The request of the issuing strand leaves; `u` is `s` after the lookups of the access. -/
def RequestSent (s u t : State) (dev tag kind : Nat) (tval : Word) (k : Nat) (r : List Nat) (what : Flit → Prop) : Prop :=
  (∃ x, Asked u s.myCore s.me.id.uid s.me.id.part dev tag kind tval x ∧ what x.flit ∧ Goes u t s.myCore (u.core s.myCore).unacked x k r)
    ∧ t.mem = u.mem ∧ (∀ i, i ≠ s.cur → t.slot i = s.slot i) ∧ t.flow = .seq

/-- A long producer of the issuing strand stands under a tag, its destination PENDING. -/
def Pends (s t : State) (d : Reg) (tag : Nat) : Prop :=
  (d ≠ 0 → t.me.reg d = { val := s.me.val d, mark := .pending, poison := false }) ∧ SameRegsBut s t d
    ∧ ∃ o ∈ t.me.pend.out, o.tag = tag ∧ o.reg = absReg s.me.depth d

/-- R92, R155, R212, R321, R385-R389: loads and atomics of another device's memory are requests to it, which leave their destination PENDING; where there is no route the failure is known at once. A load takes what the core's
own unacknowledged stores hold; where they hold only a part, it waits. An access to a page of TYPE 01 waits for the strand's earlier ones. -/
def RemoteAccessesAreRequests : Prop :=
  ∀ (s u : State) (d a b : Reg) (off : BitVec 8) (xa xb se : Bool) (g : PReg) (sz : Size) (wz : WSize) (sc : Scope) (op : RedOp) (x : Acc) (dev lpa k : Nat) (r : List Nat),
    (∀ c ∈ s.cmds, c.2.owed = false) → s.src.pred g = true → x.target = .remote dev lpa → s.me.id.uid ≠ 0 → AllSent u s.myCore →
    let n := sz.bytes
    let m := wz.bytes
    let here := fun (f : Flit) (kind : FlitKind) (n : Nat) => f.kind = kind ∧ f.size = n ∧ f.addr.toNat = lpa % 2 ^ 64
    let found := fun (k : AccKind) (n : Nat) (va : Word) => s.mustWalk n va = false ∧ s.access s.whoMe k n va = (u, .ok x)
    let own := fun (n : Nat) => u.remoteStores s.myCore dev lpa n
    let early := x.device = true ∧ u.deviceOpen (some dev) = true
    let load := fun (i : Instr) (n : Nat) (sext : Bool) (acq : Nat) =>
      let va := cmAddress (s.rd a) off n
      s.ready [srcA a xa] [d] true = true → found .load n va →
      (early → exec i s = .next { u with flow := .wait })
      ∧ (¬early →
        (own n = [] → u.windowOpen s.myCore dev = false → exec i s = .next { u with flow := .wait })
        ∧ (own n = [] → u.windowOpen s.myCore dev = true → u.routeTo dev 0 none = some (k, r) →
            ∃ t, exec i s = .next t ∧ RequestSent s u t dev u.nextTag 0 va k r (fun f => here f .load n) ∧ Pends s t d u.nextTag)
        ∧ (own n = [] → u.windowOpen s.myCore dev = true → u.routeTo dev 0 none = none →
            ∃ t, exec i s = .next t ∧ Pends s t d u.nextTag ∧ t.mem = u.mem ∧ t.flow = .seq ∧ (t.core s.myCore).unacked = (u.core s.myCore).unacked
              ∧ t.owed = u.owed ++ [(s.me.id.uid, 1, va)] ∧ { due := u.now + 1, ev := .deliver s.me.id.uid u.nextTag .idle, arg := [] } ∈ t.agenda)
        ∧ (∀ y l, own n = l ++ [y] →
            (¬(y.1 ≤ lpa ∧ lpa + n ≤ y.1 + y.2.length) → exec i s = .next { u with flow := .wait })
            ∧ (y.1 ≤ lpa ∧ lpa + n ≤ y.1 + y.2.length → (acq = 0 ∨ s.plainAt s.myCore) →
                ∃ t, exec i s = .next t ∧ BegunWithin u t d .load (8 + acq) (.val (extended n sext ((y.2.drop (lpa - y.1)).take n))))))
    let atomic := fun (i : Instr) (kind : FlitKind) (rmw : Rmw) (dst : Option Reg) => u.atomicsHeld s.myCore < 32 → (s.rd a).toNat / 2 ^ 32 ≠ 0xffffffff →
      found .rmw m (s.rd a) →
      (u.windowOpen s.myCore dev = false ∨ own m ≠ [] ∨ early → exec i s = .next { u with flow := .wait })
      ∧ (own m = [] → u.windowOpen s.myCore dev = true → ¬early → u.routeTo dev 0 none = some (k, r) →
        ∃ t tag, exec i s = .next t ∧ RequestSent s u t dev tag 2 (s.rd a) k r (fun f => here f kind m ∧ f.rmw = some rmw ∧ f.value = s.rd b ∧ f.scope = sc)
          ∧ match dst with | none => tag = 0 ∧ t.me.regs = s.me.regs ∧ t.me.pend.out = s.me.pend.out | some d => Pends s t d tag)
    let amo := fun (i : Instr) (o : AmoOp) => s.ready [srcA a xa, srcB b xb] [d] true = true → atomic i .atomic (.amo o) (some d)
    load (.ld d a off xa se sz) n se 0 ∧ load (.ldS d a off xa wz sc) m false 0 ∧ load (.ldAcq d a off xa wz sc) m false 16
    ∧ amo (.amoAdd d a b xa xb g wz sc) .add ∧ amo (.amoSwap d a b xa xb g wz sc) .swap ∧ amo (.amoAnd d a b xa xb g wz sc) .and ∧ amo (.amoOr d a b xa xb g wz sc) .or
    ∧ amo (.amoXor d a b xa xb g wz sc) .xor ∧ amo (.amoMin d a b xa xb g wz sc) .min ∧ amo (.amoMax d a b xa xb g wz sc) .max
    ∧ (s.ready [srcA a xa, srcB b xb, srcPlain d] [d] true = true → atomic (.cas d a b xa xb g wz sc) .atomic (.cas (s.rd d)) (some d))
    ∧ (s.ready [srcA a xa, srcB b xb] [] false = true → atomic (.red op a b xa xb g wz sc) .red (.red op) none)

/-- R155, R321, R386, R387, R389: a store of another device's memory becomes a request with its bytes, behind its core's earlier ones; a strong one gets its SEQ and leaves only once its strand's earlier stores are performed (those
to the same device are by SEQ), and one to a page of TYPE 01 once the earlier stores to such pages are. Without a route its failure is owed to the strand. ST.REL waits until the strand's earlier accesses are performed, and for those of
other devices at GROUP and wider. -/
def RemoteStoresAreRequests : Prop :=
  ∀ (s u : State) (d a : Reg) (off : BitVec 8) (xa xd : Bool) (sz : Size) (wz : WSize) (sc : Scope) (x : Acc) (dev lpa k : Nat) (r : List Nat),
    s.plainAt s.myCore → x.target = .remote dev lpa → s.me.id.uid ≠ 0 → AllSent u s.myCore → (x.device = true → u.deviceWaits x = false) →
    let store := fun (i : Instr) (n : Nat) (strong rel : Bool) =>
      let va := cmAddress (s.rd a) off n
      let follows := ∃ y ∈ (u.core s.myCore).unacked, y.flit.kind = .store ∧ y.acked = false ∧ y.uid = s.me.id.uid ∧ y.flit.dst ≠ dev ∧ (strong = true ∨ (x.device = true ∧ y.device = true))
      let is := fun (f : Flit) => f.kind = .store ∧ f.size = n ∧ f.addr.toNat = lpa % 2 ^ 64 ∧ f.data = leBytes n (s.rd d).toNat ∧ f.scope = if strong then sc else .core
      let goes := fun (t : State) => exec i s = .next t ∧ t.flow = .seq ∧ (∀ b, t.mem.read b = s.mem.read b) ∧ (∀ i, i ≠ s.cur → t.slot i = s.slot i)
        ∧ t.me = { s.me with pend := { s.me.pend with seq := s.me.pend.seq + 1, lastStore := s.me.pend.seq } }
      s.ready [srcA a xa, srcD d xd] [] false = true → s.mustWalk n va = false → s.access s.whoMe .store n va = (u, .ok x) →
      ((rel = true ∧ u.allPerformed false sc = false) ∨ 32 ≤ u.storesHeld s.myCore ∨ u.windowOpen s.myCore dev = false → exec i s = .next { u with flow := .wait })
      ∧ ((rel = true → u.allPerformed false sc = true) → u.storesHeld s.myCore < 32 → u.windowOpen s.myCore dev = true →
        (follows → ∃ t y, goes t ∧ Asked u s.myCore s.me.id.uid s.me.id.part dev 0 1 va y ∧ is y.flit ∧ y.out = false ∧ y.strong = strong ∧ y.device = x.device
            ∧ (t.core s.myCore).unacked = (u.core s.myCore).unacked ++ [y] ∧ (t.core s.myCore).seqs = (u.core s.myCore).seqs)
        ∧ (¬follows → u.routeTo dev 2 none = some (k, r) →
            ∃ t, goes t ∧ ∃ y, Asked u s.myCore s.me.id.uid s.me.id.part dev 0 1 va y ∧ is y.flit ∧ Goes u t s.myCore (u.core s.myCore).unacked y k r)
        ∧ (¬follows → u.routeTo dev 2 none = none →
            ∃ t, goes t ∧ (t.core s.myCore).unacked = (u.core s.myCore).unacked ∧ t.owed = u.owed ++ [(s.me.id.uid, 9, va)]))
    store (.st d a xd off xa sz) sz.bytes false false
    ∧ store (.stS d a xd off xa wz sc) wz.bytes true false
    ∧ store (.stRel d a xd off xa wz sc) wz.bytes true true

/-- The device's own group and another device's; the member and the port at which group `g` reaches group `h` (R376, R377). -/
def portTo (g h : Nat) : Nat × Nat := let i := if h < g then h else h - 1; (i / 16, i % 16)

/-- The devices of a way from member `m` of group `g` into group `h`, the last one its end there, all links being up (R381). -/
def way (g m h : Nat) : List Nat :=
  (if (portTo g h).1 = m then [] else [g * 32 + (portTo g h).1]) ++ [h * 32 + (portTo h g).1]

/-- R376, R377, R381, R382, R388: the route of a request. Without a valid entry, or with MODE 3, there is none. Within the own group it is direct, or over the lowest member whose two links are up. To another group it is minimal, or, by MODE 2
or GDOWN, through the candidate whose turn it is; a resend takes another one where there is one. -/
def RoutesFollowTheTable : Prop :=
  ∀ (s : State) (dev k via last : Nat) (vc : BitVec 2),
    let me := s.plat.device
    let g := me / 32
    let m := me % 32
    let h := dev / 32
    let e := s.fab.routes.get 0 h
    let mode := e.toNat / 2 ^ 61 % 4
    let i := s.fab.turns.get 0 h % 4
    let cand := e.toNat / 2 ^ (10 * i) % 1024
    let port := fun (a b : Nat) => if b < a then b else b - 1
    let up := fun (a b : Nat) => (a, port a b) ∉ s.fab.downs ∧ (b, port b a) ∉ s.fab.downs
    let mine := fun (b : Nat) => s.fab.llink.getLsbD (port m b) = false ∧ (b, port b m) ∉ s.fab.downs
    let tail := fun (h g : Nat) => if (portTo h g).1 = dev % 32 then [] else [dev]
    let direct := way g m h ++ tail h g
    let through := way g m via ++ way via (portTo via g).1 h ++ tail h via
    let allUp := s.fab.llink = 0 ∧ s.fab.downs = []
    (e.getLsbD 63 = false ∨ mode = 3 → s.routeTo dev vc none = none ∧ s.routeTo dev vc (some last) = none)
    ∧ (e.getLsbD 63 = true → mode ≠ 3 → h = g → dev ≠ me →
        (mine (dev % 32) → s.routeTo dev vc none = some (0, [dev]))
        ∧ (¬mine (dev % 32) → k < 32 → k ≠ m → k ≠ dev % 32 → mine k → up k (dev % 32) →
            (∀ j, j < k → j ≠ m → j ≠ dev % 32 → ¬(mine j ∧ up j (dev % 32))) → s.routeTo dev vc none = some (1, [g * 32 + k, dev]))
        ∧ (mine (dev % 32) → k < 32 → k ≠ m → k ≠ dev % 32 → mine k → up k (dev % 32) →
            (∀ j, j < k → j ≠ m → j ≠ dev % 32 → ¬(mine j ∧ up j (dev % 32))) → s.routeTo dev vc (some 0) = some (1, [g * 32 + k, dev])))
    ∧ (e.getLsbD 63 = true → h ≠ g → allUp → s.fab.waiting = [] → mode ≤ 1 → e.getLsbD 60 = false → s.routeTo dev vc none = some (0, direct))
    ∧ (e.getLsbD 63 = true → h ≠ g → allUp → mode = 2 ∨ (mode = 1 ∧ e.getLsbD 60 = true) → via = cand → via ≤ 512 → via ≠ g → via ≠ h →
        (s.fab.routes.get 0 via).getLsbD 63 = true → (s.fab.routes.get 0 via).getLsbD 60 = false → s.routeTo dev vc none = some (1 + i, through))

/-- R410, R411, R427: FFENCE to another device sends the flag in SEQ order and waits for nothing; to the own device it stores the flag as ST.REL does and delivers 0. Without FABRIC it traps as an unassigned opcode. -/
def FfencePlacesItsFlag : Prop :=
  ∀ (s u : State) (d a b : Reg) (xa xb : Bool) (g : PReg) (sc : Scope) (x : Acc) (dev lpa k : Nat) (r : List Nat),
    let i := Instr.ffence d a b xa xb g sc
    let key := targetKey s.me.id.part x.target
    (s.me.status.tl < 2 → s.feature 3 = false → ∃ t, exec i s = .next t ∧ Trapped s t 0 0 s.issuedWord)
    ∧ (s.feature 3 = true → s.src.pred g = true → s.ready [srcA a xa, srcB b xb] [d] true = true → s.mustWalk 8 (s.rd a) = false → s.access s.whoMe .store 8 (s.rd a) = (u, .ok x) →
      (x.target = .remote dev lpa → u.windowOpen s.myCore dev = false → exec i s = .next { u with flow := .wait })
      ∧ (x.target = .remote dev lpa → u.windowOpen s.myCore dev = true → u.routeTo dev 2 none = some (k, r) → s.me.id.uid ≠ 0 → AllSent u s.myCore →
        ∃ t, exec i s = .next t ∧ Pends s t d u.nextTag
          ∧ RequestSent s u t dev u.nextTag 3 (s.rd a) k r fun f => f.kind = .ffence ∧ f.size = 8 ∧ f.addr.toNat = lpa % 2 ^ 64 ∧ f.scope = sc ∧ f.value = s.rd b ∧ f.data = leBytes 8 (s.rd b).toNat)
      ∧ (x.target = .hbm lpa → 5 ≤ sc.code → u.remoteOpen s.myCore s.me.id.uid = true → s.melts = [] → exec i s = .next { u with flow := .wait })
      ∧ (x.target = .hbm lpa → s.plainAt s.myCore → Quiet s → 5 ≤ sc.code → s.remoteOpen s.myCore s.me.id.uid = false → s.mem.wf = true →
        ∃ t j, exec i s = .next t ∧ t.bytesAt key 8 = leBytes 8 (s.rd b).toNat ∧ (∀ k, (k < key ∨ key + 8 ≤ k) → t.mem.read k = s.mem.read k)
          ∧ Pends s t d s.nextTag ∧ (∀ i, i ≠ s.cur → t.slot i = s.slot i) ∧ t.flow = .seq ∧ 1 ≤ j ∧ j ≤ 420 ∧ { due := s.now + j, ev := .deliver s.me.id.uid s.nextTag (.val 0), arg := [] } ∈ t.agenda))

/-- R376-R391, R410: the fabric at the source. Choices of the model that it rests on: log 71, log 114, log 134. -/
def Obligations.RemoteRequestsAreSent : Prop := RemoteAccessesAreRequests ∧ RemoteStoresAreRequests ∧ RoutesFollowTheTable ∧ FfencePlacesItsFlag

/-- R212, R385, R386, R388-R390: a device performs the requests of each source core in SEQ order and at most once: a duplicate is answered with the kept response, one of an older epoch or beyond the window of 256 is dropped, one ahead of its
predecessors waits. Loads, fetches, stores, flagged fences and atomics act on the partition's own memory (an atomic below GROUP may read now and store later); what FADMIT or the partition's state forbids is refused. -/
def RequestsArePerformed : Prop :=
  ∀ (s : State) (f g : Flit) (lpa : Nat) (rmw : Rmw),
    let k := sourceKey f
    let old := s.source k
    let x := if f.epoch = old.epoch then old else { FabSource.blank with epoch := f.epoch }
    let dropped := { s with fab := { s.fab with dropped := s.fab.dropped + 1 } }
    let kept := x.kept.find? fun p => p.1 == f.seq
    let answers := fun (t : State) (kind : FlitKind) (what : Flit → Prop) =>
      exec (.fabricRequest f) s = .next t ∧ (t.source k).next = x.next + 1 ∧ (t.source k).epoch = f.epoch
        ∧ ∃ g, (f.seq, g) ∈ (t.source k).kept ∧ g.kind = kind ∧ g.seq = f.seq ∧ g.epoch = f.epoch ∧ g.dst = f.src ∧ g.src = s.plat.device ∧ g.core = f.core ∧ what g
          ∧ (∀ n r, s.routeTo f.src 1 none = some (n, r) → r ≠ [] → Leaves t g)
    s.arg = [] → isRequest f.kind = true →
    (laterEpoch old.epoch f.epoch = true → exec (.fabricRequest f) s = .next dropped)
    ∧ (laterEpoch old.epoch f.epoch = false →
      (f.epoch = old.epoch → kept = some (f.seq, g) → exec (.fabricRequest f) s = .next (s.answerTo g))
      ∧ (f.epoch = old.epoch → kept = none → 256 ≤ (f.seq - x.next).toNat → exec (.fabricRequest f) s = .next dropped)
      ∧ (f.epoch = old.epoch → kept = none → (f.seq - x.next).toNat < 256 → f.seq ≠ x.next → x.held = [] →
          exec (.fabricRequest f) s = .next (s.setSource k { x with held := [f] }))
      ∧ (kept = none → f.seq = x.next → x.held = [] → (∀ e ∈ s.fab.sources, e.2.half = none) →
        (s.admits f.part f.src = false → ∃ t, answers t .refusal (fun g => g.value = 2) ∧ t.mem = s.mem)
        ∧ (s.admits f.part f.src = true →
          (((s.part f.part).state = .free ∨ (s.part f.part).state = .stopped ∨ (s.part f.part).state = .resetting) → ∃ t, answers t .refusal (fun g => g.value = 3) ∧ t.mem = s.mem)
          ∧ ((s.part f.part).state = .running → s.servedTarget f = some (.hbm lpa) → PlainHomes s → s.badBytes = [] → (s.core deviceCore).l1d = [] →
            let key := hbmKey f.part lpa
            let here := fun (t : State) => t.slots = s.slots ∧ ∀ a, (a < key ∨ key + f.size ≤ a) → t.mem.read a = s.mem.read a
            (f.kind = .load ∨ (f.kind = .fetch ∧ f.value.getLsbD 0 = false) → ∃ t, answers t .response (fun g => g.data = s.bytesAt key f.size) ∧ t.mem = s.mem)
            ∧ (f.kind = .fetch → f.value.getLsbD 0 = true → (∀ e ∈ x.snaps, e.1 ≠ f.value.toNat / 2) → ∃ t, answers t .refusal (fun g => g.value = 6) ∧ t.mem = s.mem)
            ∧ ((f.kind = .store ∨ f.kind = .ffence) → f.data.length = f.size → ∃ t, answers t .acknowledge (fun _ => True) ∧ t.bytesAt key f.size = f.data ∧ here t)
            ∧ ((f.kind = .atomic ∨ f.kind = .red) → f.rmw = some rmw → (f.size = 4 ∨ f.size = 8) →
                let was := BitVec.ofNat 64 (leNat (s.bytesAt key f.size))
                (∃ t, answers t .response (fun g => g.value = match rmw with
                      | .amo .min | .amo .max => BitVec.ofInt 64 (BitVec.ofNat (8 * f.size) was.toNat).toInt
                      | _ => was)
                  ∧ here t ∧ match newValue rmw f.core f.size was f.value with
                      | some v => leNat (t.bytesAt key f.size) = v
                      | none => ∀ a, t.mem.read a = s.mem.read a)
                ∨ (f.scope.code ≤ 4 ∧ ∃ t j, exec (.fabricRequest f) s = .next t ∧ t.mem = s.mem ∧ (t.source k).half = some was ∧ (t.source k).held = [f]
                    ∧ 1 ≤ j ∧ j ≤ 4 ∧ { due := s.now + j, ev := .fabricRequest f, arg := [] } ∈ t.agenda))))))

/-- R155, R387-R389: a response ends its request: the destination of a load or an atomic is FULL with what it brought, a refusal is owed to the strand as a trap of class 10 and leaves the destination IDLE; a response that nobody awaits is dropped.
The acknowledgement of a store lets a strong store of its strand leave that has waited for it. -/
def ResponsesEndRequests : Prop :=
  ∀ (s : State) (f : Flit) (u y : Unacked) (i k : Nat) (r : List Nat) (o : Outst),
    s.arg = [] →
    (s.answeredBy f = none → exec (.fabricResponse f) s = .next { s with fab := { s.fab with dropped := s.fab.dropped + 1 } })
    ∧ (s.answeredBy f = some u → u.kind < 8 → u.uid ≠ 0 → s.slotOf u.uid = some i → (s.slot i).pend.out.find? (fun o => o.tag == u.tag) = some o → Resident (s.slot i) o.reg → AllSent s f.core →
      let gives := fun (t : State) (c : RegCell) => exec (.fabricResponse f) s = .next t ∧ u ∉ (t.core f.core).unacked ∧ (t.slot i).regs.get (physAbs o.reg) = c
        ∧ (∀ r : Fin 80, r ≠ physAbs o.reg → (t.slot i).regs.get r = (s.slot i).regs.get r) ∧ t.mem = s.mem
      let full := fun (v : Word) => ({ val := v, mark := .full, poison := false } : RegCell)
      (s.core f.core).unacked.count u = 1 →
      (f.kind = .response → u.flit.kind = .load → u.flit.size ≤ 8 → u.flit.value.getLsbD 1 = false →
        ∃ t, gives t (full (extended u.flit.size (u.flit.value.getLsbD 0) (f.data.take u.flit.size))))
      ∧ (f.kind = .response → (u.flit.kind = .atomic ∨ u.flit.kind = .red) → ∃ t, gives t (full f.value))
      ∧ (f.kind = .acknowledge → u.flit.kind = .ffence → ∃ t, gives t (full 0))
      ∧ (f.kind = .refusal → (u.flit.kind = .load ∨ u.flit.kind = .atomic ∨ u.flit.kind = .ffence) →
          ∃ t, gives t { val := 0, mark := .idle, poison := false } ∧ t.owed = s.owed ++ [(u.uid, u.kind * 8 + f.value.toNat % 8, u.tval)]))
    ∧ ((s.core f.core).unacked = [u, y] → s.answeredBy f = some u → f.kind = .acknowledge → u.flit.kind = .store → u.kind = 1 → u.uid ≠ 0 →
        (s.core f.core).sb = [] → u ≠ y → y.out = false → y.acked = false → y.strong = true → y.flit.kind = .store → s.routeTo y.flit.dst y.flit.vc none = some (k, r) →
        ∃ t, exec (.fabricResponse f) s = .next t ∧ Goes s t f.core [] y k r)

/-- R388, R389, R422: a request that is not answered within 50,000 cycles is sent again with its EPOCH and SEQ, and over another route where there is one; where all links of its routes are down it is tried again, and without an entry of its group in
the route table it ends with reason 1. 10 ms after the first send the pair's requests end UNCERTAIN, or with reason 4 where every route's tag check failed, and the pair starts a new epoch. -/
def LostRequestsEnd : Prop :=
  ∀ (s : State) (core dev k : Nat) (u : Unacked) (r : List Nat),
    (s.core core).unacked = [u] → u.out = true → u.acked = false → u.flit.dst = dev →
    let entry := s.fab.routes.get 0 (dev / 32)
    let unrouted := entry.getLsbD 63 = false ∨ entry.toNat / 2 ^ 61 % 4 = 3
    let again := fun (t : State) (v : Nat) => exec (.fabricResend core dev u.flit.seq) s = .next t ∧ (t.core core).unacked = [{ u with sent := s.now, via := v }]
      ∧ { due := s.now + 50000, ev := .fabricResend core dev u.flit.seq, arg := [] } ∈ t.agenda ∧ t.slots = s.slots ∧ t.mem = s.mem
    (s.now < u.sent + 50000 → exec (.fabricResend core dev u.flit.seq) s = .next s)
    ∧ (u.sent + 50000 ≤ s.now → s.routeTo dev u.flit.vc (some u.via) = some (k, r) → r ≠ [] → ∃ t, again t k ∧ Leaves t u.flit)
    ∧ (u.sent + 50000 ≤ s.now → s.routeTo dev u.flit.vc (some u.via) = none → ¬unrouted → ∃ t, again t u.via)
    ∧ (s.arg = [u.flit.seq.toNat, u.flit.epoch.toNat] → s.now < u.first + 10000000 → exec (.uncertain core dev) s = .next s)
    ∧ (u.uid ≠ 0 → (u.flit.kind = .load ∨ u.flit.kind = .store ∨ u.flit.kind = .atomic) → u.kind < 8 →
        let ends := fun (i : Instr) (reason : Nat) => ∃ t, exec i s = .next t ∧ (t.core core).unacked = [] ∧ t.owed = s.owed ++ [(u.uid, u.kind * 8 + reason, u.tval)]
        (u.sent + 50000 ≤ s.now → s.routeTo dev u.flit.vc (some u.via) = none → unrouted → ends (.fabricResend core dev u.flit.seq) 1)
        ∧ (u.first + 10000000 ≤ s.now → s.arg = [u.flit.seq.toNat, u.flit.epoch.toNat] → ends (.uncertain core dev) 0)
        ∧ (s.arg = [u.flit.seq.toNat, u.flit.epoch.toNat, 1] → ends (.uncertain core dev) 4)
        ∧ (u.first + 10000000 ≤ s.now → s.arg = [u.flit.seq.toNat, u.flit.epoch.toNat] → ∃ t, exec (.uncertain core dev) s = .next t
            ∧ (t.core core).epochs.get 0 dev = (s.core core).epochs.get 0 dev + 1 ∧ (t.core core).seqs.get 0 dev = 0))

/-- R380-R384, R431: a flit whose tag fails is counted and dropped; the entries of one that has left its buffer go back to the sender in a credit flit. A flit at the end of its route is served, one on its way goes to the next device of the
route, one class higher, over another member where the link to it is down and the route's seven hops allow it, and a route ends at class 6. Credits that return free entries of their channel and class, and waiting flits go on: the one entry of each
kind that a channel and class keeps of the far end serves its flit whatever the others hold; a link that is down, or degraded with its escape channel's entry in use, keeps it waiting. -/
def FlitsMove : Prop :=
  ∀ (s : State) (f : Flit) (hop : Nat) (rest : List Nat) (link vc cls n m k : Nat) (o : OutFlit),
    let dropped := { s with fab := { s.fab with dropped := s.fab.dropped + 1 } }
    let me := memberOf s.plat.device
    let left := let u := s.usedOf link vc cls; { s with fab := { s.fab with used := s.fab.used.set (pairKey link vc cls) (u.1 - n, u.2 - m) } }
    let own := left.usedOf link o.flit.vc.toNat o.flit.hop.toNat
    let bad := { s with
      plat := { s.plat with linkev := BitVec.ofNat 64 (s.plat.linkev.toNat / 2 ^ 32 * 2 ^ 32 + min (s.plat.linkev.toNat / 65536 % 65536 + 1) 65535 * 65536 + s.plat.linkev.toNat % 65536) }
      fab := { s.fab with dropped := s.fab.dropped + 1 } }
    let put := fun (f : Flit) (link : Nat) (rest : List Nat) => ∃ t x, exec (.flitForward f (hop :: rest)) s = .next t ∧ x ∈ t.fab.waiting ++ t.fab.sent ∧ x.flit = { f with hop := f.hop + 1 }
      ∧ x.route = rest ∧ x.link = link ∧ t = { s with fab := t.fab }
    (s.arg = [1] → ∀ i ∈ [Instr.flitForward f rest, .fabricRequest f, .fabricResponse f], exec i s = .next bad)
    ∧ (s.arg = [0, link + 1] → f.dst = s.plat.device → isRequest f.kind = true → f.kind ≠ .collective → ∃ t o, exec (.flitForward f []) s = .next t ∧ t.fab.sent = s.fab.sent ++ [o]
        ∧ o.link = link ∧ o.flit.kind = .credit ∧ o.flit.dst = s.peerOf link ∧ o.flit.vc = f.vc ∧ o.flit.hop = f.hop ∧ o.flit.value = BitVec.ofNat 64 (flitData f * 65536 + 1)
        ∧ t.agenda = s.agenda ++ [{ due := s.now, ev := .fabricRequest f, arg := [] }] ∧ t = { s with fab := { s.fab with sent := t.fab.sent }, agenda := t.agenda })
    ∧ (s.arg = [0, link + 1] → f.dst = s.plat.device → f.kind = .credit → exec (.flitForward f []) s = .next { s with
          agenda := s.agenda ++ [{ due := s.now, ev := .credit link f.vc.toNat (f.value.toNat % 65536) (f.value.toNat / 65536 % 65536), arg := [f.hop.toNat] }] })
    ∧ (s.arg = [] → (f.dst = s.plat.device → (f.kind = .response ∨ f.kind = .acknowledge ∨ f.kind = .refusal) → exec (.flitForward f []) s = .next (s.after 0 (.fabricResponse f)))
      ∧ (f.dst = s.plat.device → isRequest f.kind = true → f.kind ≠ .collective → exec (.flitForward f []) s = .next (s.after 0 (.fabricRequest f)))
      ∧ (f.dst = s.plat.device → f.kind = .linkState →
          exec (.flitForward f []) s = .next (s.after 0 (.linkState (groupOf f.src) (memberOf f.src) (f.value.getLsbD 8) (f.value.toNat % 256))))
      ∧ (f.dst ≠ s.plat.device → exec (.flitForward f []) s = .next dropped)
      ∧ (f.hop = 6 → exec (.flitForward f (hop :: rest)) s = .next dropped)
      ∧ (f.hop.toNat < 6 → groupOf hop ≠ groupOf s.plat.device ∨ s.linkLost (s.firstLink hop) = false ∨ 5 < f.hop.toNat + 1 + rest.length ∨ s.detour (memberOf hop) = none →
          put f (s.firstLink hop) rest)
      ∧ (f.hop.toNat < 6 → groupOf hop = groupOf s.plat.device → s.linkLost (s.firstLink hop) = true → f.hop.toNat + 1 + rest.length ≤ 5 → s.detour (memberOf hop) = some k →
          ∃ t x, exec (.flitForward f (hop :: rest)) s = .next t ∧ x ∈ t.fab.waiting ++ t.fab.sent ∧ x.flit = { f with hop := f.hop + 1 } ∧ x.route = hop :: rest
            ∧ x.link = (if k < me then k else k - 1) ∧ t = { s with fab := t.fab }))
    ∧ (s.arg = [cls] → vc < 4 → cls < 8 →
      (s.fab.waiting = [] → exec (.credit link vc n m) s = .next left)
      ∧ (s.fab.waiting = [o] → o.link = link → s.linkLost link = false → s.degraded link = false → own = (0, 0) → flitData o.flit ≤ 1 →
          ∃ t, exec (.credit link vc n m) s = .next t ∧ t.fab.waiting = [] ∧ t.fab.sent = s.fab.sent ++ [o] ∧ t.usedOf link o.flit.vc.toNat o.flit.hop.toNat = (1, flitData o.flit)
            ∧ t = { s with fab := t.fab })
      ∧ (s.fab.waiting = [o] → o.link = link → (s.linkLost link = true ∨ (s.degraded link = true ∧ own ≠ (0, 0))) → exec (.credit link vc n m) s = .next left))

/-- R378, R383, R384: a link goes on without the lanes that it has lost, until it has none; then it is down, and every member of the group that is reached hears of it. What another member has lost is noted. With fewer than 28 receive entries a link
is degraded, with fewer than 14 it is down. -/
def LinksFail : Prop :=
  ∀ (s : State) (glob : Bool) (group member port lane n m k : Nat),
    let link := linkOf glob port
    let lost := s.fab.lanes.get 0 link ||| BitVec.ofNat 8 (2 ^ (lane % 8))
    let g := groupOf s.plat.device
    let flag := if glob then 1 else 0
    let down := fun (t : State) => t.linkLost link = true ∧ t = { s with fab := t.fab }
    (group ≠ g → exec (.linkState group member glob port) s = .next s)
    ∧ (group = g → glob = true → ∃ t, exec (.linkState group member glob port) s = .next t ∧ (t.fab.routes.get 0 (reachedGroup g member port)).getLsbD 60 = true
        ∧ (∀ h, h ≠ reachedGroup g member port → t.fab.routes.get 0 h = s.fab.routes.get 0 h) ∧ t = { s with fab := { s.fab with routes := t.fab.routes } })
    ∧ (group = g → glob = false → ∃ t, exec (.linkState group member glob port) s = .next t ∧ (member, port) ∈ t.fab.downs ∧ t = { s with fab := { s.fab with downs := t.fab.downs } })
    ∧ (s.arg = [flag, port] → ∃ t, exec .linkDown s = .next t ∧ down t
        ∧ (s.linkLost link = false → k < 32 → k ≠ memberOf s.plat.device → t.localHops k ≠ none →
            ∃ o ∈ t.fab.waiting ++ t.fab.sent, o.flit.kind = .linkState ∧ o.flit.dst = g * 32 + k ∧ o.flit.value = BitVec.ofNat 64 (flag * 256 + port)))
    ∧ (s.arg = [flag, port, lane] →
        (lost ≠ 255 → exec .fabricLaneLoss s = .next { s with fab := { s.fab with lanes := s.fab.lanes.set link lost } })
        ∧ (lost = 255 → ∃ t, exec .fabricLaneLoss s = .next t ∧ down t))
    ∧ (s.arg = [flag, port, n, m] →
        (n < 14 ∨ m < 14 → ∃ t, exec .linkDegraded s = .next t ∧ down t)
        ∧ (14 ≤ n → 14 ≤ m → ∃ t, exec .linkDegraded s = .next t ∧ t.entriesOf link = (min n (s.entriesOf link).1, min m (s.entriesOf link).2)
            ∧ (n < 28 ∨ m < 28 → t.degraded link = true) ∧ t = { s with fab := t.fab }))

/-- R378-R391: the fabric at the target, on its links, and at the end of a request. Choices of the model that it rests on: log 71, log 72, log 73, log 130, log 134, log 152. -/
def Obligations.FabricServesAndFails : Prop := RequestsArePerformed ∧ ResponsesEndRequests ∧ LostRequestsEnd ∧ FlitsMove ∧ LinksFail
-- ==== drift transport (R393-R397, R412-R414, R336) ====

/-- A queue has gone into ERROR (R412-R414): its bit is set, and every result that waited at it is QERROR, with the count of its instruction. -/
def QueueFails (s t : State) (part n : Nat) : Prop :=
  t.queueFailed part n = true ∧ (t.dqueue part n).error = true ∧ (t.dqueue part n).flushes = [] ∧ (t.dqueue part n).waits = []
    ∧ (∀ f ∈ (s.dqueue part n).flushes, { due := s.now + 1, ev := .deliver f.1 f.2.1 (.val (BitVec.ofNat 64 (f.2.2.2 % 2 ^ 32 * 2 ^ 32 + 3))), arg := [] } ∈ t.agenda)
    ∧ (∀ f ∈ (s.dqueue part n).waits, { due := s.now + 1, ev := .deliver f.1 f.2.1 (.val (BitVec.ofNat 64 ((s.descWord part n 56).toNat % 2 ^ 32 * 2 ^ 32 + 3))), arg := [] } ∈ t.agenda)
    ∧ t.slots = s.slots

/-- A queue whose descriptor nobody rewrites and whose ERROR, if it has one, the supervisor has not cleared. -/
def Steady (s : State) (part n : Nat) : Prop := (s.dqueue part n).old = none ∧ ((s.dqueue part n).error = true → s.queueFailed part n = true)

/-- A queue is usable as it stands: no ERROR, and none that the supervisor has just cleared. -/
def Usable (s : State) (part n : Nat) : Prop := (s.dqueue part n).old = none ∧ s.queueFailed part n = false ∧ (s.dqueue part n).error = false

/-- A packet has left the port of a queue (R393). -/
def Sends (s t : State) (part n : Nat) (what : DriftPacket → Prop) : Prop :=
  ∃ x, t.drift.sent = s.drift.sent ++ [x] ∧ x.peal = none ∧ x.port = s.portOf part n ∧ what x.pkt

/-- R394-R396, R409, R413, R414, R427: XPOST, XFLUSH and XWAIT. A queue that may not be used, a malformed request, a queue in ERROR and a full one give their status, with the count of R413, within 200 cycles and change nothing else; XPOST appends its request, XFLUSH waits for the packets
whose sending had begun, XWAIT for the arrivals. -/
def QueueInstructions : Prop :=
  ∀ (s u : State) (d a b : Reg) (xa xb : Bool) (g : PReg) (l : List Byte),
    let part := s.me.id.part
    let n := (s.rd a).toNat
    let q := s.dqueue part n
    let post := Instr.xpost d a b xa xb g
    let flush := Instr.xflush d a xa g
    let wait := Instr.xwait d a b xa xb g
    let usable := n < 4096 ∧ s.queueOk part n s.me.id.asid = true
    let gives := fun (i : Instr) (v : Word) => ∃ t, exec i s = .next t ∧ BegunWithin s t d .other 200 (.val v)
    let formed := structNat l 0 1 ≠ 0 ∧ structNat l 0 1 ≤ 3 ∧ structNat l 1 1 ≤ 2 ∧ structNat l 2 2 = 0 ∧ (structNat l 1 1 ≠ 0 → structNat l 4 4 < 4096) ∧ structNat l 4 4 < 2 ^ 24
      ∧ structNat l 8 8 < 2 ^ 32 ∧ structNat l 24 8 ≤ 2 ^ 32 ∧ (structNat l 0 1 = 3 → structNat l 24 8 = 0) ∧ structNat l 56 8 = 0
    let arrived := (s.descWord part n 56).toNat % 2 ^ 32
    let goal := (s.rd b).toNat
    let word := fun (count status : Nat) => BitVec.ofNat 64 (count % 2 ^ 32 * 2 ^ 32 + status)
    let failed := q.old = none ∧ s.queueFailed part n = true
    (s.me.status.tl < 2 → s.feature 4 = false → ∀ i ∈ [post, flush, wait], ∃ t, exec i s = .next t ∧ Trapped s t 0 0 s.issuedWord)
    ∧ (s.feature 4 = true → s.src.pred g = true →
      (s.ready [srcA a xa, srcB b xb] [d] true = true → s.plainAt s.myCore → goal % 64 = 0 → goal < 2 ^ 63 → StructAt s u (s.rd b) 64 l →
        (¬usable → gives post 1) ∧ (usable → failed → gives post (word q.held.length 3)) ∧ (usable → Usable s part n → ¬formed → gives post (word q.held.length 2))
        ∧ (usable → Usable s part n → formed → 256 ≤ q.held.length → gives post (word q.held.length 4))
        ∧ (usable → Usable s part n → formed → q.held.length < 256 → Quiet s →
            ∃ t tag w j, exec post s = .next t ∧ Pends s t d tag ∧ 1 ≤ j ∧ j ≤ 200
              ∧ { due := s.now + j, ev := .deliver s.me.id.uid tag (.val (BitVec.ofNat 64 ((q.held.length + 1) * 2 ^ 32))), arg := [] } ∈ t.agenda
              ∧ (∀ i, i ≠ s.cur → t.slot i = s.slot i) ∧ (∀ k, t.mem.read k = s.mem.read k) ∧ t.flow = .seq
              ∧ (t.dqueue part n).held = q.held ++ [w] ∧ { due := s.now, ev := .driftTrigger part n, arg := [] } ∈ t.agenda
              ∧ w.op = structNat l 0 1 ∧ w.trig = structNat l 1 1 ∧ w.trigq = structNat l 4 4 ∧ w.trigcnt = structNat l 8 8 ∧ w.va.toNat = structNat l 16 8 ∧ w.len = structNat l 24 8
              ∧ w.roff.toNat = structNat l 32 8 ∧ w.imm.toNat = structNat l 40 8 ∧ w.seq = structNat l 48 8 % 2 ^ 48 ∧ w.uid = s.me.id.uid ∧ w.fired = false ∧ w.off = 0))
      ∧ (s.ready [srcA a xa] [d] true = true →
        (¬usable → gives flush 1) ∧ (usable → failed → gives flush (word q.marks.length 3)) ∧ (usable → Usable s part n → q.begun ≤ q.acked → gives flush 0)
        ∧ (usable → Usable s part n → q.acked < q.begun → ∃ t, exec flush s = .next t ∧ Pends s t d s.nextTag
            ∧ (t.dqueue part n).flushes = q.flushes ++ [(s.me.id.uid, s.nextTag, q.begun, q.marks.length)] ∧ t.mem = s.mem ∧ t.agenda = s.agenda))
      ∧ (s.ready [srcA a xa, srcB b xb] [d] true = true →
        (2 ^ 32 ≤ goal ∨ ¬usable → gives wait 1) ∧ (goal < 2 ^ 32 → usable → failed → gives wait (word arrived 3))
        ∧ (goal < 2 ^ 32 → usable → Usable s part n → ∃ t, exec wait s = .next t ∧ Pends s t d s.nextTag ∧ t.mem = s.mem
            ∧ if (arrived + 2 ^ 32 - goal) % 2 ^ 32 < 2 ^ 31
              then { due := s.now + 1, ev := .deliver s.me.id.uid s.nextTag (.acq (BitVec.ofNat 64 (arrived * 2 ^ 32)) .device), arg := [] } ∈ t.agenda
              else (s.me.id.uid, s.nextTag, goal) ∈ (t.dqueue part n).waits)))

/-- R393, R395, R397, R412, R414, R336: a request whose trigger holds becomes sendable, or its firing stands in the pending list of a context that is away; packets leave in order within the window, are kept, and are sent again after 100 us; the last one counts
a DONE and completes the queue. -/
def QueuesSend : Prop :=
  ∀ (s : State) (part n e i : Nat) (w : WorkReq) (r : List WorkReq) (l : List Byte),
    let q := s.dqueue part n
    let desc := s.descWord part n
    let trigger := Instr.driftTrigger part n
    let send := Instr.driftSend part n
    let due := fun (t : State) (k : Nat) (ev : Instr) => { due := s.now + k, ev := ev, arg := [] } ∈ t.agenda
    let holds := w.trig = 0 ∨ (∃ off : Nat, (w.trig = 1 ∧ off = 0 ∨ w.trig = 2 ∧ off = 32)
      ∧ ((s.descWord part w.trigq 56).toNat / 2 ^ off % 2 ^ 32 + 2 ^ 32 - w.trigcnt % 2 ^ 32) % 2 ^ 32 < 2 ^ 31)
    Usable s part n → PlainHomes s →
    (q.held = [w] → w.fired = false → (w.trig = 1 ∨ w.trig = 2 → Steady s part w.trigq) →
      (¬holds → exec trigger s = .next s)
      ∧ (holds → s.awayEntry w.cluster (w.uid / 2 ^ 32) = none →
          ∃ t, exec trigger s = .next t ∧ (t.dqueue part n).held = [{ w with fired := true }] ∧ due t 0 send ∧ due t 0 trigger ∧ t.mem = s.mem ∧ t.slots = s.slots)
      ∧ (holds → s.awayEntry w.cluster (w.uid / 2 ^ 32) = some e → i = leNat (s.bytesAt (s.imageOf w.cluster e + 0x18) 8) →
          let list := s.imageOf w.cluster e + 0x400 + 32 * i
          (32 ≤ i → exec trigger s = .next (s.after 64 trigger))
          ∧ (i < 32 → ∃ t, exec trigger s = .next t ∧ (t.dqueue part n).held = [{ w with trig := 3, fired := false }] ∧ due t 0 trigger ∧ t.slots = s.slots
              ∧ (∀ b, (b < list ∨ list + 32 ≤ b) → (b < s.imageOf w.cluster e + 0x18 ∨ s.imageOf w.cluster e + 0x20 ≤ b) → t.mem.read b = s.mem.read b) ∧ leNat (t.bytesAt (s.imageOf w.cluster e + 0x18) 8) = i + 1
              ∧ t.bytesAt list 32 = leBytes 2 1 ++ leBytes 2 (s.portOf part n) ++ leBytes 4 n ++ leBytes 8 w.trigcnt ++ leBytes 8 (s.now - s.plat.bootTime) ++ leBytes 8 0)))
    ∧ (q.held = w :: r → w.fired = true → q.next - q.acked < s.windowOf q →
      let m := min 8192 (w.len - w.off)
      let pieces := piecesOf (w.va.toNat + w.off) m
      let asid := (desc 16).toNat / 2 ^ 32 % 2 ^ 12
      let last := w.len ≤ w.off + l.length
      (s.readAs part asid w.priv pieces = some l →
        let what := fun (p : DriftPacket) => p.kind = (if last ∧ w.op ≠ 1 then 4 else 1) ∧ p.last = decide last ∧ p.psn = BitVec.ofNat 32 q.next ∧ p.sq = n ∧ p.dq = (desc 16).toNat % 2 ^ 24
          ∧ p.roff = w.roff + BitVec.ofNat 64 w.off ∧ p.imm = w.imm ∧ p.data = l ∧ p.op = w.op
        ∃ t, exec send s = .next t ∧ Sends s t part n what ∧ (t.dqueue part n).next = q.next + 1 ∧ (∃ k ∈ (t.dqueue part n).store, k.num = q.next ∧ k.first = s.now ∧ what k.pkt)
          ∧ due t 100000 (.driftRetransmit part n (BitVec.ofNat 32 q.next)) ∧ due t 1 send
          ∧ (¬last → (t.dqueue part n).held = { w with off := w.off + l.length } :: r ∧ t.mem = s.mem)
          ∧ (last → (t.dqueue part n).held = r)
          ∧ (last → desc 40 = 0 → t.dones part n = (s.dones part n + 1) % 2 ^ 32)
          ∧ (last → desc 40 ≠ 0 → (desc 48).getLsbD 3 = true →
              due t 1 (.landingArrival { name := desc 40, value := BitVec.ofNat 64 (w.seq % 2 ^ 48 * 65536), scope := .device, part := part, src := .ccb, rel := none })))
      ∧ (s.readAs part asid w.priv pieces = none → s.awayEntry w.cluster (w.uid / 2 ^ 32) = none → ∃ t, exec send s = .next t ∧ QueueFails s t part n))
    ∧ (q.held = [] → exec send s = .next s)
    ∧ (∀ k, q.store.find? (fun x => x.pkt.psn == k.pkt.psn) = some k →
        (s.now < k.first + 1000000000 → ∃ t, exec (.driftRetransmit part n k.pkt.psn) s = .next t ∧ Sends s t part n (fun p => p = k.pkt) ∧ due t 100000 (.driftRetransmit part n k.pkt.psn))
        ∧ (k.first + 1000000000 ≤ s.now → exec (.driftRetransmit part n k.pkt.psn) s = .next (s.after 0 (.driftQueueError part n))))
    ∧ (if ∃ k ∈ q.store, k.first + 1000000000 ≤ s.now then ∃ t, exec (.driftQueueError part n) s = .next t ∧ QueueFails s t part n
        else exec (.driftQueueError part n) s = .next s)

/-- R393, R396, R412: packets are placed in PSN order and acknowledged; one beyond the buffer or for a queue that may not be used is answered negatively; the last of a message counts an arrival. A buffer that faults puts the queue in ERROR, once a
context of its address space holds a cluster. -/
def QueuesReceive : Prop :=
  ∀ (s : State) (part lpa : Nat) (p : DriftPacket),
    s.arg = [] →
    let n := p.dq
    let q := s.dqueue part n
    let asid := (s.descWord part n 16).toNat / 2 ^ 32 % 2 ^ 12
    let va := (s.descWord part n 24).toNat + p.roff.toNat
    let data := p.kind = 1 ∨ p.kind = 4
    let i := Instr.driftData part p
    let answers := fun (t : State) (kind : Nat) => Sends s t part n fun x => x.kind = kind ∧ x.psn = p.psn ∧ x.dq = p.sq ∧ x.sq = p.dq
    (p.kind = 2 → exec i s = .next (s.after 0 (.driftAck part n p.psn))) ∧ (p.kind = 3 → exec i s = .next (s.after 0 (.driftNack part n p.psn)))
    ∧ ((data ∧ 4096 ≤ n ∨ p.kind = 0 ∨ 5 ≤ p.kind) → exec i s = .next { s with drift := { s.drift with dropped := s.drift.dropped + 1 } })
    ∧ (data → n < 4096 → Usable s part n →
      (s.queueOk part n asid = false ∨ s.asidBound part asid = false → ∃ t, exec i s = .next t ∧ answers t 3 ∧ t.mem = s.mem)
      ∧ (s.queueOk part n asid = true → s.asidBound part asid = true →
        (p.psn ≠ q.expect → (q.expect - p.psn).toNat < 2 ^ 31 → ∃ t, exec i s = .next t ∧ answers t 2 ∧ t.mem = s.mem)
        ∧ (p.psn ≠ q.expect → 2 ^ 31 ≤ (q.expect - p.psn).toNat → exec i s = .next s)
        ∧ (p.psn = q.expect → (s.descWord part n 32).toNat < p.roff.toNat + p.data.length → ∃ t, exec i s = .next t ∧ answers t 3 ∧ t.mem = s.mem)
        ∧ (p.psn = q.expect → p.roff.toNat + p.data.length ≤ (s.descWord part n 32).toNat → PlainHomes s →
          (s.writeAs part asid .s (piecesOf va p.data.length) p.data = none →
            (s.asidHeld part asid = true → ∃ t, exec i s = .next t ∧ QueueFails s t part n) ∧ (s.asidHeld part asid = false → exec i s = .next s))
          ∧ (piecesOf va p.data.length = [(va, p.data.length)] → s.reachAs part asid .s .store (BitVec.ofNat 64 va) p.data.length = some (.hbm lpa) →
              let key := hbmKey part lpa
              let desc := hbmKey part (s.descAt part n)
              (key + p.data.length ≤ desc ∨ desc + 64 ≤ key) →
              ∃ t, exec i s = .next t ∧ answers t 2 ∧ (t.dqueue part n).expect = q.expect + 1
                ∧ (p.kind = 1 → t.bytesAt key p.data.length = p.data ∧ ∀ k, (k < key ∨ key + p.data.length ≤ k) → t.mem.read k = s.mem.read k)
                ∧ (p.kind = 4 → p.last = true → s.descWord part n 40 = 0 → t.arrivals part n = (s.arrivals part n + 1) % 2 ^ 32)))))

/-- R393, R395, R396, R412: an acknowledgement places every packet up to its number and serves the XFLUSHes that it covers; a negative one puts the queue in ERROR. A mark of congestion halves the send window for 100 us. -/
def QueuesAreAnswered : Prop :=
  ∀ (s : State) (part n : Nat) (psn : BitVec 32),
    let q := s.dqueue part n
    let up := q.acked + (psn - BitVec.ofNat 32 q.acked).toNat + 1
    let send := { due := s.now, ev := Instr.driftSend part n, arg := [] }
    Steady s part n →
    (q.next < up → exec (.driftAck part n psn) s = .next s)
    ∧ (up ≤ q.next → ∃ t, exec (.driftAck part n psn) s = .next t ∧ (t.dqueue part n).acked = up ∧ (∀ k, k ∈ (t.dqueue part n).store ↔ k ∈ q.store ∧ up ≤ k.num)
        ∧ (∀ f ∈ q.flushes, f.2.2.1 ≤ up → { due := s.now + 1, ev := .deliver f.1 f.2.1 (.val (BitVec.ofNat 64 (f.2.2.2 % 2 ^ 32 * 2 ^ 32))), arg := [] } ∈ t.agenda ∧ f ∉ (t.dqueue part n).flushes)
        ∧ send ∈ t.agenda ∧ t.mem = s.mem ∧ t.slots = s.slots)
    ∧ ((∃ k ∈ q.store, k.pkt.psn = psn) → PlainHomes s → ∃ t, exec (.driftNack part n psn) s = .next t ∧ QueueFails s t part n)
    ∧ ((∀ k ∈ q.store, k.pkt.psn ≠ psn) → exec (.driftNack part n psn) s = .next s)
    ∧ (∃ t, exec (.ecnMark part n) s = .next t ∧ (t.dqueue part n).half = s.now + 100000 ∧ { due := s.now + 100000, ev := .ecnWindowRestore part n, arg := [] } ∈ t.agenda)
    ∧ (q.half ≤ s.now → ∃ t, exec (.ecnWindowRestore part n) s = .next t ∧ (t.dqueue part n).half = 0 ∧ send ∈ t.agenda)
    ∧ (s.now < q.half → exec (.ecnWindowRestore part n) s = .next s)

/-- R412: a queue whose ERROR bit the supervisor has cleared starts again with the next of its steps: what it held is discarded, its PSNs start at 0, and ARRIVALS and DONES are 0. -/
def ClearedQueuesStartAgain : Prop :=
  ∀ (s : State) (part n : Nat) (psn : BitVec 32),
    let desc := hbmKey part (s.descAt part n)
    (s.dqueue part n).error = true → (s.dqueue part n).old = none → s.queueFailed part n = false → PlainHomes s →
    ∀ i ∈ [Instr.driftTrigger part n, .driftSend part n, .driftAck part n psn, .driftNack part n psn, .driftRetransmit part n psn, .driftQueueError part n],
      ∃ t, exec i s = .next t ∧ t.dqueue part n = DriftQueue.empty ∧ t.bytesAt (desc + 56) 8 = leBytes 8 0 ∧ t.slots = s.slots
        ∧ ∀ k, (k < desc + 56 ∨ desc + 64 ≤ k) → t.mem.read k = s.mem.read k

/-- R336, R393-R397, R409, R412-R414: drift transport. Choices of the model that it rests on: log 24, log 25, log 76, log 78, log 79, log 135, log 153, log 154, log 155. -/
def Obligations.DriftQueuesMoveData : Prop := QueueInstructions ∧ QueuesSend ∧ QueuesReceive ∧ QueuesAreAnswered ∧ ClearedQueuesStartAgain

-- ==== peals and calving (R392, R398-R409, R415-R419) ====

/-- The loaded peal that an id operand names for the issuing context (R416, R419). -/
def NamesPeal (s : State) (v : Word) (p : Peal) : Prop :=
  1 ≤ v.toNat ∧ v.toNat < 128 ∧ s.engine.peals.get? (s.me.id.part * 128 + v.toNat) = some p ∧ p.ctx = myContext s ∧ p.readyAt ≤ s.now

/-- R398-R400, R409, R415, R416, R419, R427: PEAL.LOAD, PEAL.RUN and PEAL.WAIT. A graph that is refused gives the first node and reason; one that is loaded takes the lowest free id, and may be run once its result is delivered. A run takes the group's next SEQ; nodes without open dependencies
are to act, in any order; a wait gives the status of the oldest run once that has ended, an acquire for DONE. -/
def PealInstructions : Prop :=
  ∀ (s u : State) (d a b : Reg) (xa xb : Bool) (g : PReg) (p : Peal) (l h : List Byte) (id i st : Nat) (r : PealRun) (more : List (Nat × PealRun)),
    let t0 := s.me
    let part := t0.id.part
    let load := Instr.pealLoad d a xa g
    let run := Instr.pealRun d a b xa xb g
    let wait := Instr.pealWait d a xa g
    let gives := fun (i : Instr) (n : Nat) (v : Word) => ∃ t, exec i s = .next t ∧ BegunWithin s t d .other n (.val v)
    let va := (s.rd a).toNat
    let key := part * 128 + va
    let acts := fun (t : State) (part k j : Nat) => ∃ n, n ≤ 63 ∧ (∀ x, p.nodes[j]? = some x → x.acts p.nrank p.rank = true → 1 ≤ n)
      ∧ { due := s.now + n, ev := .pealNode part k j, arg := [] } ∈ t.agenda
    let whole := if (List.range 64).all (fun k => (s.engine.peals.get? (part * 128 + (k + 1))).isSome) then 11 else if 65536 < s.loadedNodes + 1 then 12 else 13
    let begins := fun (t : State) (bound : Nat) (v : Word) => ∃ tag j, Pends s t d tag ∧ 1 ≤ j ∧ j ≤ bound ∧ { due := s.now + j, ev := .deliver t0.id.uid tag (.val v), arg := [] } ∈ t.agenda
    (s.me.status.tl < 2 → s.feature 5 = false → ∀ i ∈ [load, run, wait], ∃ t, exec i s = .next t ∧ Trapped s t 0 0 s.issuedWord)
    ∧ (s.feature 5 = true → s.src.pred g = true →
      (s.ready [srcA a xa] [d] true = true →
        (t0.status.tl < 2 → 2 ^ 63 ≤ va → TrapsAs load s s 3 1 (s.rd a)) ∧ (t0.status.tl < 2 → va < 2 ^ 63 → va % 64 ≠ 0 → TrapsAs load s s 3 0 (s.rd a))
        ∧ (va < 2 ^ 63 → va % 64 = 0 → PlainHomes s → t0.front.got = [] → s.pealMissing va = none →
          (s.readAs part t0.id.asid t0.status.priv (piecesOf va 64) = none → gives load 4000 (BitVec.ofNat 64 (0xffff * 65536 + whole * 256)))
          ∧ (s.readAs part t0.id.asid t0.status.priv (piecesOf va 64) = some h → headerOk h = false → gives load 4000 (BitVec.ofNat 64 (0xffff * 65536 + 256)))
          ∧ (∀ e, (s.readPeal va).2 = .error e → gives load 4000 (BitVec.ofNat 64 (e.1 * 65536 + e.2 * 256)))
          ∧ ((s.readPeal va).2 = .ok (id, p) → 1 ≤ id ∧ id ≤ 64 ∧ s.engine.peals.get? (part * 128 + id) = none ∧ (∀ k, 1 ≤ k → k < id → s.engine.peals.get? (part * 128 + k) ≠ none)
              ∧ p.ctx = myContext s ∧ p.nodes.length + s.loadedNodes ≤ 65536
              ∧ ∃ t, exec load s = .next t ∧ begins t (4000 + 2 * ((64 + 32 * p.nodes.length + 8 * p.nrank) / 64)) (BitVec.ofNat 64 (0xffff * 65536 + id))
                  ∧ (∃ n, t.engine.peals.get? (part * 128 + id) = some { p with readyAt := n } ∧ s.now < n) ∧ t.mem = s.mem)))
      ∧ (s.ready [srcA a xa, srcB b xb] [d] true = true →
        ((¬∃ p, NamesPeal s (s.rd a) p) → gives run 100 1)
        ∧ (NamesPeal s (s.rd a) p → s.plainAt s.myCore → (s.rd b).toNat < 2 ^ 63 → (s.rd b).toNat % 8 = 0 → StructAt s u (s.rd b) (8 * p.nbase) l →
          (4 ≤ (s.runsOf key).length ∨ s.remoteOpen s.myCore t0.id.uid = true → ∃ t, exec run s = .next t ∧ t.flow = .wait ∧ t.me = s.me ∧ SameElsewhere s t)
          ∧ (s.runsOf key = [] → s.engine.held = [] → s.engine.waits = [] → s.remoteOpen s.myCore t0.id.uid = false → Quiet s →
              let seq := s.groupSeq part p.group
              ∃ t k r, exec run s = .next t ∧ begins t 100 (BitVec.ofNat 64 (seq * 65536)) ∧ t.run k = some r ∧ t.groupSeq part p.group = (seq + 1) % 2 ^ 32
                ∧ r.peal = key ∧ r.seq = seq ∧ r.begun = true ∧ r.status = none ∧ r.asid = t0.id.asid ∧ r.cnt = p.nodes.map (·.depcnt)
                ∧ r.base = (List.range p.nbase).map (fun i => leWord ((l.drop (8 * i)).take 8))
                ∧ ∀ j, j < p.nodes.length → r.cnt.getD j 1 = 0 → acts t part k j)))
      ∧ (s.ready [srcA a xa] [d] true = true →
        ((¬∃ p, NamesPeal s (s.rd a) p) → gives wait 100 0xffffffffffff0003)
        ∧ (NamesPeal s (s.rd a) p → (∀ w ∈ s.engine.waits, w.1 ≠ key) →
          (s.runsOf key = (i, r) :: more → r.status = some st → s.pealOf r = some p →
            let word := BitVec.ofNat 64 (r.seq * 65536 + r.flags.toNat * 256 + st)
            let sc : Scope := if p.scope = 5 then .group else if p.scope = 6 then .domain else .system
            ∃ t, exec wait s = .next t ∧ Pends s t d s.nextTag ∧ t.run i = none
              ∧ { due := s.now + 1, ev := .deliver t0.id.uid s.nextTag (if st = 0 then .acq word sc else .val word), arg := [] } ∈ t.agenda)
          ∧ ((s.runsOf key = [] ∨ ∃ i r more, s.runsOf key = (i, r) :: more ∧ r.status = none) →
            ∃ t, exec wait s = .next t ∧ Pends s t d s.nextTag ∧ (key, t0.id.uid, s.nextTag) ∈ t.engine.waits))))

/-- A node of a run has completed with some FLAGS (R402): its successors count down, and the run is DONE when every node is over. -/
def NodeOver (t : State) (i j : Nat) (r : PealRun) (n : GraphNode) (flags : BitVec 8) : Prop :=
  ∃ x, t.run i = some x ∧ x.ended = r.ended.set j true ∧ x.cnt = n.succs.foldl (fun c k => c.set k (c.getD k 1 - 1)) r.cnt ∧ x.flags = r.flags ||| flags
    ∧ x.status = (if (r.ended.set j true).all id then some 0 else none)

/-- The pending list of a context's image, of its entry in a cluster's table, holds node firing `trigger` of peal `id` (R336). -/
def Listed (s : State) (q k id trigger : Nat) : Prop :=
  ∃ e m, s.entryOfKey q k = some e ∧ m < 32 ∧ m < leNat (s.bytesAt (s.imageOf q e + 0x18) 8)
    ∧ let at_ := s.imageOf q e + 0x400 + 32 * m
      leNat (s.bytesAt at_ 2) = 2 ∧ leNat (s.bytesAt (at_ + 4) 4) = id ∧ leNat (s.bytesAt (at_ + 8) 8) = trigger

/-- R336, R401-R404, R408: a node of a running run that does not act at this rank completes, wherever its context is. One that acts does so on its buffers once a receive node's arrival is there, with the permission of a load for its source and of a store for its
destination; a buffer that faults ends the run with FAULT; while its context is away it stands in the pending list, once. -/
def NodesAct : Prop :=
  ∀ (s w : State) (part i j e m q : Nat) (r : PealRun) (p : Peal) (n : GraphNode) (v old : List Word) (x : Nat × PealFlit),
    s.run i = some r → r.begun = true → r.status = none → r.peal / 128 = part → r.cnt.getD j 1 = 0 → r.ended.getD j true = false → s.pealOf r = some p → p.nodes[j]? = some n →
    s.engine.waits = [] → s.engine.runs.Pairwise (fun a b => a.1 ≠ b.1) → PlainHomes s →
    let node := Instr.pealNode part i j
    let trigger := j + r.seq % 2 ^ 32 * 65536
    let acts := n.acts p.nrank p.rank = true
    let listed := Listed s r.cluster p.ctx (r.peal % 128) trigger
    let here := s.awayEntry r.cluster p.ctx = none ∧ ¬listed
    let ended := fun (t : State) (f : BitVec 8) => exec node s = .next t ∧ NodeOver t i j r n f
    let fails := ∃ t x, exec node s = .next t ∧ t.run i = some x ∧ x.status = some 3 ∧ t.mem = s.mem
    let src := s.pealRead r n.srcb n.srcoff n.srcPair n.len
    let copied := s.pealMerge r n.srcb n.srcoff n.srcPair n.len
    let find := s.engine.held.find? fun x => heldFor part p.group r.seq x && p.takes n x.2
    let taken := { s with engine := { s.engine with held := s.engine.held.erase x } }
    let combined := taken.pealMerge r n.dstb n.dstoff n.dstPair n.len .store
    let sent := x.2.data ++ List.replicate (n.len - x.2.data.length) 0
    (¬acts → ∃ t, ended t 0 ∧ t.mem = s.mem)
    ∧ (acts → (n.op = 2 ∨ n.op = 4) → find = none → exec node s = .next s)
    ∧ (acts → ((n.op = 2 ∨ n.op = 4) → find = some x) → listed → exec node s = .next s)
    ∧ (here → n.op = 3 → src = some v →
        let rounds := n.srcPair = true ∧ n.dstPair = false
        let out := v.map fun y => if rounds then BitVec.ofNat 64 (pealSum (y.toNat % 2 ^ 32) (y.toNat / 2 ^ 32)).1 else y
        (copied.pealWrite r n.dstb n.dstoff n.dstPair out = some w → ∃ t f, ended t f ∧ (¬rounds → f = 0) ∧ t.mem = w.mem)
          ∧ (copied.pealWrite r n.dstb n.dstoff n.dstPair out = none → fails))
    ∧ (here → n.op = 1 → n.partner p.nrank p.rank = some q → src = some v → AllSent s portCore →
        let f : PealFlit := { group := p.group, seq := r.seq, tag := n.tag, sig := p.sig, nrank := p.nrank, rop := p.rop, rfmt := p.rfmt, src := p.rank, data := v, notice := 0 }
        let entry := (p.ranks.getD q 0).toNat
        let dev := entry % 2 ^ 15
        let via := entry / 2 ^ 15 % 2 = 1
        ∃ t, ended t 0 ∧ t.mem = s.mem ∧ (¬via → dev = s.plat.device → { due := s.now + 1, ev := .pealArrival part f, arg := [] } ∈ t.agenda)
          ∧ (¬via → dev ≠ s.plat.device → ∃ y ∈ (t.core portCore).unacked, y.flit.kind = .collective ∧ y.flit.dst = dev ∧ y.flit.part = part ∧ y.flit.peal = some f)
          ∧ (via → ∃ y ∈ t.drift.sent, y.peal = some f ∧ y.port = s.portOf part (entry / 2 ^ 16 % 2 ^ 24)))
    ∧ (here → n.op = 4 → acts → find = some x →
        (taken.pealWrite r n.dstb n.dstoff n.dstPair (sent.take n.len) = some w → ∃ t, ended t 0 ∧ t.mem = w.mem)
          ∧ (taken.pealWrite r n.dstb n.dstoff n.dstPair (sent.take n.len) = none → fails))
    ∧ (here → n.op = 2 → acts → find = some x →
        (taken.pealRead r n.dstb n.dstoff n.dstPair n.len .store = some old →
          combined.pealWrite r n.dstb n.dstoff n.dstPair ((old.zip sent).map fun y => (pealReduce p.rop p.rfmt y.1 y.2).1) = some w →
            ∃ t f, ended t f ∧ t.mem = w.mem ∧ (p.rfmt = 9 → f = 0))
          ∧ (taken.pealRead r n.dstb n.dstoff n.dstPair n.len .store = none → fails))
    ∧ (here → ((n.op = 3 ∧ src = none) ∨ (n.op = 1 ∧ acts ∧ src = none)) → fails)
    ∧ (s.awayEntry r.cluster p.ctx = some e → acts → ((n.op = 2 ∨ n.op = 4) → find = some x) → ¬listed → m = leNat (s.bytesAt (s.imageOf r.cluster e + 0x18) 8) → s.mem.wf = true →
        (32 ≤ m → exec node s = .next (s.after 64 node))
        ∧ (m < 32 → ∃ t, exec node s = .next t ∧ leNat (t.bytesAt (s.imageOf r.cluster e + 0x18) 8) = m + 1
            ∧ t.bytesAt (s.imageOf r.cluster e + 0x400 + 32 * m) 16 = leBytes 2 2 ++ leBytes 2 0 ++ leBytes 4 (r.peal % 128) ++ leBytes 8 trigger))

/-- R403: INT32 elements combine modulo 2^32, or by signed order. -/
def IntegersCombine : Prop :=
  ∀ a b : Word,
    let x := BitVec.ofNat 32 a.toNat
    let y := BitVec.ofNat 32 b.toNat
    (pealReduce 0 9 a b).1 = (x + y).setWidth 64 ∧ (pealReduce 1 9 a b).1 = (if x.toInt ≤ y.toInt then y else x).setWidth 64
      ∧ (pealReduce 2 9 a b).1 = (if x.toInt ≤ y.toInt then x else y).setWidth 64

/-- R402, R405, R407, R408: an arrival for a run that has not begun is held, up to 4,096 for the device, beyond which its port withholds the flit's credit; one for a run that has ended is dropped and counted, one for a running run is checked: where the
check fails the run ends with MISMATCH. A notice ends a run with MISMATCH or LOST, a PEAL.WAIT that waits gets its status, and the next run of the peal begins. -/
def ArrivalsAndNotices : Prop :=
  ∀ (s : State) (part group seq i k uid tag : Nat) (lost : Bool) (f : PealFlit) (g : Flit) (r r2 : PealRun) (p : Peal),
    let arrival := exec (.pealArrival part f) s
    let notice := exec (.pealNotice part group seq lost) s
    let ahead := fun (group seq : Nat) => (seq + 2 ^ 32 - s.engine.seqs.get 0 (part * 2 ^ 24 + group)) % 2 ^ 32 < 2 ^ 31
    let holds := fun (o : Out) (f : PealFlit) => o = .next { s with engine := { s.engine with held := s.engine.held ++ [(part, f)] } }
    let dropped := { s with engine := { s.engine with dropped := s.engine.dropped + 1 } }
    let checks := f.sig = p.sig ∧ f.nrank = p.nrank ∧ f.rop = p.rop ∧ f.rfmt = p.rfmt ∧ ∃ n ∈ p.nodes, (n.op = 2 ∨ n.op = 4) ∧ n.tag = f.tag ∧ n.partner p.nrank p.rank = some f.src
    let ends := fun (o : Out) (i st : Nat) => s.engine.runs.Pairwise (fun a b => a.1 ≠ b.1) → ∃ t x, o = .next t ∧ t.run i = some x ∧ x.status = some st ∧ t.mem = s.mem
    (s.heldEarly < 4096 →
      (s.runAt part f.group f.seq = none → ahead f.group f.seq → holds arrival f)
      ∧ (s.runAt part f.group f.seq = some (i, r) → r.status = none → r.begun = false → holds arrival f)
      ∧ (s.runAt part group seq = none → ahead group seq → holds notice (noticeFlit group seq lost))
      ∧ (s.runAt part group seq = some (i, r) → r.status = none → r.begun = false → holds notice (noticeFlit group seq lost)))
    ∧ (s.runAt part f.group f.seq = some (i, r) → r.status = none → r.begun = true → s.pealOf r = some p → checks →
        ∃ t, arrival = .next t ∧ t.engine = { s.engine with held := s.engine.held ++ [(part, f)] }
          ∧ ∀ j, j < r.cnt.length → r.cnt.getD j 1 = 0 → r.ended.getD j false = false → ∃ n, n ≤ 63 ∧ { due := s.now + n, ev := .pealNode (r.peal / 128) i j, arg := [] } ∈ t.agenda)
    ∧ (4096 ≤ s.heldEarly →
      (s.runAt part f.group f.seq = none → ahead f.group f.seq → f.notice = 0 → arrival = .next (s.after 64 (.pealArrival part f)))
      ∧ (s.runAt part group seq = none → ahead group seq → notice = .next (s.after 64 (.pealNotice part group seq lost)))
      ∧ (s.argAt 0 = 0 → g.kind = .collective → g.dst = s.plat.device → g.peal = some f → s.runAt g.part f.group f.seq = none → exec (.flitForward g []) s = .next (s.afterArg 64 (.flitForward g []) s.arg)))
    ∧ (s.runAt part f.group f.seq = none → ¬ahead f.group f.seq → arrival = .next dropped)
    ∧ (s.runAt part f.group f.seq = some (i, r) → r.status ≠ none → arrival = .next dropped)
    ∧ (s.runAt part f.group f.seq = some (i, r) → r.status = none → r.begun = true → s.pealOf r = some p → ¬checks → s.engine.waits = [] → ends arrival i 1)
    ∧ (s.runAt part group seq = none → ¬ahead group seq → notice = .next s) ∧ (s.runAt part group seq = some (i, r) → r.status ≠ none → notice = .next s)
    ∧ (s.runAt part group seq = some (i, r) → r.status = none → r.begun = true → s.pealOf r = some p → s.engine.waits = [] → ends notice i (if lost then 2 else 1))
    ∧ (s.runAt part group seq = some (i, r) → r.status = none → r.begun = true → s.pealOf r = some p → s.engine.waits = [(r.peal, uid, tag)] → s.runsOf r.peal = [(i, r)] → s.engine.runs = [(i, r)] →
        ∃ t, notice = .next t ∧ t.run i = none ∧ { due := s.now + 1, ev := .deliver uid tag (.val (BitVec.ofNat 64 (r.seq * 65536 + r.flags.toNat * 256 + if lost then 2 else 1))), arg := [] } ∈ t.agenda)
    ∧ (s.runAt part group seq = some (i, r) → r.status = none → r.begun = true → s.pealOf r = some p → s.engine.waits = [] → s.engine.held = [] → s.engine.runs = [(i, r), (k, r2)] → i ≠ k →
        r2.peal = r.peal → r2.status = none → r2.begun = false → ∃ t, notice = .next t ∧ t.run k = some { r2 with begun := true })

/-- R398-R409, R415, R416, R419: collectives as peals. Choices of the model that it rests on: log 80, log 81, log 136, log 156. -/
def Obligations.PealsRunAtEveryRank : Prop := PealInstructions ∧ NodesAct ∧ IntegersCombine ∧ ArrivalsAndNotices

/-- R171, R392, R417-R419, R427: CALVE splits a range of the partition's table: the statuses that change nothing, the move of the range's tuples and waiters with their ages to a home of this device, what is asked of another device that is the new home or holds the range, and the end of a calving that a device has not answered. Choices of the model that it rests on: log 23, log 82. -/
def Obligations.CalvingsMoveRanges : Prop :=
  ∀ (s u : State) (d a : Reg) (xa : Bool) (g : PReg) (l : List Byte) (part id j : Nat) (c : Calving),
    let me := s.me.id.part
    let i := Instr.calve d a xa g
    let p := s.part me
    let m := structNat l 0 4
    let e := descEntry l
    let home := structNat l 8 2
    let slice := structNat l 10 1 * 64 + structNat l 11 1 * 4 + structNat l 12 1
    let gen := p.rtgen.toNat
    let gives := fun (n : Nat) => ∃ t, exec i s = .next t ∧ BegunWithin s t d .other 1000 (.val (BitVec.ofNat 64 (gen * 2 ^ 32 + n)))
    let taken := ∃ x ∈ p.ranges, x.toNat / 2 ^ 32 = m
    let hi := rangeEnd p.inRange m
    let old := match rangeEntry p.inRange m with
      | some x => if x.getLsbD 30 then s.plat.device else x.toNat / 2 ^ 15 % 2 ^ 15
      | none => s.plat.device
    let asks := fun (t : State) (k dev mark phase : Nat) => Pends s t d s.nextTag
      ∧ (∃ x, t.calves.get? k = some x ∧ x.part = me ∧ x.uid = s.me.id.uid ∧ x.tag = s.nextTag ∧ x.lo = m ∧ x.hi = hi ∧ x.entry = e ∧ x.old = old ∧ x.phase = phase)
      ∧ ∃ y ∈ (t.core portCore).unacked, y.tag = k ∧ y.flit.dst = dev ∧ y.flit.kind = .tuple ∧ y.flit.value = e ∧ y.flit.size = mark
    let moves := fun (part : Nat) (f0 f1 : BitVec 32) => part = me ∧ m ≤ (homeHash f0 f1).toNat ∧ (homeHash f0 f1).toNat < hi
    (s.me.status.tl < 2 → s.feature 6 = false → ∃ t, exec i s = .next t ∧ Trapped s t 0 0 s.issuedWord)
    ∧ (s.feature 6 = true → s.src.pred g = true → s.ready [srcA a xa] [d] true = true → s.plainAt s.myCore → (s.rd a).toNat % 64 = 0 → (s.rd a).toNat < 2 ^ 63 → StructAt s u (s.rd a) 64 l →
      ((∃ x ∈ s.calves, x.2.part = me ∧ x.2.phase ≠ 2) → ∃ t, exec i s = .next t ∧ t.flow = .wait ∧ t.me = s.me ∧ SameElsewhere s t ∧ t.parts = s.parts ∧ t.calves = s.calves)
      ∧ ((∀ x ∈ s.calves, x.2.part = me → x.2.phase = 2) →
      (descOk l = false → gives 1) ∧ (descOk l = true → taken → gives 2) ∧ (descOk l = true → ¬taken → 64 ≤ p.ranges.length → gives 3)
      ∧ (descOk l = true → ¬taken → p.ranges.length < 64 → home = s.plat.device → slice ∉ p.slices → gives 4)
      ∧ (descOk l = true → ¬taken → p.ranges.length < 64 → home = s.plat.device → old = s.plat.device → slice ∈ p.slices → structNat l 16 2 = 0 → (∀ x ∈ s.copies, ¬moves x.2.req.part x.2.req.f0 x.2.req.f1) → s.movesOpen s.nextTag = false →
          ∃ t n, exec i s = .next t ∧ Pends s t d s.nextTag ∧ 1 ≤ n ∧ n ≤ 1000
            ∧ { due := s.now + n, ev := .deliver s.me.id.uid s.nextTag (.val (BitVec.ofNat 64 ((gen + 1) % 2 ^ 32 * 2 ^ 32))), arg := [] } ∈ t.agenda
            ∧ (m, hi, some slice) ∈ (t.part me).given ∧ e ∈ rangeEntries (t.part me).inRange ∧ (t.part me).rtgen = p.rtgen + 1 ∧ t.flow = .seq
            ∧ (∀ q, ∀ x ∈ (s.slice q).tuples, moves x.part x.f0 x.f1 → x ∈ (t.slice slice).tuples ∧ (q ≠ slice → x ∉ (t.slice q).tuples))
            ∧ (∀ q, ∀ w ∈ (s.slice q).waiters, moves w.req.part w.req.f0 w.req.f1 → { w with req := { w.req with home := slice } } ∈ (t.slice slice).waiters ∧ (q ≠ slice → w ∉ (t.slice q).waiters))
            ∧ (∀ q, ∀ x ∈ (s.slice q).tuples, ¬moves x.part x.f0 x.f1 → x ∈ (t.slice q).tuples))
      ∧ (descOk l = true → ¬taken → p.ranges.length < 64 → home ≠ s.plat.device → (∀ x ∈ s.copies, ¬moves x.2.req.part x.2.req.f0 x.2.req.f1) → AllSent u portCore →
          ∃ t k, exec i s = .next t ∧ asks t k home 1 0)
      ∧ (descOk l = true → ¬taken → p.ranges.length < 64 → home = s.plat.device → old ≠ s.plat.device → slice ∈ p.slices → (∀ x ∈ s.copies, ¬moves x.2.req.part x.2.req.f0 x.2.req.f1) → AllSent u portCore →
          ∃ t k, exec i s = .next t ∧ asks t k old 2 3)
      ∧ (descOk l = true → ¬taken → p.ranges.length < 64 → (home = s.plat.device → slice ∈ p.slices) → (∃ x ∈ s.copies, moves x.2.req.part x.2.req.f0 x.2.req.f1) →
          ∃ t, exec i s = .next t ∧ t.flow = .wait ∧ t.me = s.me ∧ SameElsewhere s t ∧ t.parts = s.parts ∧ t.calves = s.calves)))
    ∧ (s.arg = [part, id] →
      (s.calves.get? id = some c → c.part = part → (c.phase = 2 ∧ c.open_ ≠ []) ∨ c.phase = 3 → c.origin = none →
        ∃ t n, exec .calveIncomplete s = .next t ∧ t.calves.get? id = none ∧ 1 ≤ n ∧ n ≤ 1000
          ∧ { due := s.now + n, ev := .deliver c.uid c.tag (.val (BitVec.ofNat 64 ((s.part part).rtgen.toNat * 2 ^ 32 + 5))), arg := [] } ∈ t.agenda ∧ t.parts = s.parts ∧ t.slices = s.slices)
      ∧ (s.calves.get? id = none → exec .calveIncomplete s = .next s)
      ∧ (s.calves.get? id = some c → c.part = part → c.phase ≠ 2 ∨ c.open_ = [] → c.phase ≠ 3 → exec .calveIncomplete s = .next s)
      ∧ (j ≠ part → s.calves.get? id = some c → c.part = j → exec .calveIncomplete s = .next s))
    ∧ (s.arg = [part, id, 1] → s.calves.get? id = some c → c.part = part → c.phase = 1 → s.rangeBusy c = true →
        ∃ t, exec .calveIncomplete s = .next t ∧ t.calves.get? id = some c ∧ t.parts = s.parts ∧ t.slices = s.slices
          ∧ { due := s.now + 1, ev := .calveIncomplete, arg := [part, id, 1] } ∈ t.agenda)

-- ==== encoding (R37-R49) ====

/-- R37, R41, R44: words that the spec works out decode to the instructions that it names, in lone bundles and in pairs. -/
def Obligations.WorkedWordsDecode : Prop :=
  let lone := fun (w0 w1 : BitVec 32) (i : Instr) => decodeBundle 1 w0 w1 = .ok { c := i, a := none }
  let pair := fun (w0 w1 : BitVec 32) (c a : Instr) => decodeBundle 1 w0 w1 = .ok { c := c, a := some a }
  lone 0x84050010 0 (.jmpr 20 false 1) ∧ lone 0x88280000 0x1234 (.lith 5 0 0x1234) ∧ lone 0x89480400 0 (.mfs 9 2 0) ∧ lone 0x8a4a8100 0 (.mts 9 10 true 0)
  ∧ lone 0x934c2043 0 (.stl 9 16 true 2 false .d) ∧ lone 0xb249004c 0 (.ldAcq 9 4 2 false .d .device) ∧ lone 0xb4000008 0 (.ifence 0)
  ∧ lone 0xb60b1a03 0 (.red .fadd 12 13 false false 0 .w .die) ∧ lone 0xb74a9604 0 (.cas 9 10 11 false false 0 .w .device) ∧ lone 0xc200ea02 0 (.ttake 0 3 21 false false 0 .c)
  ∧ lone 0xe04a9605 0 (.ffence 9 10 11 false false 0 .group) ∧ lone 0xf0000420 0 (.trap 2 2) ∧ lone 0xf3029600 0 (.tlbinv 10 11 false false 0 .page)
  ∧ pair 0x03000002 0x07200005 (.call 0 false 2) (.addi 25 0 false 5) ∧ pair 0x06000000 0x01084800 (.ret 0) (.add 8 8 9 false false 0)
  ∧ pair 0x3049000a 0x01453000 (.ldS 9 4 0 false .d .cluster) (.add 10 5 6 false false 0) ∧ pair 0x44d03800 0xf8761000 (.mint 26 28 0) (.hset 3 22 2 false 0)
  ∧ pair 0 0x14495002 .cnop (.cmp 2 9 10 false false 0 .lt) ∧ pair 0 0x012a5917 .cnop (.sel 9 10 11 false false 4) ∧ pair 0 0x812a2009 .cnop (.fcvt 9 10 .bf16 false 0)
  ∧ pair 0 0xe208d6d1 .cnop (.mmas 8 2 3 5 22 true) ∧ pair 0 0xf2682f00 .cnop (.cpy 9 10 11 24 false)

/-- R37, R38, R41-R49: every well-formed instruction has words, and they decode to it, whatever its operands. -/
def Obligations.DecodingReadsWhatIsEncoded : Prop :=
  ∀ i : Instr, i.isInstruction = true → i.wellFormed = true → ∃ w0 w1, encodeAlone i = some (w0, w1) ∧ decodeAlone w0 w1 = some i

/-- R38, R45, R46, R48: a bundle that decodes has no other words: its C-instruction and its A-instruction are well-formed, and their words are the bundle's. -/
def Obligations.WordsHaveOneMeaning : Prop :=
  ∀ (depth : Nat) (w0 w1 : BitVec 32) (b : Bundle), decodeBundle depth w0 w1 = .ok b →
    b.c.wellFormed = true ∧ (∀ a, b.a = some a → a.wellFormed = true ∧ encode a = some (.a w1) ∧ encode b.c = some (.c w0) ∧ loneBit w0 = false)
      ∧ (b.a = none → loneBit w0 = true ∧ ((∃ w, encode b.c = some (.c w) ∧ w0 = asLone w ∧ w1 = 0) ∨ encode b.c = some (.cl w0 w1)))

/-- R39, R45, R343: how a malformed bundle is reported: the C-word's fault before the A-word's, its reason and the word; and the reasons that concern the bundle. Details that R45 does not use never occur. -/
def Obligations.MalformedBundlesAreReported : Prop :=
  ∀ (depth : Nat) (w0 w1 : BitVec 32) (c a : Instr) (r q : Nat) (m : Malformed) (d : Reg) (ix : BitVec 5) (g : PReg) (x : Bool),
    let gives := fun (n : Nat) (w : BitVec 32) => decodeBundle depth w0 w1 = .error { detail := BitVec.ofNat 5 n, word := w }
    let unassigned := fun (n : Nat) (l : List (Nat × Nat)) => ∃ p ∈ l, p.1 ≤ n ∧ n ≤ p.2
    (decodeBundle depth w0 w1 = .error m → m.detail.toNat ≤ 8 ∨ (16 ≤ m.detail.toNat ∧ m.detail.toNat ≤ 19))
    ∧ (decodeC w0 w1 = .error r → gives r w0)
    ∧ (decodeC w0 w1 = .ok c → loneBit w0 = false → decodeA w1 = .error q → lateReason depth c = none → gives (16 + q) w1)
    ∧ (unassigned (copOf w0).toNat [(11, 15), (20, 47), (63, 63), (75, 79), (88, 95), (104, 111), (121, 127)] → decodeC w0 w1 = .error 0)
    ∧ (unassigned (aopOf w1).toNat [(0x07, 0x1f), (0x22, 0x2f), (0x35, 0x37), (0x39, 0x3b), (0x3d, 0x3d), (0x3f, 0x3f)] → decodeA w1 = .error 0)
    ∧ ((copOf w0).toNat ∈ [7, 8, 72] → loneBit w0 = false → ∃ n, decodeC w0 w1 = .error n ∧ n ≤ 5)
    ∧ (decodeC w0 0 = .ok c → loneBit w0 = true → w1 ≠ 0 → (copOf w0).toNat ∉ [7, 8, 72] → gives 4 w0)
    ∧ (decodeC w0 w1 = .ok c → loneBit w0 = false → decodeA w1 = .ok a → conflict c a = true → gives 6 w0)
    ∧ (decodeC w0 w1 = .ok (.uiret g) → loneBit w0 = false → decodeA w1 = .ok a → (∃ p, Dest.p p ∈ a.dests) → gives 6 w0)
    ∧ (decodeC w0 w1 = .ok (.ret g) → loneBit w0 = true → depth = 0 → gives 7 w0)
    ∧ (decodeC w0 w1 = .ok (.mfs d ix g) ∨ decodeC w0 w1 = .ok (.mts ix d x g) → loneBit w0 = true → 24 < ix.toNat → gives 8 w0)

-- ==== the step, reset and the invariant ====

/-- The state after a bundle of slot `i` has issued and its instructions have given `t` (R39, R93, R114, R409): a walk that the bundle waited for and pieces that it was given have served it, the pc is that of the next bundle unless an instruction has gone on in its own way, and the
barrel's pointer moves behind the slot. -/
def Issued (t : State) (i : Nat) : State :=
  let v := t.setSlot i { t.slot i with front := { (t.slot i).front with walked := none, walkFault := none, got := [] } }
  let u := if t.flow = .seq then
      v.setSlot i { v.slot i with pc := pcOf ((v.slot i).pc + 8), front := { (v.slot i).front with readyAt := max (v.now + 1) (v.slot i).front.readyAt } }
    else v
  { u.modCore (coreOf i) (fun c => { c with q := (i % 8 + 1) % 8 }) with issued := coreOf i :: u.issued, snap := none, flow := .seq }

/-- R25, R37, R39, R45, R86, R90, R113, R114: when no step is due, the next core's first ready slot in the barrel's order issues the bundle at its pc: the bytes there are decoded, and the step is the effect of the decoded instructions, the A-instruction's and then the C-instruction's, and the
move to the next bundle; a malformed bundle traps with class 0, one of a feature
that is not accepted with reason 0 before any other reason, and one whose fetch faults with that fault. A bundle that has acted and awaits an answer has issued too. Choices of the model that it rests on: log 102, log 104, log 139. -/
def Obligations.StepsIssueTheDecodedBundle : Prop :=
  ∀ (s t u : State) (core j : Nat) (f : FetchBlock) (b : Bundle) (a : Instr) (m : Malformed) (w : BitVec 32) (cls d : Nat) (v : Word),
    let slotAt := fun k => core * 8 + ((s.core core).q + k) % 8
    let i := slotAt j
    let s0 := { s with cur := i, snap := some (s.slot i), flow := .seq, arg := [] }
    let bytes := (f.bytes.drop ((s.slot i).pc.toNat % 64)).take 8
    let held := fun (t : State) => { t.modCore core (fun c => { c with q := (i % 8 + 1) % 8 }) with issued := core :: t.issued, snap := none, flow := .seq }
    (∀ d ∈ s.agenda, d.ready s.now = false) → s.nextCore = some core → j < 8 → (∀ k, k < 8 → (s.slot (slotAt k)).front.wait = .none) →
    (∀ k, k < j → s.mayIssue (slotAt k) = false ∧ s.interrupted (slotAt k) = false ∧ s.failing (slotAt k) = false) →
    s.mayIssue i = true → s.boundary i = none → (s.slot i).fetched = some f →
    (f.fault = some (cls, d, v) → (s.slot i).status.tl < 2 → ∃ t, Trapped s0 t cls d v ∧ step s = .next (Issued t i))
    ∧ (f.fault = none → s0.absentWord bytes = some w → (s.slot i).status.tl < 2 →
        ∃ t, Trapped s0 t 0 0 (w.setWidth 64) ∧ exec (.illegalInstruction 0 w) s0 = .next t ∧ step s = .next (Issued t i))
    ∧ (f.fault = none → s0.absentWord bytes = none → decode (s.slot i).depth bytes = .ok b →
      (b.a = none → exec b.c s0 = .next t → t.flow ≠ .wait → t.flow ≠ .held → step s = .next (Issued t i))
      ∧ (b.a = none → exec b.c s0 = .next t → t.flow = .held → step s = .next (held t))
      ∧ (b.a = some a → exec a s0 = .next u → u.flow = .seq → exec b.c { u with flow := .seq } = .next t →
          (∃ x, exec b.c s0 = .next x ∧ (x.flow = .seq ∨ x.flow = .jump ∨ x.flow = .retired)) → t.flow ≠ .wait → t.flow ≠ .held → step s = .next (Issued t i)))
    ∧ (f.fault = none → s0.absentWord bytes = none → decode (s.slot i).depth bytes = .error m → (s.slot i).status.tl < 2 →
        ∃ t, Trapped s0 t 0 m.detail.toNat (m.word.setWidth 64) ∧ exec (.illegalInstruction m.detail m.word) s0 = .next t ∧ step s = .next (Issued t i))

/-- R45, R113, R423, R433: a step of the agenda that is due runs before any bundle, the first in the list first, unless the package is in recovery or off and the step is none that acts then; with nothing due and no core left to issue the next cycle comes. Choices of the model that it rests on: log 104. -/
def Obligations.StepsRunWhatIsDue : Prop :=
  ∀ (s : State) (d : Due) (pre post : List Due),
    (s.agenda = pre ++ d :: post → (∀ x ∈ pre, x.ready s.now = false) → d.ready s.now = true →
      (s.works d.ev = true → step s = exec d.ev { s with agenda := pre ++ post, arg := d.arg, flow := .seq, snap := none })
      ∧ (s.works d.ev = false → step s = .next { s with agenda := pre ++ post }))
    ∧ ((∀ x ∈ s.agenda, x.ready s.now = false) → s.nextCore = none → step s = .next { s with now := s.now + 1, issued := [] })

/-- The memory keeps its canonical form: every step from a state whose memory lists rising addresses and no zero byte gives such a state (log 1). -/
def Obligations.StepsKeepMemoryCanonical : Prop :=
  ∀ s t : State, s.Inv → step s = .next t → t.Inv

/-- R27, R365, R423, R425, R426, R432: the device after reset: memory in canonical form and zero, every partition FREE with DONE set, no strand, no feature accepted, the management registers at their reset values, and the tables of a cluster, a core and a slice empty. Choices of the model that it rests on: log 1, log 4, log 7. -/
def Obligations.ResetLeavesTheDeviceEmpty : Prop :=
  let s := State.reset
  s.Inv ∧ (∀ a, s.mem.read a = 0) ∧ (∀ p, (s.part p).state = .free ∧ s.partWord p 0x10 = 0x10000 ∧ (s.part p).quanta = 0) ∧ (∀ i, s.slot i = Slot.empty) ∧ (∀ c, s.core c = Core.empty)
    ∧ (∀ q, s.cluster q = Cluster.empty) ∧ (∀ i, s.slice i = Slice.empty) ∧ s.cmds = [] ∧ s.agenda = [] ∧ s.plat.drvfeat = 0 ∧ s.plat.devfeat = 0x1ff ∧ s.plat.plimit = 2600000 ∧ s.plat.throttle = 1
    ∧ s.plat.cecount = 0 ∧ s.plat.linkev = 0 ∧ s.plat.mailbox = true ∧ s.plat.recovery = false ∧ s.plat.poweredOff = false ∧ s.fab.routes = [] ∧ s.fab.llink = 0 ∧ s.fab.glink = 0
end

