-- ==== Sys2Proof/Laws/Memory.lean ====
section
/-! SUPPORT. Tables and memory: a read after a write, and that every operation of memory keeps the canonical form. -/

namespace Sys2Proof.Machine

-- ==== tables ====

@[simp] theorem Tab.get_set_self {α : Type} (d : α) (t : Tab α) (k : Nat) (v : α) : (t.set k v).get d k = v := by
  induction t with
  | nil => simp [Tab.set, Tab.get]
  | cons x r ih =>
    obtain ⟨j, w⟩ := x
    simp only [Tab.set]
    split
    · simp [Tab.get]
    · split
      · simp [Tab.get]
      · simp [Tab.get, *]

theorem Tab.get_set_ne {α : Type} (d : α) (t : Tab α) {k j : Nat} (v : α) (h : j ≠ k) :
    (t.set k v).get d j = t.get d j := by
  induction t with
  | nil => simp [Tab.set, Tab.get, h.symm]
  | cons x r ih =>
    obtain ⟨i, w⟩ := x
    simp only [Tab.set]
    split
    · subst_vars; simp [Tab.get, h.symm]
    · split
      · simp [Tab.get, h.symm]
      · simp [Tab.get, ih]

theorem Tab.get_set {α : Type} (d : α) (t : Tab α) (k j : Nat) (v : α) :
    (t.set k v).get d j = if j = k then v else t.get d j := by
  split
  · subst_vars; simp
  · exact Tab.get_set_ne d t v ‹_›

theorem Tab.get?_set {α : Type} (t : Tab α) (k j : Nat) (v : α) :
    (t.set k v).get? j = if j = k then some v else t.get? j := by
  induction t with
  | nil => by_cases h : k = j <;> simp [Tab.set, Tab.get?, h, eq_comm]
  | cons x r ih =>
    obtain ⟨i, w⟩ := x
    by_cases hik : i = k
    · subst hik
      by_cases h : i = j
      · simp [Tab.set, Tab.get?, h]
      · simp [Tab.set, Tab.get?, h, Ne.symm h]
    · simp only [Tab.set, hik, if_false]
      split
      · by_cases h : k = j
        · subst h; simp [Tab.get?]
        · simp [Tab.get?, h, Ne.symm h]
      · by_cases h : i = j
        · subst h; simp [Tab.get?, hik]
        · simp [Tab.get?, h, ih]

theorem Tab.get_map {α : Type} (f : Nat → α → α) (d : α) (t : Tab α) (k : Nat) (hd : f k d = d) :
    (t.map f).get d k = f k (t.get d k) := by
  induction t with
  | nil => simp [Tab.map, Tab.get, hd]
  | cons x r ih =>
    obtain ⟨i, w⟩ := x
    simp only [Tab.map, Tab.get]
    split
    · subst_vars; rfl
    · exact ih

theorem Tab.get_del_self {α : Type} (d : α) (t : Tab α) (k : Nat) : (t.del k).get d k = d := by
  induction t with
  | nil => rfl
  | cons x r ih =>
    obtain ⟨i, w⟩ := x
    simp only [Tab.del]
    split
    · exact ih
    · simp [Tab.get, *]

theorem Tab.get_del_ne {α : Type} (d : α) (t : Tab α) {k j : Nat} (h : j ≠ k) : (t.del k).get d j = t.get d j := by
  induction t with
  | nil => rfl
  | cons x r ih =>
    obtain ⟨i, w⟩ := x
    simp only [Tab.del]
    split
    · subst_vars; simp [Tab.get, h.symm, ih]
    · simp [Tab.get, ih]

-- ==== the canonical form ====

theorem Memory.wfFrom_mono {m : Memory} {lo lo' : Nat} (h : lo' ≤ lo) (hw : Memory.wfFrom lo m = true) :
    Memory.wfFrom lo' m = true := by
  cases m with
  | nil => rfl
  | cons x r =>
    obtain ⟨a, b⟩ := x
    simp only [Memory.wfFrom, Bool.and_eq_true, decide_eq_true_eq] at hw ⊢
    exact ⟨⟨by omega, hw.1.2⟩, hw.2⟩

theorem Memory.wfFrom_erase {m : Memory} {lo : Nat} (k : Nat) (hw : Memory.wfFrom lo m = true) :
    Memory.wfFrom lo (m.erase k) = true := by
  induction m generalizing lo with
  | nil => rfl
  | cons x r ih =>
    obtain ⟨a, b⟩ := x
    simp only [Memory.wfFrom, Bool.and_eq_true, decide_eq_true_eq] at hw
    simp only [Memory.erase]
    split
    · exact Memory.wfFrom_mono (by omega) hw.2
    · simp only [Memory.wfFrom, Bool.and_eq_true, decide_eq_true_eq]
      exact ⟨hw.1, ih hw.2⟩

theorem Memory.wfFrom_insert {m : Memory} {lo k : Nat} {v : Byte} (hk : lo ≤ k) (hv : v ≠ 0)
    (hw : Memory.wfFrom lo m = true) : Memory.wfFrom lo (m.insert k v) = true := by
  induction m generalizing lo with
  | nil => simpa [Memory.insert, Memory.wfFrom, hk] using hv
  | cons x r ih =>
    obtain ⟨a, b⟩ := x
    have hw' := hw
    simp only [Memory.wfFrom, Bool.and_eq_true, decide_eq_true_eq] at hw
    simp only [Memory.insert]
    split
    · subst_vars; simpa [Memory.wfFrom, hk, hw.2] using hv
    · split
      · simp only [Memory.wfFrom, Bool.and_eq_true, decide_eq_true_eq]
        exact ⟨⟨hk, by simpa using hv⟩, ⟨by omega, hw.1.2⟩, hw.2⟩
      · simp only [Memory.wfFrom, Bool.and_eq_true, decide_eq_true_eq]
        exact ⟨hw.1, ih (by omega) hw.2⟩

theorem Memory.wf_write {m : Memory} (k : Nat) (v : Byte) (hw : m.wf = true) : (m.write k v).wf = true := by
  unfold Memory.write
  split
  · exact Memory.wfFrom_erase k hw
  · exact Memory.wfFrom_insert (Nat.zero_le k) ‹_› hw

theorem Memory.wf_writeBytes {m : Memory} (k : Nat) (l : List Byte) (hw : m.wf = true) : (m.writeBytes k l).wf = true := by
  induction l generalizing m k with
  | nil => exact hw
  | cons b r ih => exact ih _ (Memory.wf_write k b hw)

theorem Memory.wfFrom_filter {m : Memory} {lo : Nat} (p : Host.Cell → Bool) (hw : Memory.wfFrom lo m = true) :
    Memory.wfFrom lo (m.filter p) = true := by
  induction m generalizing lo with
  | nil => rfl
  | cons x r ih =>
    obtain ⟨a, b⟩ := x
    simp only [Memory.wfFrom, Bool.and_eq_true, decide_eq_true_eq] at hw
    simp only [List.filter]
    split
    · simp only [Memory.wfFrom, Bool.and_eq_true, decide_eq_true_eq]
      exact ⟨hw.1, ih hw.2⟩
    · exact Memory.wfFrom_mono (by omega) (ih hw.2)

theorem Memory.wf_filter {m : Memory} (p : Host.Cell → Bool) (hw : m.wf = true) : Memory.wf (m.filter p) = true :=
  Memory.wfFrom_filter p hw

theorem Memory.wf_clear {m : Memory} (lo hi : Nat) (hw : m.wf = true) : (m.clear lo hi).wf = true :=
  Memory.wf_filter _ hw

/-- The memory of the device at the end of boot is in its canonical form. -/
theorem Memory.wf_reset : State.reset.mem.wf = true := rfl

-- ==== reading after writing ====

theorem Memory.read_low {m : Memory} {lo k : Nat} (hk : k < lo) (hw : Memory.wfFrom lo m = true) : m.read k = 0 := by
  induction m generalizing lo with
  | nil => rfl
  | cons x r ih =>
    obtain ⟨a, b⟩ := x
    simp only [Memory.wfFrom, Bool.and_eq_true, decide_eq_true_eq] at hw
    simp only [Memory.read]
    split
    · omega
    · exact ih (by omega) hw.2

theorem Memory.read_erase_self {m : Memory} {lo : Nat} (k : Nat) (hw : Memory.wfFrom lo m = true) :
    (m.erase k).read k = 0 := by
  induction m generalizing lo with
  | nil => rfl
  | cons x r ih =>
    obtain ⟨a, b⟩ := x
    simp only [Memory.wfFrom, Bool.and_eq_true, decide_eq_true_eq] at hw
    simp only [Memory.erase]
    split
    · exact Memory.read_low (lo := a + 1) (by omega) hw.2
    · simp only [Memory.read, *, if_false]
      exact ih hw.2

theorem Memory.read_erase_ne (m : Memory) {j k : Nat} (h : j ≠ k) : (m.erase k).read j = m.read j := by
  induction m with
  | nil => rfl
  | cons x r ih =>
    obtain ⟨a, b⟩ := x
    simp only [Memory.erase]
    split
    · subst_vars; simp [Memory.read, h.symm]
    · simp [Memory.read, ih]

@[simp] theorem Memory.read_insert_self (m : Memory) (k : Nat) (v : Byte) : (m.insert k v).read k = v := by
  induction m with
  | nil => simp [Memory.insert, Memory.read]
  | cons x r ih =>
    obtain ⟨a, b⟩ := x
    simp only [Memory.insert]
    split
    · simp [Memory.read]
    · split
      · simp [Memory.read]
      · simp [Memory.read, *]

theorem Memory.read_insert_ne (m : Memory) {j k : Nat} (v : Byte) (h : j ≠ k) : (m.insert k v).read j = m.read j := by
  induction m with
  | nil => simp [Memory.insert, Memory.read, h.symm]
  | cons x r ih =>
    obtain ⟨a, b⟩ := x
    simp only [Memory.insert]
    split
    · subst_vars; simp [Memory.read, h.symm]
    · split
      · simp [Memory.read, h.symm]
      · simp [Memory.read, ih]

theorem Memory.read_write_self {m : Memory} (k : Nat) (v : Byte) (hw : m.wf = true) : (m.write k v).read k = v := by
  unfold Memory.write
  split
  · subst_vars; exact Memory.read_erase_self k hw
  · simp

theorem Memory.read_write_ne (m : Memory) {j k : Nat} (v : Byte) (h : j ≠ k) : (m.write k v).read j = m.read j := by
  unfold Memory.write
  split
  · exact Memory.read_erase_ne m h
  · exact Memory.read_insert_ne m v h

theorem Memory.read_writeBytes_out (m : Memory) (k : Nat) (l : List Byte) {j : Nat} (h : j < k ∨ k + l.length ≤ j) :
    (m.writeBytes k l).read j = m.read j := by
  induction l generalizing m k with
  | nil => rfl
  | cons b r ih =>
    simp only [List.length_cons] at h
    simp only [Memory.writeBytes]
    rw [ih _ _ (by omega), Memory.read_write_ne _ _ (by omega)]

theorem Memory.read_writeBytes_in {m : Memory} (k : Nat) (l : List Byte) {i : Nat} (hi : i < l.length) (hw : m.wf = true) :
    (m.writeBytes k l).read (k + i) = l[i] := by
  induction l generalizing m k i with
  | nil => simp at hi
  | cons b r ih =>
    simp only [Memory.writeBytes]
    cases i with
    | zero => rw [Memory.read_writeBytes_out _ _ _ (by omega)]; simpa using Memory.read_write_self k b hw
    | succ n =>
      have := ih (k + 1) (i := n) (by simpa using hi) (Memory.wf_write k b hw)
      rw [show k + (n + 1) = k + 1 + n by omega, this]; rfl

theorem Memory.read_filter_in {m : Memory} (p : Host.Cell → Bool) {k : Nat} (h : ∀ b, p (k, b) = true) :
    Memory.read (m.filter p) k = m.read k := by
  induction m with
  | nil => rfl
  | cons x r ih =>
    obtain ⟨a, b⟩ := x
    simp only [List.filter]
    split
    · simp [Memory.read, ih]
    · by_cases hk : a = k
      · subst hk; rw [h b] at *; contradiction
      · simp [Memory.read, hk, ih]

theorem Memory.read_clear_out (m : Memory) {lo hi k : Nat} (h : k < lo ∨ hi ≤ k) : (m.clear lo hi).read k = m.read k :=
  Memory.read_filter_in _ (fun b => by simp; omega)

theorem Memory.read_clear_in (m : Memory) {lo hi k : Nat} (h : lo ≤ k ∧ k < hi) : (m.clear lo hi).read k = 0 := by
  unfold Memory.clear
  induction m with
  | nil => rfl
  | cons x r ih =>
    obtain ⟨a, b⟩ := x
    simp only [List.filter]
    split
    · simp only [Memory.read]
      split
      · subst_vars; simp at *; omega
      · exact ih
    · exact ih

end Sys2Proof.Machine
end

