-- ==== Sys2Proof/Laws/State.lean ====
section
/-! SUPPORT. What the updates of the state leave as it was, and what they write: one lemma for each field and update. -/

namespace Sys2Proof.Machine

-- ==== setSlot ====

@[simp] theorem State.setSlot_now (s : State) (i : Nat) (t : Slot) : (s.setSlot i t).now = s.now := rfl
@[simp] theorem State.setSlot_tick (s : State) (i : Nat) (t : Slot) : (s.setSlot i t).tick = s.tick := rfl
@[simp] theorem State.setSlot_cur (s : State) (i : Nat) (t : Slot) : (s.setSlot i t).cur = s.cur := rfl
@[simp] theorem State.setSlot_snap (s : State) (i : Nat) (t : Slot) : (s.setSlot i t).snap = s.snap := rfl
@[simp] theorem State.setSlot_flow (s : State) (i : Nat) (t : Slot) : (s.setSlot i t).flow = s.flow := rfl
@[simp] theorem State.setSlot_issued (s : State) (i : Nat) (t : Slot) : (s.setSlot i t).issued = s.issued := rfl
@[simp] theorem State.setSlot_agenda (s : State) (i : Nat) (t : Slot) : (s.setSlot i t).agenda = s.agenda := rfl
@[simp] theorem State.setSlot_arg (s : State) (i : Nat) (t : Slot) : (s.setSlot i t).arg = s.arg := rfl
@[simp] theorem State.setSlot_mem (s : State) (i : Nat) (t : Slot) : (s.setSlot i t).mem = s.mem := rfl
@[simp] theorem State.setSlot_slots (s : State) (i : Nat) (t : Slot) : (s.setSlot i t).slots = s.slots.set i t := rfl
@[simp] theorem State.setSlot_cores (s : State) (i : Nat) (t : Slot) : (s.setSlot i t).cores = s.cores := rfl
@[simp] theorem State.setSlot_clusters (s : State) (i : Nat) (t : Slot) : (s.setSlot i t).clusters = s.clusters := rfl
@[simp] theorem State.setSlot_quads (s : State) (i : Nat) (t : Slot) : (s.setSlot i t).quads = s.quads := rfl
@[simp] theorem State.setSlot_slices (s : State) (i : Nat) (t : Slot) : (s.setSlot i t).slices = s.slices := rfl
@[simp] theorem State.setSlot_copies (s : State) (i : Nat) (t : Slot) : (s.setSlot i t).copies = s.copies := rfl
@[simp] theorem State.setSlot_melts (s : State) (i : Nat) (t : Slot) : (s.setSlot i t).melts = s.melts := rfl
@[simp] theorem State.setSlot_partials (s : State) (i : Nat) (t : Slot) : (s.setSlot i t).partials = s.partials := rfl
@[simp] theorem State.setSlot_replicas (s : State) (i : Nat) (t : Slot) : (s.setSlot i t).replicas = s.replicas := rfl
@[simp] theorem State.setSlot_walks (s : State) (i : Nat) (t : Slot) : (s.setSlot i t).walks = s.walks := rfl
@[simp] theorem State.setSlot_torus (s : State) (i : Nat) (t : Slot) : (s.setSlot i t).torus = s.torus := rfl
@[simp] theorem State.setSlot_cmds (s : State) (i : Nat) (t : Slot) : (s.setSlot i t).cmds = s.cmds := rfl
@[simp] theorem State.setSlot_merged (s : State) (i : Nat) (t : Slot) : (s.setSlot i t).merged = s.merged := rfl
@[simp] theorem State.setSlot_spent (s : State) (i : Nat) (t : Slot) : (s.setSlot i t).spent = s.spent := rfl
@[simp] theorem State.setSlot_barriers (s : State) (i : Nat) (t : Slot) : (s.setSlot i t).barriers = s.barriers := rfl
@[simp] theorem State.setSlot_contexts (s : State) (i : Nat) (t : Slot) : (s.setSlot i t).contexts = s.contexts := rfl
@[simp] theorem State.setSlot_parts (s : State) (i : Nat) (t : Slot) : (s.setSlot i t).parts = s.parts := rfl
@[simp] theorem State.setSlot_plat (s : State) (i : Nat) (t : Slot) : (s.setSlot i t).plat = s.plat := rfl
@[simp] theorem State.setSlot_fab (s : State) (i : Nat) (t : Slot) : (s.setSlot i t).fab = s.fab := rfl
@[simp] theorem State.setSlot_drift (s : State) (i : Nat) (t : Slot) : (s.setSlot i t).drift = s.drift := rfl
@[simp] theorem State.setSlot_engine (s : State) (i : Nat) (t : Slot) : (s.setSlot i t).engine = s.engine := rfl
@[simp] theorem State.setSlot_calves (s : State) (i : Nat) (t : Slot) : (s.setSlot i t).calves = s.calves := rfl
@[simp] theorem State.setSlot_conts (s : State) (i : Nat) (t : Slot) : (s.setSlot i t).conts = s.conts := rfl
@[simp] theorem State.setSlot_host (s : State) (i : Nat) (t : Slot) : (s.setSlot i t).host = s.host := rfl
@[simp] theorem State.setSlot_owed (s : State) (i : Nat) (t : Slot) : (s.setSlot i t).owed = s.owed := rfl
@[simp] theorem State.setSlot_away (s : State) (i : Nat) (t : Slot) : (s.setSlot i t).away = s.away := rfl
@[simp] theorem State.setSlot_saved (s : State) (i : Nat) (t : Slot) : (s.setSlot i t).saved = s.saved := rfl
@[simp] theorem State.setSlot_poisons (s : State) (i : Nat) (t : Slot) : (s.setSlot i t).poisons = s.poisons := rfl
@[simp] theorem State.setSlot_badBytes (s : State) (i : Nat) (t : Slot) : (s.setSlot i t).badBytes = s.badBytes := rfl
@[simp] theorem State.setSlot_nextTag (s : State) (i : Nat) (t : Slot) : (s.setSlot i t).nextTag = s.nextTag := rfl
@[simp] theorem State.setSlot_nextCmd (s : State) (i : Nat) (t : Slot) : (s.setSlot i t).nextCmd = s.nextCmd := rfl
@[simp] theorem State.setSlot_nextAge (s : State) (i : Nat) (t : Slot) : (s.setSlot i t).nextAge = s.nextAge := rfl

-- ==== modSlot ====

@[simp] theorem State.modSlot_now (s : State) (i : Nat) (f : Slot → Slot) : (s.modSlot i f).now = s.now := rfl
@[simp] theorem State.modSlot_tick (s : State) (i : Nat) (f : Slot → Slot) : (s.modSlot i f).tick = s.tick := rfl
@[simp] theorem State.modSlot_cur (s : State) (i : Nat) (f : Slot → Slot) : (s.modSlot i f).cur = s.cur := rfl
@[simp] theorem State.modSlot_snap (s : State) (i : Nat) (f : Slot → Slot) : (s.modSlot i f).snap = s.snap := rfl
@[simp] theorem State.modSlot_flow (s : State) (i : Nat) (f : Slot → Slot) : (s.modSlot i f).flow = s.flow := rfl
@[simp] theorem State.modSlot_issued (s : State) (i : Nat) (f : Slot → Slot) : (s.modSlot i f).issued = s.issued := rfl
@[simp] theorem State.modSlot_agenda (s : State) (i : Nat) (f : Slot → Slot) : (s.modSlot i f).agenda = s.agenda := rfl
@[simp] theorem State.modSlot_arg (s : State) (i : Nat) (f : Slot → Slot) : (s.modSlot i f).arg = s.arg := rfl
@[simp] theorem State.modSlot_mem (s : State) (i : Nat) (f : Slot → Slot) : (s.modSlot i f).mem = s.mem := rfl
@[simp] theorem State.modSlot_slots (s : State) (i : Nat) (f : Slot → Slot) : (s.modSlot i f).slots = s.slots.set i (f (s.slot i)) := rfl
@[simp] theorem State.modSlot_cores (s : State) (i : Nat) (f : Slot → Slot) : (s.modSlot i f).cores = s.cores := rfl
@[simp] theorem State.modSlot_clusters (s : State) (i : Nat) (f : Slot → Slot) : (s.modSlot i f).clusters = s.clusters := rfl
@[simp] theorem State.modSlot_quads (s : State) (i : Nat) (f : Slot → Slot) : (s.modSlot i f).quads = s.quads := rfl
@[simp] theorem State.modSlot_slices (s : State) (i : Nat) (f : Slot → Slot) : (s.modSlot i f).slices = s.slices := rfl
@[simp] theorem State.modSlot_copies (s : State) (i : Nat) (f : Slot → Slot) : (s.modSlot i f).copies = s.copies := rfl
@[simp] theorem State.modSlot_melts (s : State) (i : Nat) (f : Slot → Slot) : (s.modSlot i f).melts = s.melts := rfl
@[simp] theorem State.modSlot_partials (s : State) (i : Nat) (f : Slot → Slot) : (s.modSlot i f).partials = s.partials := rfl
@[simp] theorem State.modSlot_replicas (s : State) (i : Nat) (f : Slot → Slot) : (s.modSlot i f).replicas = s.replicas := rfl
@[simp] theorem State.modSlot_walks (s : State) (i : Nat) (f : Slot → Slot) : (s.modSlot i f).walks = s.walks := rfl
@[simp] theorem State.modSlot_torus (s : State) (i : Nat) (f : Slot → Slot) : (s.modSlot i f).torus = s.torus := rfl
@[simp] theorem State.modSlot_cmds (s : State) (i : Nat) (f : Slot → Slot) : (s.modSlot i f).cmds = s.cmds := rfl
@[simp] theorem State.modSlot_merged (s : State) (i : Nat) (f : Slot → Slot) : (s.modSlot i f).merged = s.merged := rfl
@[simp] theorem State.modSlot_spent (s : State) (i : Nat) (f : Slot → Slot) : (s.modSlot i f).spent = s.spent := rfl
@[simp] theorem State.modSlot_barriers (s : State) (i : Nat) (f : Slot → Slot) : (s.modSlot i f).barriers = s.barriers := rfl
@[simp] theorem State.modSlot_contexts (s : State) (i : Nat) (f : Slot → Slot) : (s.modSlot i f).contexts = s.contexts := rfl
@[simp] theorem State.modSlot_parts (s : State) (i : Nat) (f : Slot → Slot) : (s.modSlot i f).parts = s.parts := rfl
@[simp] theorem State.modSlot_plat (s : State) (i : Nat) (f : Slot → Slot) : (s.modSlot i f).plat = s.plat := rfl
@[simp] theorem State.modSlot_fab (s : State) (i : Nat) (f : Slot → Slot) : (s.modSlot i f).fab = s.fab := rfl
@[simp] theorem State.modSlot_drift (s : State) (i : Nat) (f : Slot → Slot) : (s.modSlot i f).drift = s.drift := rfl
@[simp] theorem State.modSlot_engine (s : State) (i : Nat) (f : Slot → Slot) : (s.modSlot i f).engine = s.engine := rfl
@[simp] theorem State.modSlot_calves (s : State) (i : Nat) (f : Slot → Slot) : (s.modSlot i f).calves = s.calves := rfl
@[simp] theorem State.modSlot_conts (s : State) (i : Nat) (f : Slot → Slot) : (s.modSlot i f).conts = s.conts := rfl
@[simp] theorem State.modSlot_host (s : State) (i : Nat) (f : Slot → Slot) : (s.modSlot i f).host = s.host := rfl
@[simp] theorem State.modSlot_owed (s : State) (i : Nat) (f : Slot → Slot) : (s.modSlot i f).owed = s.owed := rfl
@[simp] theorem State.modSlot_away (s : State) (i : Nat) (f : Slot → Slot) : (s.modSlot i f).away = s.away := rfl
@[simp] theorem State.modSlot_saved (s : State) (i : Nat) (f : Slot → Slot) : (s.modSlot i f).saved = s.saved := rfl
@[simp] theorem State.modSlot_poisons (s : State) (i : Nat) (f : Slot → Slot) : (s.modSlot i f).poisons = s.poisons := rfl
@[simp] theorem State.modSlot_badBytes (s : State) (i : Nat) (f : Slot → Slot) : (s.modSlot i f).badBytes = s.badBytes := rfl
@[simp] theorem State.modSlot_nextTag (s : State) (i : Nat) (f : Slot → Slot) : (s.modSlot i f).nextTag = s.nextTag := rfl
@[simp] theorem State.modSlot_nextCmd (s : State) (i : Nat) (f : Slot → Slot) : (s.modSlot i f).nextCmd = s.nextCmd := rfl
@[simp] theorem State.modSlot_nextAge (s : State) (i : Nat) (f : Slot → Slot) : (s.modSlot i f).nextAge = s.nextAge := rfl

-- ==== modMe ====

@[simp] theorem State.modMe_now (s : State) (f : Slot → Slot) : (s.modMe f).now = s.now := rfl
@[simp] theorem State.modMe_tick (s : State) (f : Slot → Slot) : (s.modMe f).tick = s.tick := rfl
@[simp] theorem State.modMe_cur (s : State) (f : Slot → Slot) : (s.modMe f).cur = s.cur := rfl
@[simp] theorem State.modMe_snap (s : State) (f : Slot → Slot) : (s.modMe f).snap = s.snap := rfl
@[simp] theorem State.modMe_flow (s : State) (f : Slot → Slot) : (s.modMe f).flow = s.flow := rfl
@[simp] theorem State.modMe_issued (s : State) (f : Slot → Slot) : (s.modMe f).issued = s.issued := rfl
@[simp] theorem State.modMe_agenda (s : State) (f : Slot → Slot) : (s.modMe f).agenda = s.agenda := rfl
@[simp] theorem State.modMe_arg (s : State) (f : Slot → Slot) : (s.modMe f).arg = s.arg := rfl
@[simp] theorem State.modMe_mem (s : State) (f : Slot → Slot) : (s.modMe f).mem = s.mem := rfl
@[simp] theorem State.modMe_slots (s : State) (f : Slot → Slot) : (s.modMe f).slots = s.slots.set s.cur (f s.me) := rfl
@[simp] theorem State.modMe_cores (s : State) (f : Slot → Slot) : (s.modMe f).cores = s.cores := rfl
@[simp] theorem State.modMe_clusters (s : State) (f : Slot → Slot) : (s.modMe f).clusters = s.clusters := rfl
@[simp] theorem State.modMe_quads (s : State) (f : Slot → Slot) : (s.modMe f).quads = s.quads := rfl
@[simp] theorem State.modMe_slices (s : State) (f : Slot → Slot) : (s.modMe f).slices = s.slices := rfl
@[simp] theorem State.modMe_copies (s : State) (f : Slot → Slot) : (s.modMe f).copies = s.copies := rfl
@[simp] theorem State.modMe_melts (s : State) (f : Slot → Slot) : (s.modMe f).melts = s.melts := rfl
@[simp] theorem State.modMe_partials (s : State) (f : Slot → Slot) : (s.modMe f).partials = s.partials := rfl
@[simp] theorem State.modMe_replicas (s : State) (f : Slot → Slot) : (s.modMe f).replicas = s.replicas := rfl
@[simp] theorem State.modMe_walks (s : State) (f : Slot → Slot) : (s.modMe f).walks = s.walks := rfl
@[simp] theorem State.modMe_torus (s : State) (f : Slot → Slot) : (s.modMe f).torus = s.torus := rfl
@[simp] theorem State.modMe_cmds (s : State) (f : Slot → Slot) : (s.modMe f).cmds = s.cmds := rfl
@[simp] theorem State.modMe_merged (s : State) (f : Slot → Slot) : (s.modMe f).merged = s.merged := rfl
@[simp] theorem State.modMe_spent (s : State) (f : Slot → Slot) : (s.modMe f).spent = s.spent := rfl
@[simp] theorem State.modMe_barriers (s : State) (f : Slot → Slot) : (s.modMe f).barriers = s.barriers := rfl
@[simp] theorem State.modMe_contexts (s : State) (f : Slot → Slot) : (s.modMe f).contexts = s.contexts := rfl
@[simp] theorem State.modMe_parts (s : State) (f : Slot → Slot) : (s.modMe f).parts = s.parts := rfl
@[simp] theorem State.modMe_plat (s : State) (f : Slot → Slot) : (s.modMe f).plat = s.plat := rfl
@[simp] theorem State.modMe_fab (s : State) (f : Slot → Slot) : (s.modMe f).fab = s.fab := rfl
@[simp] theorem State.modMe_drift (s : State) (f : Slot → Slot) : (s.modMe f).drift = s.drift := rfl
@[simp] theorem State.modMe_engine (s : State) (f : Slot → Slot) : (s.modMe f).engine = s.engine := rfl
@[simp] theorem State.modMe_calves (s : State) (f : Slot → Slot) : (s.modMe f).calves = s.calves := rfl
@[simp] theorem State.modMe_conts (s : State) (f : Slot → Slot) : (s.modMe f).conts = s.conts := rfl
@[simp] theorem State.modMe_host (s : State) (f : Slot → Slot) : (s.modMe f).host = s.host := rfl
@[simp] theorem State.modMe_owed (s : State) (f : Slot → Slot) : (s.modMe f).owed = s.owed := rfl
@[simp] theorem State.modMe_away (s : State) (f : Slot → Slot) : (s.modMe f).away = s.away := rfl
@[simp] theorem State.modMe_saved (s : State) (f : Slot → Slot) : (s.modMe f).saved = s.saved := rfl
@[simp] theorem State.modMe_poisons (s : State) (f : Slot → Slot) : (s.modMe f).poisons = s.poisons := rfl
@[simp] theorem State.modMe_badBytes (s : State) (f : Slot → Slot) : (s.modMe f).badBytes = s.badBytes := rfl
@[simp] theorem State.modMe_nextTag (s : State) (f : Slot → Slot) : (s.modMe f).nextTag = s.nextTag := rfl
@[simp] theorem State.modMe_nextCmd (s : State) (f : Slot → Slot) : (s.modMe f).nextCmd = s.nextCmd := rfl
@[simp] theorem State.modMe_nextAge (s : State) (f : Slot → Slot) : (s.modMe f).nextAge = s.nextAge := rfl

-- ==== modCore ====

@[simp] theorem State.modCore_now (s : State) (c : Nat) (f : Core → Core) : (s.modCore c f).now = s.now := rfl
@[simp] theorem State.modCore_tick (s : State) (c : Nat) (f : Core → Core) : (s.modCore c f).tick = s.tick := rfl
@[simp] theorem State.modCore_cur (s : State) (c : Nat) (f : Core → Core) : (s.modCore c f).cur = s.cur := rfl
@[simp] theorem State.modCore_snap (s : State) (c : Nat) (f : Core → Core) : (s.modCore c f).snap = s.snap := rfl
@[simp] theorem State.modCore_flow (s : State) (c : Nat) (f : Core → Core) : (s.modCore c f).flow = s.flow := rfl
@[simp] theorem State.modCore_issued (s : State) (c : Nat) (f : Core → Core) : (s.modCore c f).issued = s.issued := rfl
@[simp] theorem State.modCore_agenda (s : State) (c : Nat) (f : Core → Core) : (s.modCore c f).agenda = s.agenda := rfl
@[simp] theorem State.modCore_arg (s : State) (c : Nat) (f : Core → Core) : (s.modCore c f).arg = s.arg := rfl
@[simp] theorem State.modCore_mem (s : State) (c : Nat) (f : Core → Core) : (s.modCore c f).mem = s.mem := rfl
@[simp] theorem State.modCore_slots (s : State) (c : Nat) (f : Core → Core) : (s.modCore c f).slots = s.slots := rfl
@[simp] theorem State.modCore_cores (s : State) (c : Nat) (f : Core → Core) : (s.modCore c f).cores = s.cores.set c (f (s.core c)) := rfl
@[simp] theorem State.modCore_clusters (s : State) (c : Nat) (f : Core → Core) : (s.modCore c f).clusters = s.clusters := rfl
@[simp] theorem State.modCore_quads (s : State) (c : Nat) (f : Core → Core) : (s.modCore c f).quads = s.quads := rfl
@[simp] theorem State.modCore_slices (s : State) (c : Nat) (f : Core → Core) : (s.modCore c f).slices = s.slices := rfl
@[simp] theorem State.modCore_copies (s : State) (c : Nat) (f : Core → Core) : (s.modCore c f).copies = s.copies := rfl
@[simp] theorem State.modCore_melts (s : State) (c : Nat) (f : Core → Core) : (s.modCore c f).melts = s.melts := rfl
@[simp] theorem State.modCore_partials (s : State) (c : Nat) (f : Core → Core) : (s.modCore c f).partials = s.partials := rfl
@[simp] theorem State.modCore_replicas (s : State) (c : Nat) (f : Core → Core) : (s.modCore c f).replicas = s.replicas := rfl
@[simp] theorem State.modCore_walks (s : State) (c : Nat) (f : Core → Core) : (s.modCore c f).walks = s.walks := rfl
@[simp] theorem State.modCore_torus (s : State) (c : Nat) (f : Core → Core) : (s.modCore c f).torus = s.torus := rfl
@[simp] theorem State.modCore_cmds (s : State) (c : Nat) (f : Core → Core) : (s.modCore c f).cmds = s.cmds := rfl
@[simp] theorem State.modCore_merged (s : State) (c : Nat) (f : Core → Core) : (s.modCore c f).merged = s.merged := rfl
@[simp] theorem State.modCore_spent (s : State) (c : Nat) (f : Core → Core) : (s.modCore c f).spent = s.spent := rfl
@[simp] theorem State.modCore_barriers (s : State) (c : Nat) (f : Core → Core) : (s.modCore c f).barriers = s.barriers := rfl
@[simp] theorem State.modCore_contexts (s : State) (c : Nat) (f : Core → Core) : (s.modCore c f).contexts = s.contexts := rfl
@[simp] theorem State.modCore_parts (s : State) (c : Nat) (f : Core → Core) : (s.modCore c f).parts = s.parts := rfl
@[simp] theorem State.modCore_plat (s : State) (c : Nat) (f : Core → Core) : (s.modCore c f).plat = s.plat := rfl
@[simp] theorem State.modCore_fab (s : State) (c : Nat) (f : Core → Core) : (s.modCore c f).fab = s.fab := rfl
@[simp] theorem State.modCore_drift (s : State) (c : Nat) (f : Core → Core) : (s.modCore c f).drift = s.drift := rfl
@[simp] theorem State.modCore_engine (s : State) (c : Nat) (f : Core → Core) : (s.modCore c f).engine = s.engine := rfl
@[simp] theorem State.modCore_calves (s : State) (c : Nat) (f : Core → Core) : (s.modCore c f).calves = s.calves := rfl
@[simp] theorem State.modCore_conts (s : State) (c : Nat) (f : Core → Core) : (s.modCore c f).conts = s.conts := rfl
@[simp] theorem State.modCore_host (s : State) (c : Nat) (f : Core → Core) : (s.modCore c f).host = s.host := rfl
@[simp] theorem State.modCore_owed (s : State) (c : Nat) (f : Core → Core) : (s.modCore c f).owed = s.owed := rfl
@[simp] theorem State.modCore_away (s : State) (c : Nat) (f : Core → Core) : (s.modCore c f).away = s.away := rfl
@[simp] theorem State.modCore_saved (s : State) (c : Nat) (f : Core → Core) : (s.modCore c f).saved = s.saved := rfl
@[simp] theorem State.modCore_poisons (s : State) (c : Nat) (f : Core → Core) : (s.modCore c f).poisons = s.poisons := rfl
@[simp] theorem State.modCore_badBytes (s : State) (c : Nat) (f : Core → Core) : (s.modCore c f).badBytes = s.badBytes := rfl
@[simp] theorem State.modCore_nextTag (s : State) (c : Nat) (f : Core → Core) : (s.modCore c f).nextTag = s.nextTag := rfl
@[simp] theorem State.modCore_nextCmd (s : State) (c : Nat) (f : Core → Core) : (s.modCore c f).nextCmd = s.nextCmd := rfl
@[simp] theorem State.modCore_nextAge (s : State) (c : Nat) (f : Core → Core) : (s.modCore c f).nextAge = s.nextAge := rfl

-- ==== modCluster ====

@[simp] theorem State.modCluster_now (s : State) (c : Nat) (f : Cluster → Cluster) : (s.modCluster c f).now = s.now := rfl
@[simp] theorem State.modCluster_tick (s : State) (c : Nat) (f : Cluster → Cluster) : (s.modCluster c f).tick = s.tick := rfl
@[simp] theorem State.modCluster_cur (s : State) (c : Nat) (f : Cluster → Cluster) : (s.modCluster c f).cur = s.cur := rfl
@[simp] theorem State.modCluster_snap (s : State) (c : Nat) (f : Cluster → Cluster) : (s.modCluster c f).snap = s.snap := rfl
@[simp] theorem State.modCluster_flow (s : State) (c : Nat) (f : Cluster → Cluster) : (s.modCluster c f).flow = s.flow := rfl
@[simp] theorem State.modCluster_issued (s : State) (c : Nat) (f : Cluster → Cluster) : (s.modCluster c f).issued = s.issued := rfl
@[simp] theorem State.modCluster_agenda (s : State) (c : Nat) (f : Cluster → Cluster) : (s.modCluster c f).agenda = s.agenda := rfl
@[simp] theorem State.modCluster_arg (s : State) (c : Nat) (f : Cluster → Cluster) : (s.modCluster c f).arg = s.arg := rfl
@[simp] theorem State.modCluster_mem (s : State) (c : Nat) (f : Cluster → Cluster) : (s.modCluster c f).mem = s.mem := rfl
@[simp] theorem State.modCluster_slots (s : State) (c : Nat) (f : Cluster → Cluster) : (s.modCluster c f).slots = s.slots := rfl
@[simp] theorem State.modCluster_cores (s : State) (c : Nat) (f : Cluster → Cluster) : (s.modCluster c f).cores = s.cores := rfl
@[simp] theorem State.modCluster_clusters (s : State) (c : Nat) (f : Cluster → Cluster) : (s.modCluster c f).clusters = s.clusters.set c (f (s.cluster c)) := rfl
@[simp] theorem State.modCluster_quads (s : State) (c : Nat) (f : Cluster → Cluster) : (s.modCluster c f).quads = s.quads := rfl
@[simp] theorem State.modCluster_slices (s : State) (c : Nat) (f : Cluster → Cluster) : (s.modCluster c f).slices = s.slices := rfl
@[simp] theorem State.modCluster_copies (s : State) (c : Nat) (f : Cluster → Cluster) : (s.modCluster c f).copies = s.copies := rfl
@[simp] theorem State.modCluster_melts (s : State) (c : Nat) (f : Cluster → Cluster) : (s.modCluster c f).melts = s.melts := rfl
@[simp] theorem State.modCluster_partials (s : State) (c : Nat) (f : Cluster → Cluster) : (s.modCluster c f).partials = s.partials := rfl
@[simp] theorem State.modCluster_replicas (s : State) (c : Nat) (f : Cluster → Cluster) : (s.modCluster c f).replicas = s.replicas := rfl
@[simp] theorem State.modCluster_walks (s : State) (c : Nat) (f : Cluster → Cluster) : (s.modCluster c f).walks = s.walks := rfl
@[simp] theorem State.modCluster_torus (s : State) (c : Nat) (f : Cluster → Cluster) : (s.modCluster c f).torus = s.torus := rfl
@[simp] theorem State.modCluster_cmds (s : State) (c : Nat) (f : Cluster → Cluster) : (s.modCluster c f).cmds = s.cmds := rfl
@[simp] theorem State.modCluster_merged (s : State) (c : Nat) (f : Cluster → Cluster) : (s.modCluster c f).merged = s.merged := rfl
@[simp] theorem State.modCluster_spent (s : State) (c : Nat) (f : Cluster → Cluster) : (s.modCluster c f).spent = s.spent := rfl
@[simp] theorem State.modCluster_barriers (s : State) (c : Nat) (f : Cluster → Cluster) : (s.modCluster c f).barriers = s.barriers := rfl
@[simp] theorem State.modCluster_contexts (s : State) (c : Nat) (f : Cluster → Cluster) : (s.modCluster c f).contexts = s.contexts := rfl
@[simp] theorem State.modCluster_parts (s : State) (c : Nat) (f : Cluster → Cluster) : (s.modCluster c f).parts = s.parts := rfl
@[simp] theorem State.modCluster_plat (s : State) (c : Nat) (f : Cluster → Cluster) : (s.modCluster c f).plat = s.plat := rfl
@[simp] theorem State.modCluster_fab (s : State) (c : Nat) (f : Cluster → Cluster) : (s.modCluster c f).fab = s.fab := rfl
@[simp] theorem State.modCluster_drift (s : State) (c : Nat) (f : Cluster → Cluster) : (s.modCluster c f).drift = s.drift := rfl
@[simp] theorem State.modCluster_engine (s : State) (c : Nat) (f : Cluster → Cluster) : (s.modCluster c f).engine = s.engine := rfl
@[simp] theorem State.modCluster_calves (s : State) (c : Nat) (f : Cluster → Cluster) : (s.modCluster c f).calves = s.calves := rfl
@[simp] theorem State.modCluster_conts (s : State) (c : Nat) (f : Cluster → Cluster) : (s.modCluster c f).conts = s.conts := rfl
@[simp] theorem State.modCluster_host (s : State) (c : Nat) (f : Cluster → Cluster) : (s.modCluster c f).host = s.host := rfl
@[simp] theorem State.modCluster_owed (s : State) (c : Nat) (f : Cluster → Cluster) : (s.modCluster c f).owed = s.owed := rfl
@[simp] theorem State.modCluster_away (s : State) (c : Nat) (f : Cluster → Cluster) : (s.modCluster c f).away = s.away := rfl
@[simp] theorem State.modCluster_saved (s : State) (c : Nat) (f : Cluster → Cluster) : (s.modCluster c f).saved = s.saved := rfl
@[simp] theorem State.modCluster_poisons (s : State) (c : Nat) (f : Cluster → Cluster) : (s.modCluster c f).poisons = s.poisons := rfl
@[simp] theorem State.modCluster_badBytes (s : State) (c : Nat) (f : Cluster → Cluster) : (s.modCluster c f).badBytes = s.badBytes := rfl
@[simp] theorem State.modCluster_nextTag (s : State) (c : Nat) (f : Cluster → Cluster) : (s.modCluster c f).nextTag = s.nextTag := rfl
@[simp] theorem State.modCluster_nextCmd (s : State) (c : Nat) (f : Cluster → Cluster) : (s.modCluster c f).nextCmd = s.nextCmd := rfl
@[simp] theorem State.modCluster_nextAge (s : State) (c : Nat) (f : Cluster → Cluster) : (s.modCluster c f).nextAge = s.nextAge := rfl

-- ==== modQuad ====

@[simp] theorem State.modQuad_now (s : State) (c : Nat) (f : Quad → Quad) : (s.modQuad c f).now = s.now := rfl
@[simp] theorem State.modQuad_tick (s : State) (c : Nat) (f : Quad → Quad) : (s.modQuad c f).tick = s.tick := rfl
@[simp] theorem State.modQuad_cur (s : State) (c : Nat) (f : Quad → Quad) : (s.modQuad c f).cur = s.cur := rfl
@[simp] theorem State.modQuad_snap (s : State) (c : Nat) (f : Quad → Quad) : (s.modQuad c f).snap = s.snap := rfl
@[simp] theorem State.modQuad_flow (s : State) (c : Nat) (f : Quad → Quad) : (s.modQuad c f).flow = s.flow := rfl
@[simp] theorem State.modQuad_issued (s : State) (c : Nat) (f : Quad → Quad) : (s.modQuad c f).issued = s.issued := rfl
@[simp] theorem State.modQuad_agenda (s : State) (c : Nat) (f : Quad → Quad) : (s.modQuad c f).agenda = s.agenda := rfl
@[simp] theorem State.modQuad_arg (s : State) (c : Nat) (f : Quad → Quad) : (s.modQuad c f).arg = s.arg := rfl
@[simp] theorem State.modQuad_mem (s : State) (c : Nat) (f : Quad → Quad) : (s.modQuad c f).mem = s.mem := rfl
@[simp] theorem State.modQuad_slots (s : State) (c : Nat) (f : Quad → Quad) : (s.modQuad c f).slots = s.slots := rfl
@[simp] theorem State.modQuad_cores (s : State) (c : Nat) (f : Quad → Quad) : (s.modQuad c f).cores = s.cores := rfl
@[simp] theorem State.modQuad_clusters (s : State) (c : Nat) (f : Quad → Quad) : (s.modQuad c f).clusters = s.clusters := rfl
@[simp] theorem State.modQuad_quads (s : State) (c : Nat) (f : Quad → Quad) : (s.modQuad c f).quads = s.quads.set c (f (s.quad c)) := rfl
@[simp] theorem State.modQuad_slices (s : State) (c : Nat) (f : Quad → Quad) : (s.modQuad c f).slices = s.slices := rfl
@[simp] theorem State.modQuad_copies (s : State) (c : Nat) (f : Quad → Quad) : (s.modQuad c f).copies = s.copies := rfl
@[simp] theorem State.modQuad_melts (s : State) (c : Nat) (f : Quad → Quad) : (s.modQuad c f).melts = s.melts := rfl
@[simp] theorem State.modQuad_partials (s : State) (c : Nat) (f : Quad → Quad) : (s.modQuad c f).partials = s.partials := rfl
@[simp] theorem State.modQuad_replicas (s : State) (c : Nat) (f : Quad → Quad) : (s.modQuad c f).replicas = s.replicas := rfl
@[simp] theorem State.modQuad_walks (s : State) (c : Nat) (f : Quad → Quad) : (s.modQuad c f).walks = s.walks := rfl
@[simp] theorem State.modQuad_torus (s : State) (c : Nat) (f : Quad → Quad) : (s.modQuad c f).torus = s.torus := rfl
@[simp] theorem State.modQuad_cmds (s : State) (c : Nat) (f : Quad → Quad) : (s.modQuad c f).cmds = s.cmds := rfl
@[simp] theorem State.modQuad_merged (s : State) (c : Nat) (f : Quad → Quad) : (s.modQuad c f).merged = s.merged := rfl
@[simp] theorem State.modQuad_spent (s : State) (c : Nat) (f : Quad → Quad) : (s.modQuad c f).spent = s.spent := rfl
@[simp] theorem State.modQuad_barriers (s : State) (c : Nat) (f : Quad → Quad) : (s.modQuad c f).barriers = s.barriers := rfl
@[simp] theorem State.modQuad_contexts (s : State) (c : Nat) (f : Quad → Quad) : (s.modQuad c f).contexts = s.contexts := rfl
@[simp] theorem State.modQuad_parts (s : State) (c : Nat) (f : Quad → Quad) : (s.modQuad c f).parts = s.parts := rfl
@[simp] theorem State.modQuad_plat (s : State) (c : Nat) (f : Quad → Quad) : (s.modQuad c f).plat = s.plat := rfl
@[simp] theorem State.modQuad_fab (s : State) (c : Nat) (f : Quad → Quad) : (s.modQuad c f).fab = s.fab := rfl
@[simp] theorem State.modQuad_drift (s : State) (c : Nat) (f : Quad → Quad) : (s.modQuad c f).drift = s.drift := rfl
@[simp] theorem State.modQuad_engine (s : State) (c : Nat) (f : Quad → Quad) : (s.modQuad c f).engine = s.engine := rfl
@[simp] theorem State.modQuad_calves (s : State) (c : Nat) (f : Quad → Quad) : (s.modQuad c f).calves = s.calves := rfl
@[simp] theorem State.modQuad_conts (s : State) (c : Nat) (f : Quad → Quad) : (s.modQuad c f).conts = s.conts := rfl
@[simp] theorem State.modQuad_host (s : State) (c : Nat) (f : Quad → Quad) : (s.modQuad c f).host = s.host := rfl
@[simp] theorem State.modQuad_owed (s : State) (c : Nat) (f : Quad → Quad) : (s.modQuad c f).owed = s.owed := rfl
@[simp] theorem State.modQuad_away (s : State) (c : Nat) (f : Quad → Quad) : (s.modQuad c f).away = s.away := rfl
@[simp] theorem State.modQuad_saved (s : State) (c : Nat) (f : Quad → Quad) : (s.modQuad c f).saved = s.saved := rfl
@[simp] theorem State.modQuad_poisons (s : State) (c : Nat) (f : Quad → Quad) : (s.modQuad c f).poisons = s.poisons := rfl
@[simp] theorem State.modQuad_badBytes (s : State) (c : Nat) (f : Quad → Quad) : (s.modQuad c f).badBytes = s.badBytes := rfl
@[simp] theorem State.modQuad_nextTag (s : State) (c : Nat) (f : Quad → Quad) : (s.modQuad c f).nextTag = s.nextTag := rfl
@[simp] theorem State.modQuad_nextCmd (s : State) (c : Nat) (f : Quad → Quad) : (s.modQuad c f).nextCmd = s.nextCmd := rfl
@[simp] theorem State.modQuad_nextAge (s : State) (c : Nat) (f : Quad → Quad) : (s.modQuad c f).nextAge = s.nextAge := rfl

-- ==== modSlice ====

@[simp] theorem State.modSlice_now (s : State) (c : Nat) (f : Slice → Slice) : (s.modSlice c f).now = s.now := rfl
@[simp] theorem State.modSlice_tick (s : State) (c : Nat) (f : Slice → Slice) : (s.modSlice c f).tick = s.tick := rfl
@[simp] theorem State.modSlice_cur (s : State) (c : Nat) (f : Slice → Slice) : (s.modSlice c f).cur = s.cur := rfl
@[simp] theorem State.modSlice_snap (s : State) (c : Nat) (f : Slice → Slice) : (s.modSlice c f).snap = s.snap := rfl
@[simp] theorem State.modSlice_flow (s : State) (c : Nat) (f : Slice → Slice) : (s.modSlice c f).flow = s.flow := rfl
@[simp] theorem State.modSlice_issued (s : State) (c : Nat) (f : Slice → Slice) : (s.modSlice c f).issued = s.issued := rfl
@[simp] theorem State.modSlice_agenda (s : State) (c : Nat) (f : Slice → Slice) : (s.modSlice c f).agenda = s.agenda := rfl
@[simp] theorem State.modSlice_arg (s : State) (c : Nat) (f : Slice → Slice) : (s.modSlice c f).arg = s.arg := rfl
@[simp] theorem State.modSlice_mem (s : State) (c : Nat) (f : Slice → Slice) : (s.modSlice c f).mem = s.mem := rfl
@[simp] theorem State.modSlice_slots (s : State) (c : Nat) (f : Slice → Slice) : (s.modSlice c f).slots = s.slots := rfl
@[simp] theorem State.modSlice_cores (s : State) (c : Nat) (f : Slice → Slice) : (s.modSlice c f).cores = s.cores := rfl
@[simp] theorem State.modSlice_clusters (s : State) (c : Nat) (f : Slice → Slice) : (s.modSlice c f).clusters = s.clusters := rfl
@[simp] theorem State.modSlice_quads (s : State) (c : Nat) (f : Slice → Slice) : (s.modSlice c f).quads = s.quads := rfl
@[simp] theorem State.modSlice_slices (s : State) (c : Nat) (f : Slice → Slice) : (s.modSlice c f).slices = s.slices.set c (f (s.slice c)) := rfl
@[simp] theorem State.modSlice_copies (s : State) (c : Nat) (f : Slice → Slice) : (s.modSlice c f).copies = s.copies := rfl
@[simp] theorem State.modSlice_melts (s : State) (c : Nat) (f : Slice → Slice) : (s.modSlice c f).melts = s.melts := rfl
@[simp] theorem State.modSlice_partials (s : State) (c : Nat) (f : Slice → Slice) : (s.modSlice c f).partials = s.partials := rfl
@[simp] theorem State.modSlice_replicas (s : State) (c : Nat) (f : Slice → Slice) : (s.modSlice c f).replicas = s.replicas := rfl
@[simp] theorem State.modSlice_walks (s : State) (c : Nat) (f : Slice → Slice) : (s.modSlice c f).walks = s.walks := rfl
@[simp] theorem State.modSlice_torus (s : State) (c : Nat) (f : Slice → Slice) : (s.modSlice c f).torus = s.torus := rfl
@[simp] theorem State.modSlice_cmds (s : State) (c : Nat) (f : Slice → Slice) : (s.modSlice c f).cmds = s.cmds := rfl
@[simp] theorem State.modSlice_merged (s : State) (c : Nat) (f : Slice → Slice) : (s.modSlice c f).merged = s.merged := rfl
@[simp] theorem State.modSlice_spent (s : State) (c : Nat) (f : Slice → Slice) : (s.modSlice c f).spent = s.spent := rfl
@[simp] theorem State.modSlice_barriers (s : State) (c : Nat) (f : Slice → Slice) : (s.modSlice c f).barriers = s.barriers := rfl
@[simp] theorem State.modSlice_contexts (s : State) (c : Nat) (f : Slice → Slice) : (s.modSlice c f).contexts = s.contexts := rfl
@[simp] theorem State.modSlice_parts (s : State) (c : Nat) (f : Slice → Slice) : (s.modSlice c f).parts = s.parts := rfl
@[simp] theorem State.modSlice_plat (s : State) (c : Nat) (f : Slice → Slice) : (s.modSlice c f).plat = s.plat := rfl
@[simp] theorem State.modSlice_fab (s : State) (c : Nat) (f : Slice → Slice) : (s.modSlice c f).fab = s.fab := rfl
@[simp] theorem State.modSlice_drift (s : State) (c : Nat) (f : Slice → Slice) : (s.modSlice c f).drift = s.drift := rfl
@[simp] theorem State.modSlice_engine (s : State) (c : Nat) (f : Slice → Slice) : (s.modSlice c f).engine = s.engine := rfl
@[simp] theorem State.modSlice_calves (s : State) (c : Nat) (f : Slice → Slice) : (s.modSlice c f).calves = s.calves := rfl
@[simp] theorem State.modSlice_conts (s : State) (c : Nat) (f : Slice → Slice) : (s.modSlice c f).conts = s.conts := rfl
@[simp] theorem State.modSlice_host (s : State) (c : Nat) (f : Slice → Slice) : (s.modSlice c f).host = s.host := rfl
@[simp] theorem State.modSlice_owed (s : State) (c : Nat) (f : Slice → Slice) : (s.modSlice c f).owed = s.owed := rfl
@[simp] theorem State.modSlice_away (s : State) (c : Nat) (f : Slice → Slice) : (s.modSlice c f).away = s.away := rfl
@[simp] theorem State.modSlice_saved (s : State) (c : Nat) (f : Slice → Slice) : (s.modSlice c f).saved = s.saved := rfl
@[simp] theorem State.modSlice_poisons (s : State) (c : Nat) (f : Slice → Slice) : (s.modSlice c f).poisons = s.poisons := rfl
@[simp] theorem State.modSlice_badBytes (s : State) (c : Nat) (f : Slice → Slice) : (s.modSlice c f).badBytes = s.badBytes := rfl
@[simp] theorem State.modSlice_nextTag (s : State) (c : Nat) (f : Slice → Slice) : (s.modSlice c f).nextTag = s.nextTag := rfl
@[simp] theorem State.modSlice_nextCmd (s : State) (c : Nat) (f : Slice → Slice) : (s.modSlice c f).nextCmd = s.nextCmd := rfl
@[simp] theorem State.modSlice_nextAge (s : State) (c : Nat) (f : Slice → Slice) : (s.modSlice c f).nextAge = s.nextAge := rfl

-- ==== modContext ====

@[simp] theorem State.modContext_now (s : State) (c : Nat) (f : Context → Context) : (s.modContext c f).now = s.now := rfl
@[simp] theorem State.modContext_tick (s : State) (c : Nat) (f : Context → Context) : (s.modContext c f).tick = s.tick := rfl
@[simp] theorem State.modContext_cur (s : State) (c : Nat) (f : Context → Context) : (s.modContext c f).cur = s.cur := rfl
@[simp] theorem State.modContext_snap (s : State) (c : Nat) (f : Context → Context) : (s.modContext c f).snap = s.snap := rfl
@[simp] theorem State.modContext_flow (s : State) (c : Nat) (f : Context → Context) : (s.modContext c f).flow = s.flow := rfl
@[simp] theorem State.modContext_issued (s : State) (c : Nat) (f : Context → Context) : (s.modContext c f).issued = s.issued := rfl
@[simp] theorem State.modContext_agenda (s : State) (c : Nat) (f : Context → Context) : (s.modContext c f).agenda = s.agenda := rfl
@[simp] theorem State.modContext_arg (s : State) (c : Nat) (f : Context → Context) : (s.modContext c f).arg = s.arg := rfl
@[simp] theorem State.modContext_mem (s : State) (c : Nat) (f : Context → Context) : (s.modContext c f).mem = s.mem := rfl
@[simp] theorem State.modContext_slots (s : State) (c : Nat) (f : Context → Context) : (s.modContext c f).slots = s.slots := rfl
@[simp] theorem State.modContext_cores (s : State) (c : Nat) (f : Context → Context) : (s.modContext c f).cores = s.cores := rfl
@[simp] theorem State.modContext_clusters (s : State) (c : Nat) (f : Context → Context) : (s.modContext c f).clusters = s.clusters := rfl
@[simp] theorem State.modContext_quads (s : State) (c : Nat) (f : Context → Context) : (s.modContext c f).quads = s.quads := rfl
@[simp] theorem State.modContext_slices (s : State) (c : Nat) (f : Context → Context) : (s.modContext c f).slices = s.slices := rfl
@[simp] theorem State.modContext_copies (s : State) (c : Nat) (f : Context → Context) : (s.modContext c f).copies = s.copies := rfl
@[simp] theorem State.modContext_melts (s : State) (c : Nat) (f : Context → Context) : (s.modContext c f).melts = s.melts := rfl
@[simp] theorem State.modContext_partials (s : State) (c : Nat) (f : Context → Context) : (s.modContext c f).partials = s.partials := rfl
@[simp] theorem State.modContext_replicas (s : State) (c : Nat) (f : Context → Context) : (s.modContext c f).replicas = s.replicas := rfl
@[simp] theorem State.modContext_walks (s : State) (c : Nat) (f : Context → Context) : (s.modContext c f).walks = s.walks := rfl
@[simp] theorem State.modContext_torus (s : State) (c : Nat) (f : Context → Context) : (s.modContext c f).torus = s.torus := rfl
@[simp] theorem State.modContext_cmds (s : State) (c : Nat) (f : Context → Context) : (s.modContext c f).cmds = s.cmds := rfl
@[simp] theorem State.modContext_merged (s : State) (c : Nat) (f : Context → Context) : (s.modContext c f).merged = s.merged := rfl
@[simp] theorem State.modContext_spent (s : State) (c : Nat) (f : Context → Context) : (s.modContext c f).spent = s.spent := rfl
@[simp] theorem State.modContext_barriers (s : State) (c : Nat) (f : Context → Context) : (s.modContext c f).barriers = s.barriers := rfl
@[simp] theorem State.modContext_contexts (s : State) (c : Nat) (f : Context → Context) : (s.modContext c f).contexts = s.contexts.set c (f (s.context c)) := rfl
@[simp] theorem State.modContext_parts (s : State) (c : Nat) (f : Context → Context) : (s.modContext c f).parts = s.parts := rfl
@[simp] theorem State.modContext_plat (s : State) (c : Nat) (f : Context → Context) : (s.modContext c f).plat = s.plat := rfl
@[simp] theorem State.modContext_fab (s : State) (c : Nat) (f : Context → Context) : (s.modContext c f).fab = s.fab := rfl
@[simp] theorem State.modContext_drift (s : State) (c : Nat) (f : Context → Context) : (s.modContext c f).drift = s.drift := rfl
@[simp] theorem State.modContext_engine (s : State) (c : Nat) (f : Context → Context) : (s.modContext c f).engine = s.engine := rfl
@[simp] theorem State.modContext_calves (s : State) (c : Nat) (f : Context → Context) : (s.modContext c f).calves = s.calves := rfl
@[simp] theorem State.modContext_conts (s : State) (c : Nat) (f : Context → Context) : (s.modContext c f).conts = s.conts := rfl
@[simp] theorem State.modContext_host (s : State) (c : Nat) (f : Context → Context) : (s.modContext c f).host = s.host := rfl
@[simp] theorem State.modContext_owed (s : State) (c : Nat) (f : Context → Context) : (s.modContext c f).owed = s.owed := rfl
@[simp] theorem State.modContext_away (s : State) (c : Nat) (f : Context → Context) : (s.modContext c f).away = s.away := rfl
@[simp] theorem State.modContext_saved (s : State) (c : Nat) (f : Context → Context) : (s.modContext c f).saved = s.saved := rfl
@[simp] theorem State.modContext_poisons (s : State) (c : Nat) (f : Context → Context) : (s.modContext c f).poisons = s.poisons := rfl
@[simp] theorem State.modContext_badBytes (s : State) (c : Nat) (f : Context → Context) : (s.modContext c f).badBytes = s.badBytes := rfl
@[simp] theorem State.modContext_nextTag (s : State) (c : Nat) (f : Context → Context) : (s.modContext c f).nextTag = s.nextTag := rfl
@[simp] theorem State.modContext_nextCmd (s : State) (c : Nat) (f : Context → Context) : (s.modContext c f).nextCmd = s.nextCmd := rfl
@[simp] theorem State.modContext_nextAge (s : State) (c : Nat) (f : Context → Context) : (s.modContext c f).nextAge = s.nextAge := rfl

-- ==== modPart ====

@[simp] theorem State.modPart_now (s : State) (c : Nat) (f : Partition → Partition) : (s.modPart c f).now = s.now := rfl
@[simp] theorem State.modPart_tick (s : State) (c : Nat) (f : Partition → Partition) : (s.modPart c f).tick = s.tick := rfl
@[simp] theorem State.modPart_cur (s : State) (c : Nat) (f : Partition → Partition) : (s.modPart c f).cur = s.cur := rfl
@[simp] theorem State.modPart_snap (s : State) (c : Nat) (f : Partition → Partition) : (s.modPart c f).snap = s.snap := rfl
@[simp] theorem State.modPart_flow (s : State) (c : Nat) (f : Partition → Partition) : (s.modPart c f).flow = s.flow := rfl
@[simp] theorem State.modPart_issued (s : State) (c : Nat) (f : Partition → Partition) : (s.modPart c f).issued = s.issued := rfl
@[simp] theorem State.modPart_agenda (s : State) (c : Nat) (f : Partition → Partition) : (s.modPart c f).agenda = s.agenda := rfl
@[simp] theorem State.modPart_arg (s : State) (c : Nat) (f : Partition → Partition) : (s.modPart c f).arg = s.arg := rfl
@[simp] theorem State.modPart_mem (s : State) (c : Nat) (f : Partition → Partition) : (s.modPart c f).mem = s.mem := rfl
@[simp] theorem State.modPart_slots (s : State) (c : Nat) (f : Partition → Partition) : (s.modPart c f).slots = s.slots := rfl
@[simp] theorem State.modPart_cores (s : State) (c : Nat) (f : Partition → Partition) : (s.modPart c f).cores = s.cores := rfl
@[simp] theorem State.modPart_clusters (s : State) (c : Nat) (f : Partition → Partition) : (s.modPart c f).clusters = s.clusters := rfl
@[simp] theorem State.modPart_quads (s : State) (c : Nat) (f : Partition → Partition) : (s.modPart c f).quads = s.quads := rfl
@[simp] theorem State.modPart_slices (s : State) (c : Nat) (f : Partition → Partition) : (s.modPart c f).slices = s.slices := rfl
@[simp] theorem State.modPart_copies (s : State) (c : Nat) (f : Partition → Partition) : (s.modPart c f).copies = s.copies := rfl
@[simp] theorem State.modPart_melts (s : State) (c : Nat) (f : Partition → Partition) : (s.modPart c f).melts = s.melts := rfl
@[simp] theorem State.modPart_partials (s : State) (c : Nat) (f : Partition → Partition) : (s.modPart c f).partials = s.partials := rfl
@[simp] theorem State.modPart_replicas (s : State) (c : Nat) (f : Partition → Partition) : (s.modPart c f).replicas = s.replicas := rfl
@[simp] theorem State.modPart_walks (s : State) (c : Nat) (f : Partition → Partition) : (s.modPart c f).walks = s.walks := rfl
@[simp] theorem State.modPart_torus (s : State) (c : Nat) (f : Partition → Partition) : (s.modPart c f).torus = s.torus := rfl
@[simp] theorem State.modPart_cmds (s : State) (c : Nat) (f : Partition → Partition) : (s.modPart c f).cmds = s.cmds := rfl
@[simp] theorem State.modPart_merged (s : State) (c : Nat) (f : Partition → Partition) : (s.modPart c f).merged = s.merged := rfl
@[simp] theorem State.modPart_spent (s : State) (c : Nat) (f : Partition → Partition) : (s.modPart c f).spent = s.spent := rfl
@[simp] theorem State.modPart_barriers (s : State) (c : Nat) (f : Partition → Partition) : (s.modPart c f).barriers = s.barriers := rfl
@[simp] theorem State.modPart_contexts (s : State) (c : Nat) (f : Partition → Partition) : (s.modPart c f).contexts = s.contexts := rfl
@[simp] theorem State.modPart_parts (s : State) (c : Nat) (f : Partition → Partition) : (s.modPart c f).parts = s.parts.set c (f (s.part c)) := rfl
@[simp] theorem State.modPart_plat (s : State) (c : Nat) (f : Partition → Partition) : (s.modPart c f).plat = s.plat := rfl
@[simp] theorem State.modPart_fab (s : State) (c : Nat) (f : Partition → Partition) : (s.modPart c f).fab = s.fab := rfl
@[simp] theorem State.modPart_drift (s : State) (c : Nat) (f : Partition → Partition) : (s.modPart c f).drift = s.drift := rfl
@[simp] theorem State.modPart_engine (s : State) (c : Nat) (f : Partition → Partition) : (s.modPart c f).engine = s.engine := rfl
@[simp] theorem State.modPart_calves (s : State) (c : Nat) (f : Partition → Partition) : (s.modPart c f).calves = s.calves := rfl
@[simp] theorem State.modPart_conts (s : State) (c : Nat) (f : Partition → Partition) : (s.modPart c f).conts = s.conts := rfl
@[simp] theorem State.modPart_host (s : State) (c : Nat) (f : Partition → Partition) : (s.modPart c f).host = s.host := rfl
@[simp] theorem State.modPart_owed (s : State) (c : Nat) (f : Partition → Partition) : (s.modPart c f).owed = s.owed := rfl
@[simp] theorem State.modPart_away (s : State) (c : Nat) (f : Partition → Partition) : (s.modPart c f).away = s.away := rfl
@[simp] theorem State.modPart_saved (s : State) (c : Nat) (f : Partition → Partition) : (s.modPart c f).saved = s.saved := rfl
@[simp] theorem State.modPart_poisons (s : State) (c : Nat) (f : Partition → Partition) : (s.modPart c f).poisons = s.poisons := rfl
@[simp] theorem State.modPart_badBytes (s : State) (c : Nat) (f : Partition → Partition) : (s.modPart c f).badBytes = s.badBytes := rfl
@[simp] theorem State.modPart_nextTag (s : State) (c : Nat) (f : Partition → Partition) : (s.modPart c f).nextTag = s.nextTag := rfl
@[simp] theorem State.modPart_nextCmd (s : State) (c : Nat) (f : Partition → Partition) : (s.modPart c f).nextCmd = s.nextCmd := rfl
@[simp] theorem State.modPart_nextAge (s : State) (c : Nat) (f : Partition → Partition) : (s.modPart c f).nextAge = s.nextAge := rfl

-- ==== modBarrier ====

@[simp] theorem State.modBarrier_now (s : State) (c : Nat) (f : Barrier → Barrier) : (s.modBarrier c f).now = s.now := rfl
@[simp] theorem State.modBarrier_tick (s : State) (c : Nat) (f : Barrier → Barrier) : (s.modBarrier c f).tick = s.tick := rfl
@[simp] theorem State.modBarrier_cur (s : State) (c : Nat) (f : Barrier → Barrier) : (s.modBarrier c f).cur = s.cur := rfl
@[simp] theorem State.modBarrier_snap (s : State) (c : Nat) (f : Barrier → Barrier) : (s.modBarrier c f).snap = s.snap := rfl
@[simp] theorem State.modBarrier_flow (s : State) (c : Nat) (f : Barrier → Barrier) : (s.modBarrier c f).flow = s.flow := rfl
@[simp] theorem State.modBarrier_issued (s : State) (c : Nat) (f : Barrier → Barrier) : (s.modBarrier c f).issued = s.issued := rfl
@[simp] theorem State.modBarrier_agenda (s : State) (c : Nat) (f : Barrier → Barrier) : (s.modBarrier c f).agenda = s.agenda := rfl
@[simp] theorem State.modBarrier_arg (s : State) (c : Nat) (f : Barrier → Barrier) : (s.modBarrier c f).arg = s.arg := rfl
@[simp] theorem State.modBarrier_mem (s : State) (c : Nat) (f : Barrier → Barrier) : (s.modBarrier c f).mem = s.mem := rfl
@[simp] theorem State.modBarrier_slots (s : State) (c : Nat) (f : Barrier → Barrier) : (s.modBarrier c f).slots = s.slots := rfl
@[simp] theorem State.modBarrier_cores (s : State) (c : Nat) (f : Barrier → Barrier) : (s.modBarrier c f).cores = s.cores := rfl
@[simp] theorem State.modBarrier_clusters (s : State) (c : Nat) (f : Barrier → Barrier) : (s.modBarrier c f).clusters = s.clusters := rfl
@[simp] theorem State.modBarrier_quads (s : State) (c : Nat) (f : Barrier → Barrier) : (s.modBarrier c f).quads = s.quads := rfl
@[simp] theorem State.modBarrier_slices (s : State) (c : Nat) (f : Barrier → Barrier) : (s.modBarrier c f).slices = s.slices := rfl
@[simp] theorem State.modBarrier_copies (s : State) (c : Nat) (f : Barrier → Barrier) : (s.modBarrier c f).copies = s.copies := rfl
@[simp] theorem State.modBarrier_melts (s : State) (c : Nat) (f : Barrier → Barrier) : (s.modBarrier c f).melts = s.melts := rfl
@[simp] theorem State.modBarrier_partials (s : State) (c : Nat) (f : Barrier → Barrier) : (s.modBarrier c f).partials = s.partials := rfl
@[simp] theorem State.modBarrier_replicas (s : State) (c : Nat) (f : Barrier → Barrier) : (s.modBarrier c f).replicas = s.replicas := rfl
@[simp] theorem State.modBarrier_walks (s : State) (c : Nat) (f : Barrier → Barrier) : (s.modBarrier c f).walks = s.walks := rfl
@[simp] theorem State.modBarrier_torus (s : State) (c : Nat) (f : Barrier → Barrier) : (s.modBarrier c f).torus = s.torus := rfl
@[simp] theorem State.modBarrier_cmds (s : State) (c : Nat) (f : Barrier → Barrier) : (s.modBarrier c f).cmds = s.cmds := rfl
@[simp] theorem State.modBarrier_merged (s : State) (c : Nat) (f : Barrier → Barrier) : (s.modBarrier c f).merged = s.merged := rfl
@[simp] theorem State.modBarrier_spent (s : State) (c : Nat) (f : Barrier → Barrier) : (s.modBarrier c f).spent = s.spent := rfl
@[simp] theorem State.modBarrier_barriers (s : State) (c : Nat) (f : Barrier → Barrier) : (s.modBarrier c f).barriers = s.barriers.set c (f (s.barrier c)) := rfl
@[simp] theorem State.modBarrier_contexts (s : State) (c : Nat) (f : Barrier → Barrier) : (s.modBarrier c f).contexts = s.contexts := rfl
@[simp] theorem State.modBarrier_parts (s : State) (c : Nat) (f : Barrier → Barrier) : (s.modBarrier c f).parts = s.parts := rfl
@[simp] theorem State.modBarrier_plat (s : State) (c : Nat) (f : Barrier → Barrier) : (s.modBarrier c f).plat = s.plat := rfl
@[simp] theorem State.modBarrier_fab (s : State) (c : Nat) (f : Barrier → Barrier) : (s.modBarrier c f).fab = s.fab := rfl
@[simp] theorem State.modBarrier_drift (s : State) (c : Nat) (f : Barrier → Barrier) : (s.modBarrier c f).drift = s.drift := rfl
@[simp] theorem State.modBarrier_engine (s : State) (c : Nat) (f : Barrier → Barrier) : (s.modBarrier c f).engine = s.engine := rfl
@[simp] theorem State.modBarrier_calves (s : State) (c : Nat) (f : Barrier → Barrier) : (s.modBarrier c f).calves = s.calves := rfl
@[simp] theorem State.modBarrier_conts (s : State) (c : Nat) (f : Barrier → Barrier) : (s.modBarrier c f).conts = s.conts := rfl
@[simp] theorem State.modBarrier_host (s : State) (c : Nat) (f : Barrier → Barrier) : (s.modBarrier c f).host = s.host := rfl
@[simp] theorem State.modBarrier_owed (s : State) (c : Nat) (f : Barrier → Barrier) : (s.modBarrier c f).owed = s.owed := rfl
@[simp] theorem State.modBarrier_away (s : State) (c : Nat) (f : Barrier → Barrier) : (s.modBarrier c f).away = s.away := rfl
@[simp] theorem State.modBarrier_saved (s : State) (c : Nat) (f : Barrier → Barrier) : (s.modBarrier c f).saved = s.saved := rfl
@[simp] theorem State.modBarrier_poisons (s : State) (c : Nat) (f : Barrier → Barrier) : (s.modBarrier c f).poisons = s.poisons := rfl
@[simp] theorem State.modBarrier_badBytes (s : State) (c : Nat) (f : Barrier → Barrier) : (s.modBarrier c f).badBytes = s.badBytes := rfl
@[simp] theorem State.modBarrier_nextTag (s : State) (c : Nat) (f : Barrier → Barrier) : (s.modBarrier c f).nextTag = s.nextTag := rfl
@[simp] theorem State.modBarrier_nextCmd (s : State) (c : Nat) (f : Barrier → Barrier) : (s.modBarrier c f).nextCmd = s.nextCmd := rfl
@[simp] theorem State.modBarrier_nextAge (s : State) (c : Nat) (f : Barrier → Barrier) : (s.modBarrier c f).nextAge = s.nextAge := rfl

-- ==== withFlow ====

@[simp] theorem State.withFlow_now (s : State) (f : Flow) : (s.withFlow f).now = s.now := rfl
@[simp] theorem State.withFlow_tick (s : State) (f : Flow) : (s.withFlow f).tick = s.tick := rfl
@[simp] theorem State.withFlow_cur (s : State) (f : Flow) : (s.withFlow f).cur = s.cur := rfl
@[simp] theorem State.withFlow_snap (s : State) (f : Flow) : (s.withFlow f).snap = s.snap := rfl
@[simp] theorem State.withFlow_flow (s : State) (f : Flow) : (s.withFlow f).flow = f := rfl
@[simp] theorem State.withFlow_issued (s : State) (f : Flow) : (s.withFlow f).issued = s.issued := rfl
@[simp] theorem State.withFlow_agenda (s : State) (f : Flow) : (s.withFlow f).agenda = s.agenda := rfl
@[simp] theorem State.withFlow_arg (s : State) (f : Flow) : (s.withFlow f).arg = s.arg := rfl
@[simp] theorem State.withFlow_mem (s : State) (f : Flow) : (s.withFlow f).mem = s.mem := rfl
@[simp] theorem State.withFlow_slots (s : State) (f : Flow) : (s.withFlow f).slots = s.slots := rfl
@[simp] theorem State.withFlow_cores (s : State) (f : Flow) : (s.withFlow f).cores = s.cores := rfl
@[simp] theorem State.withFlow_clusters (s : State) (f : Flow) : (s.withFlow f).clusters = s.clusters := rfl
@[simp] theorem State.withFlow_quads (s : State) (f : Flow) : (s.withFlow f).quads = s.quads := rfl
@[simp] theorem State.withFlow_slices (s : State) (f : Flow) : (s.withFlow f).slices = s.slices := rfl
@[simp] theorem State.withFlow_copies (s : State) (f : Flow) : (s.withFlow f).copies = s.copies := rfl
@[simp] theorem State.withFlow_melts (s : State) (f : Flow) : (s.withFlow f).melts = s.melts := rfl
@[simp] theorem State.withFlow_partials (s : State) (f : Flow) : (s.withFlow f).partials = s.partials := rfl
@[simp] theorem State.withFlow_replicas (s : State) (f : Flow) : (s.withFlow f).replicas = s.replicas := rfl
@[simp] theorem State.withFlow_walks (s : State) (f : Flow) : (s.withFlow f).walks = s.walks := rfl
@[simp] theorem State.withFlow_torus (s : State) (f : Flow) : (s.withFlow f).torus = s.torus := rfl
@[simp] theorem State.withFlow_cmds (s : State) (f : Flow) : (s.withFlow f).cmds = s.cmds := rfl
@[simp] theorem State.withFlow_merged (s : State) (f : Flow) : (s.withFlow f).merged = s.merged := rfl
@[simp] theorem State.withFlow_spent (s : State) (f : Flow) : (s.withFlow f).spent = s.spent := rfl
@[simp] theorem State.withFlow_barriers (s : State) (f : Flow) : (s.withFlow f).barriers = s.barriers := rfl
@[simp] theorem State.withFlow_contexts (s : State) (f : Flow) : (s.withFlow f).contexts = s.contexts := rfl
@[simp] theorem State.withFlow_parts (s : State) (f : Flow) : (s.withFlow f).parts = s.parts := rfl
@[simp] theorem State.withFlow_plat (s : State) (f : Flow) : (s.withFlow f).plat = s.plat := rfl
@[simp] theorem State.withFlow_fab (s : State) (f : Flow) : (s.withFlow f).fab = s.fab := rfl
@[simp] theorem State.withFlow_drift (s : State) (f : Flow) : (s.withFlow f).drift = s.drift := rfl
@[simp] theorem State.withFlow_engine (s : State) (f : Flow) : (s.withFlow f).engine = s.engine := rfl
@[simp] theorem State.withFlow_calves (s : State) (f : Flow) : (s.withFlow f).calves = s.calves := rfl
@[simp] theorem State.withFlow_conts (s : State) (f : Flow) : (s.withFlow f).conts = s.conts := rfl
@[simp] theorem State.withFlow_host (s : State) (f : Flow) : (s.withFlow f).host = s.host := rfl
@[simp] theorem State.withFlow_owed (s : State) (f : Flow) : (s.withFlow f).owed = s.owed := rfl
@[simp] theorem State.withFlow_away (s : State) (f : Flow) : (s.withFlow f).away = s.away := rfl
@[simp] theorem State.withFlow_saved (s : State) (f : Flow) : (s.withFlow f).saved = s.saved := rfl
@[simp] theorem State.withFlow_poisons (s : State) (f : Flow) : (s.withFlow f).poisons = s.poisons := rfl
@[simp] theorem State.withFlow_badBytes (s : State) (f : Flow) : (s.withFlow f).badBytes = s.badBytes := rfl
@[simp] theorem State.withFlow_nextTag (s : State) (f : Flow) : (s.withFlow f).nextTag = s.nextTag := rfl
@[simp] theorem State.withFlow_nextCmd (s : State) (f : Flow) : (s.withFlow f).nextCmd = s.nextCmd := rfl
@[simp] theorem State.withFlow_nextAge (s : State) (f : Flow) : (s.withFlow f).nextAge = s.nextAge := rfl

-- ==== waits ====

@[simp] theorem State.waits_now (s : State) : (s.waits).now = s.now := rfl
@[simp] theorem State.waits_tick (s : State) : (s.waits).tick = s.tick := rfl
@[simp] theorem State.waits_cur (s : State) : (s.waits).cur = s.cur := rfl
@[simp] theorem State.waits_snap (s : State) : (s.waits).snap = s.snap := rfl
@[simp] theorem State.waits_flow (s : State) : (s.waits).flow = .wait := rfl
@[simp] theorem State.waits_issued (s : State) : (s.waits).issued = s.issued := rfl
@[simp] theorem State.waits_agenda (s : State) : (s.waits).agenda = s.agenda := rfl
@[simp] theorem State.waits_arg (s : State) : (s.waits).arg = s.arg := rfl
@[simp] theorem State.waits_mem (s : State) : (s.waits).mem = s.mem := rfl
@[simp] theorem State.waits_slots (s : State) : (s.waits).slots = s.slots := rfl
@[simp] theorem State.waits_cores (s : State) : (s.waits).cores = s.cores := rfl
@[simp] theorem State.waits_clusters (s : State) : (s.waits).clusters = s.clusters := rfl
@[simp] theorem State.waits_quads (s : State) : (s.waits).quads = s.quads := rfl
@[simp] theorem State.waits_slices (s : State) : (s.waits).slices = s.slices := rfl
@[simp] theorem State.waits_copies (s : State) : (s.waits).copies = s.copies := rfl
@[simp] theorem State.waits_melts (s : State) : (s.waits).melts = s.melts := rfl
@[simp] theorem State.waits_partials (s : State) : (s.waits).partials = s.partials := rfl
@[simp] theorem State.waits_replicas (s : State) : (s.waits).replicas = s.replicas := rfl
@[simp] theorem State.waits_walks (s : State) : (s.waits).walks = s.walks := rfl
@[simp] theorem State.waits_torus (s : State) : (s.waits).torus = s.torus := rfl
@[simp] theorem State.waits_cmds (s : State) : (s.waits).cmds = s.cmds := rfl
@[simp] theorem State.waits_merged (s : State) : (s.waits).merged = s.merged := rfl
@[simp] theorem State.waits_spent (s : State) : (s.waits).spent = s.spent := rfl
@[simp] theorem State.waits_barriers (s : State) : (s.waits).barriers = s.barriers := rfl
@[simp] theorem State.waits_contexts (s : State) : (s.waits).contexts = s.contexts := rfl
@[simp] theorem State.waits_parts (s : State) : (s.waits).parts = s.parts := rfl
@[simp] theorem State.waits_plat (s : State) : (s.waits).plat = s.plat := rfl
@[simp] theorem State.waits_fab (s : State) : (s.waits).fab = s.fab := rfl
@[simp] theorem State.waits_drift (s : State) : (s.waits).drift = s.drift := rfl
@[simp] theorem State.waits_engine (s : State) : (s.waits).engine = s.engine := rfl
@[simp] theorem State.waits_calves (s : State) : (s.waits).calves = s.calves := rfl
@[simp] theorem State.waits_conts (s : State) : (s.waits).conts = s.conts := rfl
@[simp] theorem State.waits_host (s : State) : (s.waits).host = s.host := rfl
@[simp] theorem State.waits_owed (s : State) : (s.waits).owed = s.owed := rfl
@[simp] theorem State.waits_away (s : State) : (s.waits).away = s.away := rfl
@[simp] theorem State.waits_saved (s : State) : (s.waits).saved = s.saved := rfl
@[simp] theorem State.waits_poisons (s : State) : (s.waits).poisons = s.poisons := rfl
@[simp] theorem State.waits_badBytes (s : State) : (s.waits).badBytes = s.badBytes := rfl
@[simp] theorem State.waits_nextTag (s : State) : (s.waits).nextTag = s.nextTag := rfl
@[simp] theorem State.waits_nextCmd (s : State) : (s.waits).nextCmd = s.nextCmd := rfl
@[simp] theorem State.waits_nextAge (s : State) : (s.waits).nextAge = s.nextAge := rfl

-- ==== goOn ====

@[simp] theorem State.goOn_now (s : State) : (s.goOn).now = s.now := rfl
@[simp] theorem State.goOn_tick (s : State) : (s.goOn).tick = s.tick := rfl
@[simp] theorem State.goOn_cur (s : State) : (s.goOn).cur = s.cur := rfl
@[simp] theorem State.goOn_snap (s : State) : (s.goOn).snap = s.snap := rfl
@[simp] theorem State.goOn_flow (s : State) : (s.goOn).flow = .seq := rfl
@[simp] theorem State.goOn_issued (s : State) : (s.goOn).issued = s.issued := rfl
@[simp] theorem State.goOn_agenda (s : State) : (s.goOn).agenda = s.agenda := rfl
@[simp] theorem State.goOn_arg (s : State) : (s.goOn).arg = s.arg := rfl
@[simp] theorem State.goOn_mem (s : State) : (s.goOn).mem = s.mem := rfl
@[simp] theorem State.goOn_slots (s : State) : (s.goOn).slots = s.slots := rfl
@[simp] theorem State.goOn_cores (s : State) : (s.goOn).cores = s.cores := rfl
@[simp] theorem State.goOn_clusters (s : State) : (s.goOn).clusters = s.clusters := rfl
@[simp] theorem State.goOn_quads (s : State) : (s.goOn).quads = s.quads := rfl
@[simp] theorem State.goOn_slices (s : State) : (s.goOn).slices = s.slices := rfl
@[simp] theorem State.goOn_copies (s : State) : (s.goOn).copies = s.copies := rfl
@[simp] theorem State.goOn_melts (s : State) : (s.goOn).melts = s.melts := rfl
@[simp] theorem State.goOn_partials (s : State) : (s.goOn).partials = s.partials := rfl
@[simp] theorem State.goOn_replicas (s : State) : (s.goOn).replicas = s.replicas := rfl
@[simp] theorem State.goOn_walks (s : State) : (s.goOn).walks = s.walks := rfl
@[simp] theorem State.goOn_torus (s : State) : (s.goOn).torus = s.torus := rfl
@[simp] theorem State.goOn_cmds (s : State) : (s.goOn).cmds = s.cmds := rfl
@[simp] theorem State.goOn_merged (s : State) : (s.goOn).merged = s.merged := rfl
@[simp] theorem State.goOn_spent (s : State) : (s.goOn).spent = s.spent := rfl
@[simp] theorem State.goOn_barriers (s : State) : (s.goOn).barriers = s.barriers := rfl
@[simp] theorem State.goOn_contexts (s : State) : (s.goOn).contexts = s.contexts := rfl
@[simp] theorem State.goOn_parts (s : State) : (s.goOn).parts = s.parts := rfl
@[simp] theorem State.goOn_plat (s : State) : (s.goOn).plat = s.plat := rfl
@[simp] theorem State.goOn_fab (s : State) : (s.goOn).fab = s.fab := rfl
@[simp] theorem State.goOn_drift (s : State) : (s.goOn).drift = s.drift := rfl
@[simp] theorem State.goOn_engine (s : State) : (s.goOn).engine = s.engine := rfl
@[simp] theorem State.goOn_calves (s : State) : (s.goOn).calves = s.calves := rfl
@[simp] theorem State.goOn_conts (s : State) : (s.goOn).conts = s.conts := rfl
@[simp] theorem State.goOn_host (s : State) : (s.goOn).host = s.host := rfl
@[simp] theorem State.goOn_owed (s : State) : (s.goOn).owed = s.owed := rfl
@[simp] theorem State.goOn_away (s : State) : (s.goOn).away = s.away := rfl
@[simp] theorem State.goOn_saved (s : State) : (s.goOn).saved = s.saved := rfl
@[simp] theorem State.goOn_poisons (s : State) : (s.goOn).poisons = s.poisons := rfl
@[simp] theorem State.goOn_badBytes (s : State) : (s.goOn).badBytes = s.badBytes := rfl
@[simp] theorem State.goOn_nextTag (s : State) : (s.goOn).nextTag = s.nextTag := rfl
@[simp] theorem State.goOn_nextCmd (s : State) : (s.goOn).nextCmd = s.nextCmd := rfl
@[simp] theorem State.goOn_nextAge (s : State) : (s.goOn).nextAge = s.nextAge := rfl

-- ==== bump ====

@[simp] theorem State.bump_now (s : State) : (s.bump).now = s.now := rfl
@[simp] theorem State.bump_tick (s : State) : (s.bump).tick = s.tick + 1 := rfl
@[simp] theorem State.bump_cur (s : State) : (s.bump).cur = s.cur := rfl
@[simp] theorem State.bump_snap (s : State) : (s.bump).snap = s.snap := rfl
@[simp] theorem State.bump_flow (s : State) : (s.bump).flow = s.flow := rfl
@[simp] theorem State.bump_issued (s : State) : (s.bump).issued = s.issued := rfl
@[simp] theorem State.bump_agenda (s : State) : (s.bump).agenda = s.agenda := rfl
@[simp] theorem State.bump_arg (s : State) : (s.bump).arg = s.arg := rfl
@[simp] theorem State.bump_mem (s : State) : (s.bump).mem = s.mem := rfl
@[simp] theorem State.bump_slots (s : State) : (s.bump).slots = s.slots := rfl
@[simp] theorem State.bump_cores (s : State) : (s.bump).cores = s.cores := rfl
@[simp] theorem State.bump_clusters (s : State) : (s.bump).clusters = s.clusters := rfl
@[simp] theorem State.bump_quads (s : State) : (s.bump).quads = s.quads := rfl
@[simp] theorem State.bump_slices (s : State) : (s.bump).slices = s.slices := rfl
@[simp] theorem State.bump_copies (s : State) : (s.bump).copies = s.copies := rfl
@[simp] theorem State.bump_melts (s : State) : (s.bump).melts = s.melts := rfl
@[simp] theorem State.bump_partials (s : State) : (s.bump).partials = s.partials := rfl
@[simp] theorem State.bump_replicas (s : State) : (s.bump).replicas = s.replicas := rfl
@[simp] theorem State.bump_walks (s : State) : (s.bump).walks = s.walks := rfl
@[simp] theorem State.bump_torus (s : State) : (s.bump).torus = s.torus := rfl
@[simp] theorem State.bump_cmds (s : State) : (s.bump).cmds = s.cmds := rfl
@[simp] theorem State.bump_merged (s : State) : (s.bump).merged = s.merged := rfl
@[simp] theorem State.bump_spent (s : State) : (s.bump).spent = s.spent := rfl
@[simp] theorem State.bump_barriers (s : State) : (s.bump).barriers = s.barriers := rfl
@[simp] theorem State.bump_contexts (s : State) : (s.bump).contexts = s.contexts := rfl
@[simp] theorem State.bump_parts (s : State) : (s.bump).parts = s.parts := rfl
@[simp] theorem State.bump_plat (s : State) : (s.bump).plat = s.plat := rfl
@[simp] theorem State.bump_fab (s : State) : (s.bump).fab = s.fab := rfl
@[simp] theorem State.bump_drift (s : State) : (s.bump).drift = s.drift := rfl
@[simp] theorem State.bump_engine (s : State) : (s.bump).engine = s.engine := rfl
@[simp] theorem State.bump_calves (s : State) : (s.bump).calves = s.calves := rfl
@[simp] theorem State.bump_conts (s : State) : (s.bump).conts = s.conts := rfl
@[simp] theorem State.bump_host (s : State) : (s.bump).host = s.host := rfl
@[simp] theorem State.bump_owed (s : State) : (s.bump).owed = s.owed := rfl
@[simp] theorem State.bump_away (s : State) : (s.bump).away = s.away := rfl
@[simp] theorem State.bump_saved (s : State) : (s.bump).saved = s.saved := rfl
@[simp] theorem State.bump_poisons (s : State) : (s.bump).poisons = s.poisons := rfl
@[simp] theorem State.bump_badBytes (s : State) : (s.bump).badBytes = s.badBytes := rfl
@[simp] theorem State.bump_nextTag (s : State) : (s.bump).nextTag = s.nextTag := rfl
@[simp] theorem State.bump_nextCmd (s : State) : (s.bump).nextCmd = s.nextCmd := rfl
@[simp] theorem State.bump_nextAge (s : State) : (s.bump).nextAge = s.nextAge := rfl

-- ==== newTag ====

@[simp] theorem State.newTag_now (s : State) : (s.newTag).now = s.now := rfl
@[simp] theorem State.newTag_tick (s : State) : (s.newTag).tick = s.tick := rfl
@[simp] theorem State.newTag_cur (s : State) : (s.newTag).cur = s.cur := rfl
@[simp] theorem State.newTag_snap (s : State) : (s.newTag).snap = s.snap := rfl
@[simp] theorem State.newTag_flow (s : State) : (s.newTag).flow = s.flow := rfl
@[simp] theorem State.newTag_issued (s : State) : (s.newTag).issued = s.issued := rfl
@[simp] theorem State.newTag_agenda (s : State) : (s.newTag).agenda = s.agenda := rfl
@[simp] theorem State.newTag_arg (s : State) : (s.newTag).arg = s.arg := rfl
@[simp] theorem State.newTag_mem (s : State) : (s.newTag).mem = s.mem := rfl
@[simp] theorem State.newTag_slots (s : State) : (s.newTag).slots = s.slots := rfl
@[simp] theorem State.newTag_cores (s : State) : (s.newTag).cores = s.cores := rfl
@[simp] theorem State.newTag_clusters (s : State) : (s.newTag).clusters = s.clusters := rfl
@[simp] theorem State.newTag_quads (s : State) : (s.newTag).quads = s.quads := rfl
@[simp] theorem State.newTag_slices (s : State) : (s.newTag).slices = s.slices := rfl
@[simp] theorem State.newTag_copies (s : State) : (s.newTag).copies = s.copies := rfl
@[simp] theorem State.newTag_melts (s : State) : (s.newTag).melts = s.melts := rfl
@[simp] theorem State.newTag_partials (s : State) : (s.newTag).partials = s.partials := rfl
@[simp] theorem State.newTag_replicas (s : State) : (s.newTag).replicas = s.replicas := rfl
@[simp] theorem State.newTag_walks (s : State) : (s.newTag).walks = s.walks := rfl
@[simp] theorem State.newTag_torus (s : State) : (s.newTag).torus = s.torus := rfl
@[simp] theorem State.newTag_cmds (s : State) : (s.newTag).cmds = s.cmds := rfl
@[simp] theorem State.newTag_merged (s : State) : (s.newTag).merged = s.merged := rfl
@[simp] theorem State.newTag_spent (s : State) : (s.newTag).spent = s.spent := rfl
@[simp] theorem State.newTag_barriers (s : State) : (s.newTag).barriers = s.barriers := rfl
@[simp] theorem State.newTag_contexts (s : State) : (s.newTag).contexts = s.contexts := rfl
@[simp] theorem State.newTag_parts (s : State) : (s.newTag).parts = s.parts := rfl
@[simp] theorem State.newTag_plat (s : State) : (s.newTag).plat = s.plat := rfl
@[simp] theorem State.newTag_fab (s : State) : (s.newTag).fab = s.fab := rfl
@[simp] theorem State.newTag_drift (s : State) : (s.newTag).drift = s.drift := rfl
@[simp] theorem State.newTag_engine (s : State) : (s.newTag).engine = s.engine := rfl
@[simp] theorem State.newTag_calves (s : State) : (s.newTag).calves = s.calves := rfl
@[simp] theorem State.newTag_conts (s : State) : (s.newTag).conts = s.conts := rfl
@[simp] theorem State.newTag_host (s : State) : (s.newTag).host = s.host := rfl
@[simp] theorem State.newTag_owed (s : State) : (s.newTag).owed = s.owed := rfl
@[simp] theorem State.newTag_away (s : State) : (s.newTag).away = s.away := rfl
@[simp] theorem State.newTag_saved (s : State) : (s.newTag).saved = s.saved := rfl
@[simp] theorem State.newTag_poisons (s : State) : (s.newTag).poisons = s.poisons := rfl
@[simp] theorem State.newTag_badBytes (s : State) : (s.newTag).badBytes = s.badBytes := rfl
@[simp] theorem State.newTag_nextTag (s : State) : (s.newTag).nextTag = s.nextTag + 1 := rfl
@[simp] theorem State.newTag_nextCmd (s : State) : (s.newTag).nextCmd = s.nextCmd := rfl
@[simp] theorem State.newTag_nextAge (s : State) : (s.newTag).nextAge = s.nextAge := rfl

-- ==== afterArg ====

@[simp] theorem State.afterArg_now (s : State) (d : Nat) (e : Instr) (l : List Nat) : (s.afterArg d e l).now = s.now := rfl
@[simp] theorem State.afterArg_tick (s : State) (d : Nat) (e : Instr) (l : List Nat) : (s.afterArg d e l).tick = s.tick := rfl
@[simp] theorem State.afterArg_cur (s : State) (d : Nat) (e : Instr) (l : List Nat) : (s.afterArg d e l).cur = s.cur := rfl
@[simp] theorem State.afterArg_snap (s : State) (d : Nat) (e : Instr) (l : List Nat) : (s.afterArg d e l).snap = s.snap := rfl
@[simp] theorem State.afterArg_flow (s : State) (d : Nat) (e : Instr) (l : List Nat) : (s.afterArg d e l).flow = s.flow := rfl
@[simp] theorem State.afterArg_issued (s : State) (d : Nat) (e : Instr) (l : List Nat) : (s.afterArg d e l).issued = s.issued := rfl
@[simp] theorem State.afterArg_agenda (s : State) (d : Nat) (e : Instr) (l : List Nat) : (s.afterArg d e l).agenda = s.agenda ++ [{ due := s.now + d, ev := e, arg := l }] := rfl
@[simp] theorem State.afterArg_arg (s : State) (d : Nat) (e : Instr) (l : List Nat) : (s.afterArg d e l).arg = s.arg := rfl
@[simp] theorem State.afterArg_mem (s : State) (d : Nat) (e : Instr) (l : List Nat) : (s.afterArg d e l).mem = s.mem := rfl
@[simp] theorem State.afterArg_slots (s : State) (d : Nat) (e : Instr) (l : List Nat) : (s.afterArg d e l).slots = s.slots := rfl
@[simp] theorem State.afterArg_cores (s : State) (d : Nat) (e : Instr) (l : List Nat) : (s.afterArg d e l).cores = s.cores := rfl
@[simp] theorem State.afterArg_clusters (s : State) (d : Nat) (e : Instr) (l : List Nat) : (s.afterArg d e l).clusters = s.clusters := rfl
@[simp] theorem State.afterArg_quads (s : State) (d : Nat) (e : Instr) (l : List Nat) : (s.afterArg d e l).quads = s.quads := rfl
@[simp] theorem State.afterArg_slices (s : State) (d : Nat) (e : Instr) (l : List Nat) : (s.afterArg d e l).slices = s.slices := rfl
@[simp] theorem State.afterArg_copies (s : State) (d : Nat) (e : Instr) (l : List Nat) : (s.afterArg d e l).copies = s.copies := rfl
@[simp] theorem State.afterArg_melts (s : State) (d : Nat) (e : Instr) (l : List Nat) : (s.afterArg d e l).melts = s.melts := rfl
@[simp] theorem State.afterArg_partials (s : State) (d : Nat) (e : Instr) (l : List Nat) : (s.afterArg d e l).partials = s.partials := rfl
@[simp] theorem State.afterArg_replicas (s : State) (d : Nat) (e : Instr) (l : List Nat) : (s.afterArg d e l).replicas = s.replicas := rfl
@[simp] theorem State.afterArg_walks (s : State) (d : Nat) (e : Instr) (l : List Nat) : (s.afterArg d e l).walks = s.walks := rfl
@[simp] theorem State.afterArg_torus (s : State) (d : Nat) (e : Instr) (l : List Nat) : (s.afterArg d e l).torus = s.torus := rfl
@[simp] theorem State.afterArg_cmds (s : State) (d : Nat) (e : Instr) (l : List Nat) : (s.afterArg d e l).cmds = s.cmds := rfl
@[simp] theorem State.afterArg_merged (s : State) (d : Nat) (e : Instr) (l : List Nat) : (s.afterArg d e l).merged = s.merged := rfl
@[simp] theorem State.afterArg_spent (s : State) (d : Nat) (e : Instr) (l : List Nat) : (s.afterArg d e l).spent = s.spent := rfl
@[simp] theorem State.afterArg_barriers (s : State) (d : Nat) (e : Instr) (l : List Nat) : (s.afterArg d e l).barriers = s.barriers := rfl
@[simp] theorem State.afterArg_contexts (s : State) (d : Nat) (e : Instr) (l : List Nat) : (s.afterArg d e l).contexts = s.contexts := rfl
@[simp] theorem State.afterArg_parts (s : State) (d : Nat) (e : Instr) (l : List Nat) : (s.afterArg d e l).parts = s.parts := rfl
@[simp] theorem State.afterArg_plat (s : State) (d : Nat) (e : Instr) (l : List Nat) : (s.afterArg d e l).plat = s.plat := rfl
@[simp] theorem State.afterArg_fab (s : State) (d : Nat) (e : Instr) (l : List Nat) : (s.afterArg d e l).fab = s.fab := rfl
@[simp] theorem State.afterArg_drift (s : State) (d : Nat) (e : Instr) (l : List Nat) : (s.afterArg d e l).drift = s.drift := rfl
@[simp] theorem State.afterArg_engine (s : State) (d : Nat) (e : Instr) (l : List Nat) : (s.afterArg d e l).engine = s.engine := rfl
@[simp] theorem State.afterArg_calves (s : State) (d : Nat) (e : Instr) (l : List Nat) : (s.afterArg d e l).calves = s.calves := rfl
@[simp] theorem State.afterArg_conts (s : State) (d : Nat) (e : Instr) (l : List Nat) : (s.afterArg d e l).conts = s.conts := rfl
@[simp] theorem State.afterArg_host (s : State) (d : Nat) (e : Instr) (l : List Nat) : (s.afterArg d e l).host = s.host := rfl
@[simp] theorem State.afterArg_owed (s : State) (d : Nat) (e : Instr) (l : List Nat) : (s.afterArg d e l).owed = s.owed := rfl
@[simp] theorem State.afterArg_away (s : State) (d : Nat) (e : Instr) (l : List Nat) : (s.afterArg d e l).away = s.away := rfl
@[simp] theorem State.afterArg_saved (s : State) (d : Nat) (e : Instr) (l : List Nat) : (s.afterArg d e l).saved = s.saved := rfl
@[simp] theorem State.afterArg_poisons (s : State) (d : Nat) (e : Instr) (l : List Nat) : (s.afterArg d e l).poisons = s.poisons := rfl
@[simp] theorem State.afterArg_badBytes (s : State) (d : Nat) (e : Instr) (l : List Nat) : (s.afterArg d e l).badBytes = s.badBytes := rfl
@[simp] theorem State.afterArg_nextTag (s : State) (d : Nat) (e : Instr) (l : List Nat) : (s.afterArg d e l).nextTag = s.nextTag := rfl
@[simp] theorem State.afterArg_nextCmd (s : State) (d : Nat) (e : Instr) (l : List Nat) : (s.afterArg d e l).nextCmd = s.nextCmd := rfl
@[simp] theorem State.afterArg_nextAge (s : State) (d : Nat) (e : Instr) (l : List Nat) : (s.afterArg d e l).nextAge = s.nextAge := rfl

-- ==== after ====

@[simp] theorem State.after_now (s : State) (d : Nat) (e : Instr) : (s.after d e).now = s.now := rfl
@[simp] theorem State.after_tick (s : State) (d : Nat) (e : Instr) : (s.after d e).tick = s.tick := rfl
@[simp] theorem State.after_cur (s : State) (d : Nat) (e : Instr) : (s.after d e).cur = s.cur := rfl
@[simp] theorem State.after_snap (s : State) (d : Nat) (e : Instr) : (s.after d e).snap = s.snap := rfl
@[simp] theorem State.after_flow (s : State) (d : Nat) (e : Instr) : (s.after d e).flow = s.flow := rfl
@[simp] theorem State.after_issued (s : State) (d : Nat) (e : Instr) : (s.after d e).issued = s.issued := rfl
@[simp] theorem State.after_agenda (s : State) (d : Nat) (e : Instr) : (s.after d e).agenda = s.agenda ++ [{ due := s.now + d, ev := e, arg := [] }] := rfl
@[simp] theorem State.after_arg (s : State) (d : Nat) (e : Instr) : (s.after d e).arg = s.arg := rfl
@[simp] theorem State.after_mem (s : State) (d : Nat) (e : Instr) : (s.after d e).mem = s.mem := rfl
@[simp] theorem State.after_slots (s : State) (d : Nat) (e : Instr) : (s.after d e).slots = s.slots := rfl
@[simp] theorem State.after_cores (s : State) (d : Nat) (e : Instr) : (s.after d e).cores = s.cores := rfl
@[simp] theorem State.after_clusters (s : State) (d : Nat) (e : Instr) : (s.after d e).clusters = s.clusters := rfl
@[simp] theorem State.after_quads (s : State) (d : Nat) (e : Instr) : (s.after d e).quads = s.quads := rfl
@[simp] theorem State.after_slices (s : State) (d : Nat) (e : Instr) : (s.after d e).slices = s.slices := rfl
@[simp] theorem State.after_copies (s : State) (d : Nat) (e : Instr) : (s.after d e).copies = s.copies := rfl
@[simp] theorem State.after_melts (s : State) (d : Nat) (e : Instr) : (s.after d e).melts = s.melts := rfl
@[simp] theorem State.after_partials (s : State) (d : Nat) (e : Instr) : (s.after d e).partials = s.partials := rfl
@[simp] theorem State.after_replicas (s : State) (d : Nat) (e : Instr) : (s.after d e).replicas = s.replicas := rfl
@[simp] theorem State.after_walks (s : State) (d : Nat) (e : Instr) : (s.after d e).walks = s.walks := rfl
@[simp] theorem State.after_torus (s : State) (d : Nat) (e : Instr) : (s.after d e).torus = s.torus := rfl
@[simp] theorem State.after_cmds (s : State) (d : Nat) (e : Instr) : (s.after d e).cmds = s.cmds := rfl
@[simp] theorem State.after_merged (s : State) (d : Nat) (e : Instr) : (s.after d e).merged = s.merged := rfl
@[simp] theorem State.after_spent (s : State) (d : Nat) (e : Instr) : (s.after d e).spent = s.spent := rfl
@[simp] theorem State.after_barriers (s : State) (d : Nat) (e : Instr) : (s.after d e).barriers = s.barriers := rfl
@[simp] theorem State.after_contexts (s : State) (d : Nat) (e : Instr) : (s.after d e).contexts = s.contexts := rfl
@[simp] theorem State.after_parts (s : State) (d : Nat) (e : Instr) : (s.after d e).parts = s.parts := rfl
@[simp] theorem State.after_plat (s : State) (d : Nat) (e : Instr) : (s.after d e).plat = s.plat := rfl
@[simp] theorem State.after_fab (s : State) (d : Nat) (e : Instr) : (s.after d e).fab = s.fab := rfl
@[simp] theorem State.after_drift (s : State) (d : Nat) (e : Instr) : (s.after d e).drift = s.drift := rfl
@[simp] theorem State.after_engine (s : State) (d : Nat) (e : Instr) : (s.after d e).engine = s.engine := rfl
@[simp] theorem State.after_calves (s : State) (d : Nat) (e : Instr) : (s.after d e).calves = s.calves := rfl
@[simp] theorem State.after_conts (s : State) (d : Nat) (e : Instr) : (s.after d e).conts = s.conts := rfl
@[simp] theorem State.after_host (s : State) (d : Nat) (e : Instr) : (s.after d e).host = s.host := rfl
@[simp] theorem State.after_owed (s : State) (d : Nat) (e : Instr) : (s.after d e).owed = s.owed := rfl
@[simp] theorem State.after_away (s : State) (d : Nat) (e : Instr) : (s.after d e).away = s.away := rfl
@[simp] theorem State.after_saved (s : State) (d : Nat) (e : Instr) : (s.after d e).saved = s.saved := rfl
@[simp] theorem State.after_poisons (s : State) (d : Nat) (e : Instr) : (s.after d e).poisons = s.poisons := rfl
@[simp] theorem State.after_badBytes (s : State) (d : Nat) (e : Instr) : (s.after d e).badBytes = s.badBytes := rfl
@[simp] theorem State.after_nextTag (s : State) (d : Nat) (e : Instr) : (s.after d e).nextTag = s.nextTag := rfl
@[simp] theorem State.after_nextCmd (s : State) (d : Nat) (e : Instr) : (s.after d e).nextCmd = s.nextCmd := rfl
@[simp] theorem State.after_nextAge (s : State) (d : Nat) (e : Instr) : (s.after d e).nextAge = s.nextAge := rfl

-- ==== within ====

@[simp] theorem State.within_now (s : State) (d : Nat) (e : Instr) : (s.within d e).now = s.now := rfl
@[simp] theorem State.within_tick (s : State) (d : Nat) (e : Instr) : (s.within d e).tick = s.tick + 1 := rfl
@[simp] theorem State.within_cur (s : State) (d : Nat) (e : Instr) : (s.within d e).cur = s.cur := rfl
@[simp] theorem State.within_snap (s : State) (d : Nat) (e : Instr) : (s.within d e).snap = s.snap := rfl
@[simp] theorem State.within_flow (s : State) (d : Nat) (e : Instr) : (s.within d e).flow = s.flow := rfl
@[simp] theorem State.within_issued (s : State) (d : Nat) (e : Instr) : (s.within d e).issued = s.issued := rfl
@[simp] theorem State.within_agenda (s : State) (d : Nat) (e : Instr) : (s.within d e).agenda = s.agenda ++ [{ due := s.now + (1 + s.choose d), ev := e, arg := [] }] := rfl
@[simp] theorem State.within_arg (s : State) (d : Nat) (e : Instr) : (s.within d e).arg = s.arg := rfl
@[simp] theorem State.within_mem (s : State) (d : Nat) (e : Instr) : (s.within d e).mem = s.mem := rfl
@[simp] theorem State.within_slots (s : State) (d : Nat) (e : Instr) : (s.within d e).slots = s.slots := rfl
@[simp] theorem State.within_cores (s : State) (d : Nat) (e : Instr) : (s.within d e).cores = s.cores := rfl
@[simp] theorem State.within_clusters (s : State) (d : Nat) (e : Instr) : (s.within d e).clusters = s.clusters := rfl
@[simp] theorem State.within_quads (s : State) (d : Nat) (e : Instr) : (s.within d e).quads = s.quads := rfl
@[simp] theorem State.within_slices (s : State) (d : Nat) (e : Instr) : (s.within d e).slices = s.slices := rfl
@[simp] theorem State.within_copies (s : State) (d : Nat) (e : Instr) : (s.within d e).copies = s.copies := rfl
@[simp] theorem State.within_melts (s : State) (d : Nat) (e : Instr) : (s.within d e).melts = s.melts := rfl
@[simp] theorem State.within_partials (s : State) (d : Nat) (e : Instr) : (s.within d e).partials = s.partials := rfl
@[simp] theorem State.within_replicas (s : State) (d : Nat) (e : Instr) : (s.within d e).replicas = s.replicas := rfl
@[simp] theorem State.within_walks (s : State) (d : Nat) (e : Instr) : (s.within d e).walks = s.walks := rfl
@[simp] theorem State.within_torus (s : State) (d : Nat) (e : Instr) : (s.within d e).torus = s.torus := rfl
@[simp] theorem State.within_cmds (s : State) (d : Nat) (e : Instr) : (s.within d e).cmds = s.cmds := rfl
@[simp] theorem State.within_merged (s : State) (d : Nat) (e : Instr) : (s.within d e).merged = s.merged := rfl
@[simp] theorem State.within_spent (s : State) (d : Nat) (e : Instr) : (s.within d e).spent = s.spent := rfl
@[simp] theorem State.within_barriers (s : State) (d : Nat) (e : Instr) : (s.within d e).barriers = s.barriers := rfl
@[simp] theorem State.within_contexts (s : State) (d : Nat) (e : Instr) : (s.within d e).contexts = s.contexts := rfl
@[simp] theorem State.within_parts (s : State) (d : Nat) (e : Instr) : (s.within d e).parts = s.parts := rfl
@[simp] theorem State.within_plat (s : State) (d : Nat) (e : Instr) : (s.within d e).plat = s.plat := rfl
@[simp] theorem State.within_fab (s : State) (d : Nat) (e : Instr) : (s.within d e).fab = s.fab := rfl
@[simp] theorem State.within_drift (s : State) (d : Nat) (e : Instr) : (s.within d e).drift = s.drift := rfl
@[simp] theorem State.within_engine (s : State) (d : Nat) (e : Instr) : (s.within d e).engine = s.engine := rfl
@[simp] theorem State.within_calves (s : State) (d : Nat) (e : Instr) : (s.within d e).calves = s.calves := rfl
@[simp] theorem State.within_conts (s : State) (d : Nat) (e : Instr) : (s.within d e).conts = s.conts := rfl
@[simp] theorem State.within_host (s : State) (d : Nat) (e : Instr) : (s.within d e).host = s.host := rfl
@[simp] theorem State.within_owed (s : State) (d : Nat) (e : Instr) : (s.within d e).owed = s.owed := rfl
@[simp] theorem State.within_away (s : State) (d : Nat) (e : Instr) : (s.within d e).away = s.away := rfl
@[simp] theorem State.within_saved (s : State) (d : Nat) (e : Instr) : (s.within d e).saved = s.saved := rfl
@[simp] theorem State.within_poisons (s : State) (d : Nat) (e : Instr) : (s.within d e).poisons = s.poisons := rfl
@[simp] theorem State.within_badBytes (s : State) (d : Nat) (e : Instr) : (s.within d e).badBytes = s.badBytes := rfl
@[simp] theorem State.within_nextTag (s : State) (d : Nat) (e : Instr) : (s.within d e).nextTag = s.nextTag := rfl
@[simp] theorem State.within_nextCmd (s : State) (d : Nat) (e : Instr) : (s.within d e).nextCmd = s.nextCmd := rfl
@[simp] theorem State.within_nextAge (s : State) (d : Nat) (e : Instr) : (s.within d e).nextAge = s.nextAge := rfl

-- ==== arrive ====

@[simp] theorem State.arrive_now (s : State) (d : Nat) (e : Instr) : (s.arrive d e).now = s.now := rfl
@[simp] theorem State.arrive_tick (s : State) (d : Nat) (e : Instr) : (s.arrive d e).tick = s.tick := rfl
@[simp] theorem State.arrive_cur (s : State) (d : Nat) (e : Instr) : (s.arrive d e).cur = s.cur := rfl
@[simp] theorem State.arrive_snap (s : State) (d : Nat) (e : Instr) : (s.arrive d e).snap = s.snap := rfl
@[simp] theorem State.arrive_flow (s : State) (d : Nat) (e : Instr) : (s.arrive d e).flow = s.flow := rfl
@[simp] theorem State.arrive_issued (s : State) (d : Nat) (e : Instr) : (s.arrive d e).issued = s.issued := rfl
@[simp] theorem State.arrive_agenda (s : State) (d : Nat) (e : Instr) : (s.arrive d e).agenda = insertDue (s.now + d) e s.agenda := rfl
@[simp] theorem State.arrive_arg (s : State) (d : Nat) (e : Instr) : (s.arrive d e).arg = s.arg := rfl
@[simp] theorem State.arrive_mem (s : State) (d : Nat) (e : Instr) : (s.arrive d e).mem = s.mem := rfl
@[simp] theorem State.arrive_slots (s : State) (d : Nat) (e : Instr) : (s.arrive d e).slots = s.slots := rfl
@[simp] theorem State.arrive_cores (s : State) (d : Nat) (e : Instr) : (s.arrive d e).cores = s.cores := rfl
@[simp] theorem State.arrive_clusters (s : State) (d : Nat) (e : Instr) : (s.arrive d e).clusters = s.clusters := rfl
@[simp] theorem State.arrive_quads (s : State) (d : Nat) (e : Instr) : (s.arrive d e).quads = s.quads := rfl
@[simp] theorem State.arrive_slices (s : State) (d : Nat) (e : Instr) : (s.arrive d e).slices = s.slices := rfl
@[simp] theorem State.arrive_copies (s : State) (d : Nat) (e : Instr) : (s.arrive d e).copies = s.copies := rfl
@[simp] theorem State.arrive_melts (s : State) (d : Nat) (e : Instr) : (s.arrive d e).melts = s.melts := rfl
@[simp] theorem State.arrive_partials (s : State) (d : Nat) (e : Instr) : (s.arrive d e).partials = s.partials := rfl
@[simp] theorem State.arrive_replicas (s : State) (d : Nat) (e : Instr) : (s.arrive d e).replicas = s.replicas := rfl
@[simp] theorem State.arrive_walks (s : State) (d : Nat) (e : Instr) : (s.arrive d e).walks = s.walks := rfl
@[simp] theorem State.arrive_torus (s : State) (d : Nat) (e : Instr) : (s.arrive d e).torus = s.torus := rfl
@[simp] theorem State.arrive_cmds (s : State) (d : Nat) (e : Instr) : (s.arrive d e).cmds = s.cmds := rfl
@[simp] theorem State.arrive_merged (s : State) (d : Nat) (e : Instr) : (s.arrive d e).merged = s.merged := rfl
@[simp] theorem State.arrive_spent (s : State) (d : Nat) (e : Instr) : (s.arrive d e).spent = s.spent := rfl
@[simp] theorem State.arrive_barriers (s : State) (d : Nat) (e : Instr) : (s.arrive d e).barriers = s.barriers := rfl
@[simp] theorem State.arrive_contexts (s : State) (d : Nat) (e : Instr) : (s.arrive d e).contexts = s.contexts := rfl
@[simp] theorem State.arrive_parts (s : State) (d : Nat) (e : Instr) : (s.arrive d e).parts = s.parts := rfl
@[simp] theorem State.arrive_plat (s : State) (d : Nat) (e : Instr) : (s.arrive d e).plat = s.plat := rfl
@[simp] theorem State.arrive_fab (s : State) (d : Nat) (e : Instr) : (s.arrive d e).fab = s.fab := rfl
@[simp] theorem State.arrive_drift (s : State) (d : Nat) (e : Instr) : (s.arrive d e).drift = s.drift := rfl
@[simp] theorem State.arrive_engine (s : State) (d : Nat) (e : Instr) : (s.arrive d e).engine = s.engine := rfl
@[simp] theorem State.arrive_calves (s : State) (d : Nat) (e : Instr) : (s.arrive d e).calves = s.calves := rfl
@[simp] theorem State.arrive_conts (s : State) (d : Nat) (e : Instr) : (s.arrive d e).conts = s.conts := rfl
@[simp] theorem State.arrive_host (s : State) (d : Nat) (e : Instr) : (s.arrive d e).host = s.host := rfl
@[simp] theorem State.arrive_owed (s : State) (d : Nat) (e : Instr) : (s.arrive d e).owed = s.owed := rfl
@[simp] theorem State.arrive_away (s : State) (d : Nat) (e : Instr) : (s.arrive d e).away = s.away := rfl
@[simp] theorem State.arrive_saved (s : State) (d : Nat) (e : Instr) : (s.arrive d e).saved = s.saved := rfl
@[simp] theorem State.arrive_poisons (s : State) (d : Nat) (e : Instr) : (s.arrive d e).poisons = s.poisons := rfl
@[simp] theorem State.arrive_badBytes (s : State) (d : Nat) (e : Instr) : (s.arrive d e).badBytes = s.badBytes := rfl
@[simp] theorem State.arrive_nextTag (s : State) (d : Nat) (e : Instr) : (s.arrive d e).nextTag = s.nextTag := rfl
@[simp] theorem State.arrive_nextCmd (s : State) (d : Nat) (e : Instr) : (s.arrive d e).nextCmd = s.nextCmd := rfl
@[simp] theorem State.arrive_nextAge (s : State) (d : Nat) (e : Instr) : (s.arrive d e).nextAge = s.nextAge := rfl

-- ==== freeNames ====

@[simp] theorem State.freeNames_now (s : State) (p : MintEntry → Bool) : (s.freeNames p).now = s.now := rfl
@[simp] theorem State.freeNames_tick (s : State) (p : MintEntry → Bool) : (s.freeNames p).tick = s.tick := rfl
@[simp] theorem State.freeNames_cur (s : State) (p : MintEntry → Bool) : (s.freeNames p).cur = s.cur := rfl
@[simp] theorem State.freeNames_snap (s : State) (p : MintEntry → Bool) : (s.freeNames p).snap = s.snap := rfl
@[simp] theorem State.freeNames_flow (s : State) (p : MintEntry → Bool) : (s.freeNames p).flow = s.flow := rfl
@[simp] theorem State.freeNames_issued (s : State) (p : MintEntry → Bool) : (s.freeNames p).issued = s.issued := rfl
@[simp] theorem State.freeNames_agenda (s : State) (p : MintEntry → Bool) : (s.freeNames p).agenda = s.agenda := rfl
@[simp] theorem State.freeNames_arg (s : State) (p : MintEntry → Bool) : (s.freeNames p).arg = s.arg := rfl
@[simp] theorem State.freeNames_mem (s : State) (p : MintEntry → Bool) : (s.freeNames p).mem = s.mem := rfl
@[simp] theorem State.freeNames_slots (s : State) (p : MintEntry → Bool) : (s.freeNames p).slots = s.slots := rfl
@[simp] theorem State.freeNames_clusters (s : State) (p : MintEntry → Bool) : (s.freeNames p).clusters = s.clusters := rfl
@[simp] theorem State.freeNames_quads (s : State) (p : MintEntry → Bool) : (s.freeNames p).quads = s.quads := rfl
@[simp] theorem State.freeNames_slices (s : State) (p : MintEntry → Bool) : (s.freeNames p).slices = s.slices := rfl
@[simp] theorem State.freeNames_copies (s : State) (p : MintEntry → Bool) : (s.freeNames p).copies = s.copies := rfl
@[simp] theorem State.freeNames_melts (s : State) (p : MintEntry → Bool) : (s.freeNames p).melts = s.melts := rfl
@[simp] theorem State.freeNames_partials (s : State) (p : MintEntry → Bool) : (s.freeNames p).partials = s.partials := rfl
@[simp] theorem State.freeNames_replicas (s : State) (p : MintEntry → Bool) : (s.freeNames p).replicas = s.replicas := rfl
@[simp] theorem State.freeNames_walks (s : State) (p : MintEntry → Bool) : (s.freeNames p).walks = s.walks := rfl
@[simp] theorem State.freeNames_torus (s : State) (p : MintEntry → Bool) : (s.freeNames p).torus = s.torus := rfl
@[simp] theorem State.freeNames_cmds (s : State) (p : MintEntry → Bool) : (s.freeNames p).cmds = s.cmds := rfl
@[simp] theorem State.freeNames_merged (s : State) (p : MintEntry → Bool) : (s.freeNames p).merged = s.merged := rfl
@[simp] theorem State.freeNames_spent (s : State) (p : MintEntry → Bool) : (s.freeNames p).spent = s.spent := rfl
@[simp] theorem State.freeNames_barriers (s : State) (p : MintEntry → Bool) : (s.freeNames p).barriers = s.barriers := rfl
@[simp] theorem State.freeNames_contexts (s : State) (p : MintEntry → Bool) : (s.freeNames p).contexts = s.contexts := rfl
@[simp] theorem State.freeNames_parts (s : State) (p : MintEntry → Bool) : (s.freeNames p).parts = s.parts := rfl
@[simp] theorem State.freeNames_plat (s : State) (p : MintEntry → Bool) : (s.freeNames p).plat = s.plat := rfl
@[simp] theorem State.freeNames_fab (s : State) (p : MintEntry → Bool) : (s.freeNames p).fab = s.fab := rfl
@[simp] theorem State.freeNames_drift (s : State) (p : MintEntry → Bool) : (s.freeNames p).drift = s.drift := rfl
@[simp] theorem State.freeNames_engine (s : State) (p : MintEntry → Bool) : (s.freeNames p).engine = s.engine := rfl
@[simp] theorem State.freeNames_calves (s : State) (p : MintEntry → Bool) : (s.freeNames p).calves = s.calves := rfl
@[simp] theorem State.freeNames_conts (s : State) (p : MintEntry → Bool) : (s.freeNames p).conts = s.conts := rfl
@[simp] theorem State.freeNames_host (s : State) (p : MintEntry → Bool) : (s.freeNames p).host = s.host := rfl
@[simp] theorem State.freeNames_owed (s : State) (p : MintEntry → Bool) : (s.freeNames p).owed = s.owed := rfl
@[simp] theorem State.freeNames_away (s : State) (p : MintEntry → Bool) : (s.freeNames p).away = s.away := rfl
@[simp] theorem State.freeNames_saved (s : State) (p : MintEntry → Bool) : (s.freeNames p).saved = s.saved := rfl
@[simp] theorem State.freeNames_poisons (s : State) (p : MintEntry → Bool) : (s.freeNames p).poisons = s.poisons := rfl
@[simp] theorem State.freeNames_badBytes (s : State) (p : MintEntry → Bool) : (s.freeNames p).badBytes = s.badBytes := rfl
@[simp] theorem State.freeNames_nextTag (s : State) (p : MintEntry → Bool) : (s.freeNames p).nextTag = s.nextTag := rfl
@[simp] theorem State.freeNames_nextCmd (s : State) (p : MintEntry → Bool) : (s.freeNames p).nextCmd = s.nextCmd := rfl
@[simp] theorem State.freeNames_nextAge (s : State) (p : MintEntry → Bool) : (s.freeNames p).nextAge = s.nextAge := rfl

-- ==== freeRegName ====

@[simp] theorem State.freeRegName_now (s : State) (u r : Nat) : (s.freeRegName u r).now = s.now := rfl
@[simp] theorem State.freeRegName_tick (s : State) (u r : Nat) : (s.freeRegName u r).tick = s.tick := rfl
@[simp] theorem State.freeRegName_cur (s : State) (u r : Nat) : (s.freeRegName u r).cur = s.cur := rfl
@[simp] theorem State.freeRegName_snap (s : State) (u r : Nat) : (s.freeRegName u r).snap = s.snap := rfl
@[simp] theorem State.freeRegName_flow (s : State) (u r : Nat) : (s.freeRegName u r).flow = s.flow := rfl
@[simp] theorem State.freeRegName_issued (s : State) (u r : Nat) : (s.freeRegName u r).issued = s.issued := rfl
@[simp] theorem State.freeRegName_agenda (s : State) (u r : Nat) : (s.freeRegName u r).agenda = s.agenda := rfl
@[simp] theorem State.freeRegName_arg (s : State) (u r : Nat) : (s.freeRegName u r).arg = s.arg := rfl
@[simp] theorem State.freeRegName_mem (s : State) (u r : Nat) : (s.freeRegName u r).mem = s.mem := rfl
@[simp] theorem State.freeRegName_slots (s : State) (u r : Nat) : (s.freeRegName u r).slots = s.slots := rfl
@[simp] theorem State.freeRegName_clusters (s : State) (u r : Nat) : (s.freeRegName u r).clusters = s.clusters := rfl
@[simp] theorem State.freeRegName_quads (s : State) (u r : Nat) : (s.freeRegName u r).quads = s.quads := rfl
@[simp] theorem State.freeRegName_slices (s : State) (u r : Nat) : (s.freeRegName u r).slices = s.slices := rfl
@[simp] theorem State.freeRegName_copies (s : State) (u r : Nat) : (s.freeRegName u r).copies = s.copies := rfl
@[simp] theorem State.freeRegName_melts (s : State) (u r : Nat) : (s.freeRegName u r).melts = s.melts := rfl
@[simp] theorem State.freeRegName_partials (s : State) (u r : Nat) : (s.freeRegName u r).partials = s.partials := rfl
@[simp] theorem State.freeRegName_replicas (s : State) (u r : Nat) : (s.freeRegName u r).replicas = s.replicas := rfl
@[simp] theorem State.freeRegName_walks (s : State) (u r : Nat) : (s.freeRegName u r).walks = s.walks := rfl
@[simp] theorem State.freeRegName_torus (s : State) (u r : Nat) : (s.freeRegName u r).torus = s.torus := rfl
@[simp] theorem State.freeRegName_cmds (s : State) (u r : Nat) : (s.freeRegName u r).cmds = s.cmds := rfl
@[simp] theorem State.freeRegName_merged (s : State) (u r : Nat) : (s.freeRegName u r).merged = s.merged := rfl
@[simp] theorem State.freeRegName_spent (s : State) (u r : Nat) : (s.freeRegName u r).spent = s.spent := rfl
@[simp] theorem State.freeRegName_barriers (s : State) (u r : Nat) : (s.freeRegName u r).barriers = s.barriers := rfl
@[simp] theorem State.freeRegName_contexts (s : State) (u r : Nat) : (s.freeRegName u r).contexts = s.contexts := rfl
@[simp] theorem State.freeRegName_parts (s : State) (u r : Nat) : (s.freeRegName u r).parts = s.parts := rfl
@[simp] theorem State.freeRegName_plat (s : State) (u r : Nat) : (s.freeRegName u r).plat = s.plat := rfl
@[simp] theorem State.freeRegName_fab (s : State) (u r : Nat) : (s.freeRegName u r).fab = s.fab := rfl
@[simp] theorem State.freeRegName_drift (s : State) (u r : Nat) : (s.freeRegName u r).drift = s.drift := rfl
@[simp] theorem State.freeRegName_engine (s : State) (u r : Nat) : (s.freeRegName u r).engine = s.engine := rfl
@[simp] theorem State.freeRegName_calves (s : State) (u r : Nat) : (s.freeRegName u r).calves = s.calves := rfl
@[simp] theorem State.freeRegName_conts (s : State) (u r : Nat) : (s.freeRegName u r).conts = s.conts := rfl
@[simp] theorem State.freeRegName_host (s : State) (u r : Nat) : (s.freeRegName u r).host = s.host := rfl
@[simp] theorem State.freeRegName_owed (s : State) (u r : Nat) : (s.freeRegName u r).owed = s.owed := rfl
@[simp] theorem State.freeRegName_away (s : State) (u r : Nat) : (s.freeRegName u r).away = s.away := rfl
@[simp] theorem State.freeRegName_saved (s : State) (u r : Nat) : (s.freeRegName u r).saved = s.saved := rfl
@[simp] theorem State.freeRegName_poisons (s : State) (u r : Nat) : (s.freeRegName u r).poisons = s.poisons := rfl
@[simp] theorem State.freeRegName_badBytes (s : State) (u r : Nat) : (s.freeRegName u r).badBytes = s.badBytes := rfl
@[simp] theorem State.freeRegName_nextTag (s : State) (u r : Nat) : (s.freeRegName u r).nextTag = s.nextTag := rfl
@[simp] theorem State.freeRegName_nextCmd (s : State) (u r : Nat) : (s.freeRegName u r).nextCmd = s.nextCmd := rfl
@[simp] theorem State.freeRegName_nextAge (s : State) (u r : Nat) : (s.freeRegName u r).nextAge = s.nextAge := rfl

-- ==== putReg ====

@[simp] theorem Slot.putReg_phase (t : Slot) (n : Reg) (c : RegCell) : (t.putReg n c).phase = t.phase := by
  unfold Slot.putReg; split <;> rfl
@[simp] theorem Slot.putReg_id (t : Slot) (n : Reg) (c : RegCell) : (t.putReg n c).id = t.id := by
  unfold Slot.putReg; split <;> rfl
@[simp] theorem Slot.putReg_incoming (t : Slot) (n : Reg) (c : RegCell) : (t.putReg n c).incoming = t.incoming := by
  unfold Slot.putReg; split <;> rfl
@[simp] theorem Slot.putReg_handles (t : Slot) (n : Reg) (c : RegCell) : (t.putReg n c).handles = t.handles := by
  unfold Slot.putReg; split <;> rfl
@[simp] theorem Slot.putReg_rets (t : Slot) (n : Reg) (c : RegCell) : (t.putReg n c).rets = t.rets := by
  unfold Slot.putReg; split <;> rfl
@[simp] theorem Slot.putReg_depth (t : Slot) (n : Reg) (c : RegCell) : (t.putReg n c).depth = t.depth := by
  unfold Slot.putReg; split <;> rfl
@[simp] theorem Slot.putReg_oldest (t : Slot) (n : Reg) (c : RegCell) : (t.putReg n c).oldest = t.oldest := by
  unfold Slot.putReg; split <;> rfl
@[simp] theorem Slot.putReg_pc (t : Slot) (n : Reg) (c : RegCell) : (t.putReg n c).pc = t.pc := by
  unfold Slot.putReg; split <;> rfl
@[simp] theorem Slot.putReg_pw (t : Slot) (n : Reg) (c : RegCell) : (t.putReg n c).pw = t.pw := by
  unfold Slot.putReg; split <;> rfl
@[simp] theorem Slot.putReg_fmt (t : Slot) (n : Reg) (c : RegCell) : (t.putReg n c).fmt = t.fmt := by
  unfold Slot.putReg; split <;> rfl
@[simp] theorem Slot.putReg_status (t : Slot) (n : Reg) (c : RegCell) : (t.putReg n c).status = t.status := by
  unfold Slot.putReg; split <;> rfl
@[simp] theorem Slot.putReg_pri (t : Slot) (n : Reg) (c : RegCell) : (t.putReg n c).pri = t.pri := by
  unfold Slot.putReg; split <;> rfl
@[simp] theorem Slot.putReg_msgdst (t : Slot) (n : Reg) (c : RegCell) : (t.putReg n c).msgdst = t.msgdst := by
  unfold Slot.putReg; split <;> rfl
@[simp] theorem Slot.putReg_msgsrc (t : Slot) (n : Reg) (c : RegCell) : (t.putReg n c).msgsrc = t.msgsrc := by
  unfold Slot.putReg; split <;> rfl
@[simp] theorem Slot.putReg_tvec (t : Slot) (n : Reg) (c : RegCell) : (t.putReg n c).tvec = t.tvec := by
  unfold Slot.putReg; split <;> rfl
@[simp] theorem Slot.putReg_bank1 (t : Slot) (n : Reg) (c : RegCell) : (t.putReg n c).bank1 = t.bank1 := by
  unfold Slot.putReg; split <;> rfl
@[simp] theorem Slot.putReg_bank2 (t : Slot) (n : Reg) (c : RegCell) : (t.putReg n c).bank2 = t.bank2 := by
  unfold Slot.putReg; split <;> rfl
@[simp] theorem Slot.putReg_uint (t : Slot) (n : Reg) (c : RegCell) : (t.putReg n c).uint = t.uint := by
  unfold Slot.putReg; split <;> rfl
@[simp] theorem Slot.putReg_front (t : Slot) (n : Reg) (c : RegCell) : (t.putReg n c).front = t.front := by
  unfold Slot.putReg; split <;> rfl
@[simp] theorem Slot.putReg_pend (t : Slot) (n : Reg) (c : RegCell) : (t.putReg n c).pend = t.pend := by
  unfold Slot.putReg; split <;> rfl

-- ==== putAbs ====

@[simp] theorem Slot.putAbs_phase (t : Slot) (n : Nat) (c : RegCell) : (t.putAbs n c).phase = t.phase := by
  unfold Slot.putAbs; split <;> rfl
@[simp] theorem Slot.putAbs_id (t : Slot) (n : Nat) (c : RegCell) : (t.putAbs n c).id = t.id := by
  unfold Slot.putAbs; split <;> rfl
@[simp] theorem Slot.putAbs_incoming (t : Slot) (n : Nat) (c : RegCell) : (t.putAbs n c).incoming = t.incoming := by
  unfold Slot.putAbs; split <;> rfl
@[simp] theorem Slot.putAbs_handles (t : Slot) (n : Nat) (c : RegCell) : (t.putAbs n c).handles = t.handles := by
  unfold Slot.putAbs; split <;> rfl
@[simp] theorem Slot.putAbs_rets (t : Slot) (n : Nat) (c : RegCell) : (t.putAbs n c).rets = t.rets := by
  unfold Slot.putAbs; split <;> rfl
@[simp] theorem Slot.putAbs_depth (t : Slot) (n : Nat) (c : RegCell) : (t.putAbs n c).depth = t.depth := by
  unfold Slot.putAbs; split <;> rfl
@[simp] theorem Slot.putAbs_oldest (t : Slot) (n : Nat) (c : RegCell) : (t.putAbs n c).oldest = t.oldest := by
  unfold Slot.putAbs; split <;> rfl
@[simp] theorem Slot.putAbs_pc (t : Slot) (n : Nat) (c : RegCell) : (t.putAbs n c).pc = t.pc := by
  unfold Slot.putAbs; split <;> rfl
@[simp] theorem Slot.putAbs_pw (t : Slot) (n : Nat) (c : RegCell) : (t.putAbs n c).pw = t.pw := by
  unfold Slot.putAbs; split <;> rfl
@[simp] theorem Slot.putAbs_fmt (t : Slot) (n : Nat) (c : RegCell) : (t.putAbs n c).fmt = t.fmt := by
  unfold Slot.putAbs; split <;> rfl
@[simp] theorem Slot.putAbs_status (t : Slot) (n : Nat) (c : RegCell) : (t.putAbs n c).status = t.status := by
  unfold Slot.putAbs; split <;> rfl
@[simp] theorem Slot.putAbs_pri (t : Slot) (n : Nat) (c : RegCell) : (t.putAbs n c).pri = t.pri := by
  unfold Slot.putAbs; split <;> rfl
@[simp] theorem Slot.putAbs_msgdst (t : Slot) (n : Nat) (c : RegCell) : (t.putAbs n c).msgdst = t.msgdst := by
  unfold Slot.putAbs; split <;> rfl
@[simp] theorem Slot.putAbs_msgsrc (t : Slot) (n : Nat) (c : RegCell) : (t.putAbs n c).msgsrc = t.msgsrc := by
  unfold Slot.putAbs; split <;> rfl
@[simp] theorem Slot.putAbs_tvec (t : Slot) (n : Nat) (c : RegCell) : (t.putAbs n c).tvec = t.tvec := by
  unfold Slot.putAbs; split <;> rfl
@[simp] theorem Slot.putAbs_bank1 (t : Slot) (n : Nat) (c : RegCell) : (t.putAbs n c).bank1 = t.bank1 := by
  unfold Slot.putAbs; split <;> rfl
@[simp] theorem Slot.putAbs_bank2 (t : Slot) (n : Nat) (c : RegCell) : (t.putAbs n c).bank2 = t.bank2 := by
  unfold Slot.putAbs; split <;> rfl
@[simp] theorem Slot.putAbs_uint (t : Slot) (n : Nat) (c : RegCell) : (t.putAbs n c).uint = t.uint := by
  unfold Slot.putAbs; split <;> rfl
@[simp] theorem Slot.putAbs_front (t : Slot) (n : Nat) (c : RegCell) : (t.putAbs n c).front = t.front := by
  unfold Slot.putAbs; split <;> rfl
@[simp] theorem Slot.putAbs_pend (t : Slot) (n : Nat) (c : RegCell) : (t.putAbs n c).pend = t.pend := by
  unfold Slot.putAbs; split <;> rfl

-- ==== putHandle ====

@[simp] theorem Slot.putHandle_phase (t : Slot) (n : HReg) (c : HCell) : (t.putHandle n c).phase = t.phase := by
  unfold Slot.putHandle; split <;> rfl
@[simp] theorem Slot.putHandle_id (t : Slot) (n : HReg) (c : HCell) : (t.putHandle n c).id = t.id := by
  unfold Slot.putHandle; split <;> rfl
@[simp] theorem Slot.putHandle_incoming (t : Slot) (n : HReg) (c : HCell) : (t.putHandle n c).incoming = t.incoming := by
  unfold Slot.putHandle; split <;> rfl
@[simp] theorem Slot.putHandle_regs (t : Slot) (n : HReg) (c : HCell) : (t.putHandle n c).regs = t.regs := by
  unfold Slot.putHandle; split <;> rfl
@[simp] theorem Slot.putHandle_rets (t : Slot) (n : HReg) (c : HCell) : (t.putHandle n c).rets = t.rets := by
  unfold Slot.putHandle; split <;> rfl
@[simp] theorem Slot.putHandle_depth (t : Slot) (n : HReg) (c : HCell) : (t.putHandle n c).depth = t.depth := by
  unfold Slot.putHandle; split <;> rfl
@[simp] theorem Slot.putHandle_oldest (t : Slot) (n : HReg) (c : HCell) : (t.putHandle n c).oldest = t.oldest := by
  unfold Slot.putHandle; split <;> rfl
@[simp] theorem Slot.putHandle_pc (t : Slot) (n : HReg) (c : HCell) : (t.putHandle n c).pc = t.pc := by
  unfold Slot.putHandle; split <;> rfl
@[simp] theorem Slot.putHandle_pw (t : Slot) (n : HReg) (c : HCell) : (t.putHandle n c).pw = t.pw := by
  unfold Slot.putHandle; split <;> rfl
@[simp] theorem Slot.putHandle_fmt (t : Slot) (n : HReg) (c : HCell) : (t.putHandle n c).fmt = t.fmt := by
  unfold Slot.putHandle; split <;> rfl
@[simp] theorem Slot.putHandle_status (t : Slot) (n : HReg) (c : HCell) : (t.putHandle n c).status = t.status := by
  unfold Slot.putHandle; split <;> rfl
@[simp] theorem Slot.putHandle_pri (t : Slot) (n : HReg) (c : HCell) : (t.putHandle n c).pri = t.pri := by
  unfold Slot.putHandle; split <;> rfl
@[simp] theorem Slot.putHandle_msgdst (t : Slot) (n : HReg) (c : HCell) : (t.putHandle n c).msgdst = t.msgdst := by
  unfold Slot.putHandle; split <;> rfl
@[simp] theorem Slot.putHandle_msgsrc (t : Slot) (n : HReg) (c : HCell) : (t.putHandle n c).msgsrc = t.msgsrc := by
  unfold Slot.putHandle; split <;> rfl
@[simp] theorem Slot.putHandle_tvec (t : Slot) (n : HReg) (c : HCell) : (t.putHandle n c).tvec = t.tvec := by
  unfold Slot.putHandle; split <;> rfl
@[simp] theorem Slot.putHandle_bank1 (t : Slot) (n : HReg) (c : HCell) : (t.putHandle n c).bank1 = t.bank1 := by
  unfold Slot.putHandle; split <;> rfl
@[simp] theorem Slot.putHandle_bank2 (t : Slot) (n : HReg) (c : HCell) : (t.putHandle n c).bank2 = t.bank2 := by
  unfold Slot.putHandle; split <;> rfl
@[simp] theorem Slot.putHandle_uint (t : Slot) (n : HReg) (c : HCell) : (t.putHandle n c).uint = t.uint := by
  unfold Slot.putHandle; split <;> rfl
@[simp] theorem Slot.putHandle_front (t : Slot) (n : HReg) (c : HCell) : (t.putHandle n c).front = t.front := by
  unfold Slot.putHandle; split <;> rfl
@[simp] theorem Slot.putHandle_pend (t : Slot) (n : HReg) (c : HCell) : (t.putHandle n c).pend = t.pend := by
  unfold Slot.putHandle; split <;> rfl

-- ==== putPred ====

@[simp] theorem Slot.putPred_phase (t : Slot) (n : PReg) (b : Bool) : (t.putPred n b).phase = t.phase := by
  unfold Slot.putPred; split <;> rfl
@[simp] theorem Slot.putPred_id (t : Slot) (n : PReg) (b : Bool) : (t.putPred n b).id = t.id := by
  unfold Slot.putPred; split <;> rfl
@[simp] theorem Slot.putPred_incoming (t : Slot) (n : PReg) (b : Bool) : (t.putPred n b).incoming = t.incoming := by
  unfold Slot.putPred; split <;> rfl
@[simp] theorem Slot.putPred_regs (t : Slot) (n : PReg) (b : Bool) : (t.putPred n b).regs = t.regs := by
  unfold Slot.putPred; split <;> rfl
@[simp] theorem Slot.putPred_handles (t : Slot) (n : PReg) (b : Bool) : (t.putPred n b).handles = t.handles := by
  unfold Slot.putPred; split <;> rfl
@[simp] theorem Slot.putPred_rets (t : Slot) (n : PReg) (b : Bool) : (t.putPred n b).rets = t.rets := by
  unfold Slot.putPred; split <;> rfl
@[simp] theorem Slot.putPred_depth (t : Slot) (n : PReg) (b : Bool) : (t.putPred n b).depth = t.depth := by
  unfold Slot.putPred; split <;> rfl
@[simp] theorem Slot.putPred_oldest (t : Slot) (n : PReg) (b : Bool) : (t.putPred n b).oldest = t.oldest := by
  unfold Slot.putPred; split <;> rfl
@[simp] theorem Slot.putPred_pc (t : Slot) (n : PReg) (b : Bool) : (t.putPred n b).pc = t.pc := by
  unfold Slot.putPred; split <;> rfl
@[simp] theorem Slot.putPred_fmt (t : Slot) (n : PReg) (b : Bool) : (t.putPred n b).fmt = t.fmt := by
  unfold Slot.putPred; split <;> rfl
@[simp] theorem Slot.putPred_status (t : Slot) (n : PReg) (b : Bool) : (t.putPred n b).status = t.status := by
  unfold Slot.putPred; split <;> rfl
@[simp] theorem Slot.putPred_pri (t : Slot) (n : PReg) (b : Bool) : (t.putPred n b).pri = t.pri := by
  unfold Slot.putPred; split <;> rfl
@[simp] theorem Slot.putPred_msgdst (t : Slot) (n : PReg) (b : Bool) : (t.putPred n b).msgdst = t.msgdst := by
  unfold Slot.putPred; split <;> rfl
@[simp] theorem Slot.putPred_msgsrc (t : Slot) (n : PReg) (b : Bool) : (t.putPred n b).msgsrc = t.msgsrc := by
  unfold Slot.putPred; split <;> rfl
@[simp] theorem Slot.putPred_tvec (t : Slot) (n : PReg) (b : Bool) : (t.putPred n b).tvec = t.tvec := by
  unfold Slot.putPred; split <;> rfl
@[simp] theorem Slot.putPred_bank1 (t : Slot) (n : PReg) (b : Bool) : (t.putPred n b).bank1 = t.bank1 := by
  unfold Slot.putPred; split <;> rfl
@[simp] theorem Slot.putPred_bank2 (t : Slot) (n : PReg) (b : Bool) : (t.putPred n b).bank2 = t.bank2 := by
  unfold Slot.putPred; split <;> rfl
@[simp] theorem Slot.putPred_uint (t : Slot) (n : PReg) (b : Bool) : (t.putPred n b).uint = t.uint := by
  unfold Slot.putPred; split <;> rfl
@[simp] theorem Slot.putPred_front (t : Slot) (n : PReg) (b : Bool) : (t.putPred n b).front = t.front := by
  unfold Slot.putPred; split <;> rfl
@[simp] theorem Slot.putPred_pend (t : Slot) (n : PReg) (b : Bool) : (t.putPred n b).pend = t.pend := by
  unfold Slot.putPred; split <;> rfl

-- ==== enterTrap ====

@[simp] theorem Slot.enterTrap_phase (t : Slot) (c d : Nat) (v : Word) : (t.enterTrap c d v).phase = t.phase := rfl
@[simp] theorem Slot.enterTrap_id (t : Slot) (c d : Nat) (v : Word) : (t.enterTrap c d v).id = t.id := rfl
@[simp] theorem Slot.enterTrap_incoming (t : Slot) (c d : Nat) (v : Word) : (t.enterTrap c d v).incoming = t.incoming := rfl
@[simp] theorem Slot.enterTrap_regs (t : Slot) (c d : Nat) (v : Word) : (t.enterTrap c d v).regs = t.regs := rfl
@[simp] theorem Slot.enterTrap_handles (t : Slot) (c d : Nat) (v : Word) : (t.enterTrap c d v).handles = t.handles := rfl
@[simp] theorem Slot.enterTrap_rets (t : Slot) (c d : Nat) (v : Word) : (t.enterTrap c d v).rets = t.rets := rfl
@[simp] theorem Slot.enterTrap_depth (t : Slot) (c d : Nat) (v : Word) : (t.enterTrap c d v).depth = t.depth := rfl
@[simp] theorem Slot.enterTrap_oldest (t : Slot) (c d : Nat) (v : Word) : (t.enterTrap c d v).oldest = t.oldest := rfl
@[simp] theorem Slot.enterTrap_pw (t : Slot) (c d : Nat) (v : Word) : (t.enterTrap c d v).pw = t.pw := rfl
@[simp] theorem Slot.enterTrap_fmt (t : Slot) (c d : Nat) (v : Word) : (t.enterTrap c d v).fmt = t.fmt := rfl
@[simp] theorem Slot.enterTrap_pri (t : Slot) (c d : Nat) (v : Word) : (t.enterTrap c d v).pri = t.pri := rfl
@[simp] theorem Slot.enterTrap_msgdst (t : Slot) (c d : Nat) (v : Word) : (t.enterTrap c d v).msgdst = t.msgdst := rfl
@[simp] theorem Slot.enterTrap_msgsrc (t : Slot) (c d : Nat) (v : Word) : (t.enterTrap c d v).msgsrc = t.msgsrc := rfl
@[simp] theorem Slot.enterTrap_tvec (t : Slot) (c d : Nat) (v : Word) : (t.enterTrap c d v).tvec = t.tvec := rfl
@[simp] theorem Slot.enterTrap_uint (t : Slot) (c d : Nat) (v : Word) : (t.enterTrap c d v).uint = t.uint := rfl
@[simp] theorem Slot.enterTrap_front (t : Slot) (c d : Nat) (v : Word) : (t.enterTrap c d v).front = t.front := rfl
@[simp] theorem Slot.enterTrap_pend (t : Slot) (c d : Nat) (v : Word) : (t.enterTrap c d v).pend = t.pend := rfl

-- ==== leaveTrap ====

@[simp] theorem Slot.leaveTrap_phase (t : Slot)  : (t.leaveTrap).phase = t.phase := rfl
@[simp] theorem Slot.leaveTrap_id (t : Slot)  : (t.leaveTrap).id = t.id := rfl
@[simp] theorem Slot.leaveTrap_incoming (t : Slot)  : (t.leaveTrap).incoming = t.incoming := rfl
@[simp] theorem Slot.leaveTrap_regs (t : Slot)  : (t.leaveTrap).regs = t.regs := rfl
@[simp] theorem Slot.leaveTrap_handles (t : Slot)  : (t.leaveTrap).handles = t.handles := rfl
@[simp] theorem Slot.leaveTrap_rets (t : Slot)  : (t.leaveTrap).rets = t.rets := rfl
@[simp] theorem Slot.leaveTrap_depth (t : Slot)  : (t.leaveTrap).depth = t.depth := rfl
@[simp] theorem Slot.leaveTrap_oldest (t : Slot)  : (t.leaveTrap).oldest = t.oldest := rfl
@[simp] theorem Slot.leaveTrap_pw (t : Slot)  : (t.leaveTrap).pw = t.pw := rfl
@[simp] theorem Slot.leaveTrap_fmt (t : Slot)  : (t.leaveTrap).fmt = t.fmt := rfl
@[simp] theorem Slot.leaveTrap_pri (t : Slot)  : (t.leaveTrap).pri = t.pri := rfl
@[simp] theorem Slot.leaveTrap_msgdst (t : Slot)  : (t.leaveTrap).msgdst = t.msgdst := rfl
@[simp] theorem Slot.leaveTrap_msgsrc (t : Slot)  : (t.leaveTrap).msgsrc = t.msgsrc := rfl
@[simp] theorem Slot.leaveTrap_tvec (t : Slot)  : (t.leaveTrap).tvec = t.tvec := rfl
@[simp] theorem Slot.leaveTrap_bank1 (t : Slot)  : (t.leaveTrap).bank1 = t.bank1 := rfl
@[simp] theorem Slot.leaveTrap_bank2 (t : Slot)  : (t.leaveTrap).bank2 = t.bank2 := rfl
@[simp] theorem Slot.leaveTrap_uint (t : Slot)  : (t.leaveTrap).uint = t.uint := rfl
@[simp] theorem Slot.leaveTrap_front (t : Slot)  : (t.leaveTrap).front = t.front := rfl
@[simp] theorem Slot.leaveTrap_pend (t : Slot)  : (t.leaveTrap).pend = t.pend := rfl

-- ==== writeReg ====

@[simp] theorem State.writeReg_now (s : State) (d : Reg) (v : Word) : (s.writeReg d v).now = s.now := by
  simp only [State.writeReg, State.modMe_now]; split <;> rfl
@[simp] theorem State.writeReg_tick (s : State) (d : Reg) (v : Word) : (s.writeReg d v).tick = s.tick := by
  simp only [State.writeReg, State.modMe_tick]; split <;> rfl
@[simp] theorem State.writeReg_cur (s : State) (d : Reg) (v : Word) : (s.writeReg d v).cur = s.cur := by
  simp only [State.writeReg, State.modMe_cur]; split <;> rfl
@[simp] theorem State.writeReg_snap (s : State) (d : Reg) (v : Word) : (s.writeReg d v).snap = s.snap := by
  simp only [State.writeReg, State.modMe_snap]; split <;> rfl
@[simp] theorem State.writeReg_flow (s : State) (d : Reg) (v : Word) : (s.writeReg d v).flow = s.flow := by
  simp only [State.writeReg, State.modMe_flow]; split <;> rfl
@[simp] theorem State.writeReg_issued (s : State) (d : Reg) (v : Word) : (s.writeReg d v).issued = s.issued := by
  simp only [State.writeReg, State.modMe_issued]; split <;> rfl
@[simp] theorem State.writeReg_agenda (s : State) (d : Reg) (v : Word) : (s.writeReg d v).agenda = s.agenda := by
  simp only [State.writeReg, State.modMe_agenda]; split <;> rfl
@[simp] theorem State.writeReg_arg (s : State) (d : Reg) (v : Word) : (s.writeReg d v).arg = s.arg := by
  simp only [State.writeReg, State.modMe_arg]; split <;> rfl
@[simp] theorem State.writeReg_mem (s : State) (d : Reg) (v : Word) : (s.writeReg d v).mem = s.mem := by
  simp only [State.writeReg, State.modMe_mem]; split <;> rfl
@[simp] theorem State.writeReg_clusters (s : State) (d : Reg) (v : Word) : (s.writeReg d v).clusters = s.clusters := by
  simp only [State.writeReg, State.modMe_clusters]; split <;> rfl
@[simp] theorem State.writeReg_quads (s : State) (d : Reg) (v : Word) : (s.writeReg d v).quads = s.quads := by
  simp only [State.writeReg, State.modMe_quads]; split <;> rfl
@[simp] theorem State.writeReg_slices (s : State) (d : Reg) (v : Word) : (s.writeReg d v).slices = s.slices := by
  simp only [State.writeReg, State.modMe_slices]; split <;> rfl
@[simp] theorem State.writeReg_copies (s : State) (d : Reg) (v : Word) : (s.writeReg d v).copies = s.copies := by
  simp only [State.writeReg, State.modMe_copies]; split <;> rfl
@[simp] theorem State.writeReg_melts (s : State) (d : Reg) (v : Word) : (s.writeReg d v).melts = s.melts := by
  simp only [State.writeReg, State.modMe_melts]; split <;> rfl
@[simp] theorem State.writeReg_partials (s : State) (d : Reg) (v : Word) : (s.writeReg d v).partials = s.partials := by
  simp only [State.writeReg, State.modMe_partials]; split <;> rfl
@[simp] theorem State.writeReg_replicas (s : State) (d : Reg) (v : Word) : (s.writeReg d v).replicas = s.replicas := by
  simp only [State.writeReg, State.modMe_replicas]; split <;> rfl
@[simp] theorem State.writeReg_walks (s : State) (d : Reg) (v : Word) : (s.writeReg d v).walks = s.walks := by
  simp only [State.writeReg, State.modMe_walks]; split <;> rfl
@[simp] theorem State.writeReg_torus (s : State) (d : Reg) (v : Word) : (s.writeReg d v).torus = s.torus := by
  simp only [State.writeReg, State.modMe_torus]; split <;> rfl
@[simp] theorem State.writeReg_cmds (s : State) (d : Reg) (v : Word) : (s.writeReg d v).cmds = s.cmds := by
  simp only [State.writeReg, State.modMe_cmds]; split <;> rfl
@[simp] theorem State.writeReg_merged (s : State) (d : Reg) (v : Word) : (s.writeReg d v).merged = s.merged := by
  simp only [State.writeReg, State.modMe_merged]; split <;> rfl
@[simp] theorem State.writeReg_spent (s : State) (d : Reg) (v : Word) : (s.writeReg d v).spent = s.spent := by
  simp only [State.writeReg, State.modMe_spent]; split <;> rfl
@[simp] theorem State.writeReg_barriers (s : State) (d : Reg) (v : Word) : (s.writeReg d v).barriers = s.barriers := by
  simp only [State.writeReg, State.modMe_barriers]; split <;> rfl
@[simp] theorem State.writeReg_contexts (s : State) (d : Reg) (v : Word) : (s.writeReg d v).contexts = s.contexts := by
  simp only [State.writeReg, State.modMe_contexts]; split <;> rfl
@[simp] theorem State.writeReg_parts (s : State) (d : Reg) (v : Word) : (s.writeReg d v).parts = s.parts := by
  simp only [State.writeReg, State.modMe_parts]; split <;> rfl
@[simp] theorem State.writeReg_plat (s : State) (d : Reg) (v : Word) : (s.writeReg d v).plat = s.plat := by
  simp only [State.writeReg, State.modMe_plat]; split <;> rfl
@[simp] theorem State.writeReg_fab (s : State) (d : Reg) (v : Word) : (s.writeReg d v).fab = s.fab := by
  simp only [State.writeReg, State.modMe_fab]; split <;> rfl
@[simp] theorem State.writeReg_drift (s : State) (d : Reg) (v : Word) : (s.writeReg d v).drift = s.drift := by
  simp only [State.writeReg, State.modMe_drift]; split <;> rfl
@[simp] theorem State.writeReg_engine (s : State) (d : Reg) (v : Word) : (s.writeReg d v).engine = s.engine := by
  simp only [State.writeReg, State.modMe_engine]; split <;> rfl
@[simp] theorem State.writeReg_calves (s : State) (d : Reg) (v : Word) : (s.writeReg d v).calves = s.calves := by
  simp only [State.writeReg, State.modMe_calves]; split <;> rfl
@[simp] theorem State.writeReg_conts (s : State) (d : Reg) (v : Word) : (s.writeReg d v).conts = s.conts := by
  simp only [State.writeReg, State.modMe_conts]; split <;> rfl
@[simp] theorem State.writeReg_host (s : State) (d : Reg) (v : Word) : (s.writeReg d v).host = s.host := by
  simp only [State.writeReg, State.modMe_host]; split <;> rfl
@[simp] theorem State.writeReg_owed (s : State) (d : Reg) (v : Word) : (s.writeReg d v).owed = s.owed := by
  simp only [State.writeReg, State.modMe_owed]; split <;> rfl
@[simp] theorem State.writeReg_away (s : State) (d : Reg) (v : Word) : (s.writeReg d v).away = s.away := by
  simp only [State.writeReg, State.modMe_away]; split <;> rfl
@[simp] theorem State.writeReg_saved (s : State) (d : Reg) (v : Word) : (s.writeReg d v).saved = s.saved := by
  simp only [State.writeReg, State.modMe_saved]; split <;> rfl
@[simp] theorem State.writeReg_poisons (s : State) (d : Reg) (v : Word) : (s.writeReg d v).poisons = s.poisons := by
  simp only [State.writeReg, State.modMe_poisons]; split <;> rfl
@[simp] theorem State.writeReg_badBytes (s : State) (d : Reg) (v : Word) : (s.writeReg d v).badBytes = s.badBytes := by
  simp only [State.writeReg, State.modMe_badBytes]; split <;> rfl
@[simp] theorem State.writeReg_nextTag (s : State) (d : Reg) (v : Word) : (s.writeReg d v).nextTag = s.nextTag := by
  simp only [State.writeReg, State.modMe_nextTag]; split <;> rfl
@[simp] theorem State.writeReg_nextCmd (s : State) (d : Reg) (v : Word) : (s.writeReg d v).nextCmd = s.nextCmd := by
  simp only [State.writeReg, State.modMe_nextCmd]; split <;> rfl
@[simp] theorem State.writeReg_nextAge (s : State) (d : Reg) (v : Word) : (s.writeReg d v).nextAge = s.nextAge := by
  simp only [State.writeReg, State.modMe_nextAge]; split <;> rfl

-- ==== writePred ====

@[simp] theorem State.writePred_now (s : State) (d : PReg) (v : Bool) : (s.writePred d v).now = s.now := rfl
@[simp] theorem State.writePred_tick (s : State) (d : PReg) (v : Bool) : (s.writePred d v).tick = s.tick := rfl
@[simp] theorem State.writePred_cur (s : State) (d : PReg) (v : Bool) : (s.writePred d v).cur = s.cur := rfl
@[simp] theorem State.writePred_snap (s : State) (d : PReg) (v : Bool) : (s.writePred d v).snap = s.snap := rfl
@[simp] theorem State.writePred_flow (s : State) (d : PReg) (v : Bool) : (s.writePred d v).flow = s.flow := rfl
@[simp] theorem State.writePred_issued (s : State) (d : PReg) (v : Bool) : (s.writePred d v).issued = s.issued := rfl
@[simp] theorem State.writePred_agenda (s : State) (d : PReg) (v : Bool) : (s.writePred d v).agenda = s.agenda := rfl
@[simp] theorem State.writePred_arg (s : State) (d : PReg) (v : Bool) : (s.writePred d v).arg = s.arg := rfl
@[simp] theorem State.writePred_mem (s : State) (d : PReg) (v : Bool) : (s.writePred d v).mem = s.mem := rfl
@[simp] theorem State.writePred_cores (s : State) (d : PReg) (v : Bool) : (s.writePred d v).cores = s.cores := rfl
@[simp] theorem State.writePred_clusters (s : State) (d : PReg) (v : Bool) : (s.writePred d v).clusters = s.clusters := rfl
@[simp] theorem State.writePred_quads (s : State) (d : PReg) (v : Bool) : (s.writePred d v).quads = s.quads := rfl
@[simp] theorem State.writePred_slices (s : State) (d : PReg) (v : Bool) : (s.writePred d v).slices = s.slices := rfl
@[simp] theorem State.writePred_copies (s : State) (d : PReg) (v : Bool) : (s.writePred d v).copies = s.copies := rfl
@[simp] theorem State.writePred_melts (s : State) (d : PReg) (v : Bool) : (s.writePred d v).melts = s.melts := rfl
@[simp] theorem State.writePred_partials (s : State) (d : PReg) (v : Bool) : (s.writePred d v).partials = s.partials := rfl
@[simp] theorem State.writePred_replicas (s : State) (d : PReg) (v : Bool) : (s.writePred d v).replicas = s.replicas := rfl
@[simp] theorem State.writePred_walks (s : State) (d : PReg) (v : Bool) : (s.writePred d v).walks = s.walks := rfl
@[simp] theorem State.writePred_torus (s : State) (d : PReg) (v : Bool) : (s.writePred d v).torus = s.torus := rfl
@[simp] theorem State.writePred_cmds (s : State) (d : PReg) (v : Bool) : (s.writePred d v).cmds = s.cmds := rfl
@[simp] theorem State.writePred_merged (s : State) (d : PReg) (v : Bool) : (s.writePred d v).merged = s.merged := rfl
@[simp] theorem State.writePred_spent (s : State) (d : PReg) (v : Bool) : (s.writePred d v).spent = s.spent := rfl
@[simp] theorem State.writePred_barriers (s : State) (d : PReg) (v : Bool) : (s.writePred d v).barriers = s.barriers := rfl
@[simp] theorem State.writePred_contexts (s : State) (d : PReg) (v : Bool) : (s.writePred d v).contexts = s.contexts := rfl
@[simp] theorem State.writePred_parts (s : State) (d : PReg) (v : Bool) : (s.writePred d v).parts = s.parts := rfl
@[simp] theorem State.writePred_plat (s : State) (d : PReg) (v : Bool) : (s.writePred d v).plat = s.plat := rfl
@[simp] theorem State.writePred_fab (s : State) (d : PReg) (v : Bool) : (s.writePred d v).fab = s.fab := rfl
@[simp] theorem State.writePred_drift (s : State) (d : PReg) (v : Bool) : (s.writePred d v).drift = s.drift := rfl
@[simp] theorem State.writePred_engine (s : State) (d : PReg) (v : Bool) : (s.writePred d v).engine = s.engine := rfl
@[simp] theorem State.writePred_calves (s : State) (d : PReg) (v : Bool) : (s.writePred d v).calves = s.calves := rfl
@[simp] theorem State.writePred_conts (s : State) (d : PReg) (v : Bool) : (s.writePred d v).conts = s.conts := rfl
@[simp] theorem State.writePred_host (s : State) (d : PReg) (v : Bool) : (s.writePred d v).host = s.host := rfl
@[simp] theorem State.writePred_owed (s : State) (d : PReg) (v : Bool) : (s.writePred d v).owed = s.owed := rfl
@[simp] theorem State.writePred_away (s : State) (d : PReg) (v : Bool) : (s.writePred d v).away = s.away := rfl
@[simp] theorem State.writePred_saved (s : State) (d : PReg) (v : Bool) : (s.writePred d v).saved = s.saved := rfl
@[simp] theorem State.writePred_poisons (s : State) (d : PReg) (v : Bool) : (s.writePred d v).poisons = s.poisons := rfl
@[simp] theorem State.writePred_badBytes (s : State) (d : PReg) (v : Bool) : (s.writePred d v).badBytes = s.badBytes := rfl
@[simp] theorem State.writePred_nextTag (s : State) (d : PReg) (v : Bool) : (s.writePred d v).nextTag = s.nextTag := rfl
@[simp] theorem State.writePred_nextCmd (s : State) (d : PReg) (v : Bool) : (s.writePred d v).nextCmd = s.nextCmd := rfl
@[simp] theorem State.writePred_nextAge (s : State) (d : PReg) (v : Bool) : (s.writePred d v).nextAge = s.nextAge := rfl

-- ==== startLong ====

@[simp] theorem State.startLong_now (s : State) (d : Reg) (k : OutKind) : (s.startLong d k).now = s.now := rfl
@[simp] theorem State.startLong_tick (s : State) (d : Reg) (k : OutKind) : (s.startLong d k).tick = s.tick := rfl
@[simp] theorem State.startLong_cur (s : State) (d : Reg) (k : OutKind) : (s.startLong d k).cur = s.cur := rfl
@[simp] theorem State.startLong_snap (s : State) (d : Reg) (k : OutKind) : (s.startLong d k).snap = s.snap := rfl
@[simp] theorem State.startLong_flow (s : State) (d : Reg) (k : OutKind) : (s.startLong d k).flow = s.flow := rfl
@[simp] theorem State.startLong_issued (s : State) (d : Reg) (k : OutKind) : (s.startLong d k).issued = s.issued := rfl
@[simp] theorem State.startLong_agenda (s : State) (d : Reg) (k : OutKind) : (s.startLong d k).agenda = s.agenda := rfl
@[simp] theorem State.startLong_arg (s : State) (d : Reg) (k : OutKind) : (s.startLong d k).arg = s.arg := rfl
@[simp] theorem State.startLong_mem (s : State) (d : Reg) (k : OutKind) : (s.startLong d k).mem = s.mem := rfl
@[simp] theorem State.startLong_cores (s : State) (d : Reg) (k : OutKind) : (s.startLong d k).cores = s.cores := rfl
@[simp] theorem State.startLong_clusters (s : State) (d : Reg) (k : OutKind) : (s.startLong d k).clusters = s.clusters := rfl
@[simp] theorem State.startLong_quads (s : State) (d : Reg) (k : OutKind) : (s.startLong d k).quads = s.quads := rfl
@[simp] theorem State.startLong_slices (s : State) (d : Reg) (k : OutKind) : (s.startLong d k).slices = s.slices := rfl
@[simp] theorem State.startLong_copies (s : State) (d : Reg) (k : OutKind) : (s.startLong d k).copies = s.copies := rfl
@[simp] theorem State.startLong_melts (s : State) (d : Reg) (k : OutKind) : (s.startLong d k).melts = s.melts := rfl
@[simp] theorem State.startLong_partials (s : State) (d : Reg) (k : OutKind) : (s.startLong d k).partials = s.partials := rfl
@[simp] theorem State.startLong_replicas (s : State) (d : Reg) (k : OutKind) : (s.startLong d k).replicas = s.replicas := rfl
@[simp] theorem State.startLong_walks (s : State) (d : Reg) (k : OutKind) : (s.startLong d k).walks = s.walks := rfl
@[simp] theorem State.startLong_torus (s : State) (d : Reg) (k : OutKind) : (s.startLong d k).torus = s.torus := rfl
@[simp] theorem State.startLong_cmds (s : State) (d : Reg) (k : OutKind) : (s.startLong d k).cmds = s.cmds := rfl
@[simp] theorem State.startLong_merged (s : State) (d : Reg) (k : OutKind) : (s.startLong d k).merged = s.merged := rfl
@[simp] theorem State.startLong_spent (s : State) (d : Reg) (k : OutKind) : (s.startLong d k).spent = s.spent := rfl
@[simp] theorem State.startLong_barriers (s : State) (d : Reg) (k : OutKind) : (s.startLong d k).barriers = s.barriers := rfl
@[simp] theorem State.startLong_contexts (s : State) (d : Reg) (k : OutKind) : (s.startLong d k).contexts = s.contexts := rfl
@[simp] theorem State.startLong_parts (s : State) (d : Reg) (k : OutKind) : (s.startLong d k).parts = s.parts := rfl
@[simp] theorem State.startLong_plat (s : State) (d : Reg) (k : OutKind) : (s.startLong d k).plat = s.plat := rfl
@[simp] theorem State.startLong_fab (s : State) (d : Reg) (k : OutKind) : (s.startLong d k).fab = s.fab := rfl
@[simp] theorem State.startLong_drift (s : State) (d : Reg) (k : OutKind) : (s.startLong d k).drift = s.drift := rfl
@[simp] theorem State.startLong_engine (s : State) (d : Reg) (k : OutKind) : (s.startLong d k).engine = s.engine := rfl
@[simp] theorem State.startLong_calves (s : State) (d : Reg) (k : OutKind) : (s.startLong d k).calves = s.calves := rfl
@[simp] theorem State.startLong_conts (s : State) (d : Reg) (k : OutKind) : (s.startLong d k).conts = s.conts := rfl
@[simp] theorem State.startLong_host (s : State) (d : Reg) (k : OutKind) : (s.startLong d k).host = s.host := rfl
@[simp] theorem State.startLong_owed (s : State) (d : Reg) (k : OutKind) : (s.startLong d k).owed = s.owed := rfl
@[simp] theorem State.startLong_away (s : State) (d : Reg) (k : OutKind) : (s.startLong d k).away = s.away := rfl
@[simp] theorem State.startLong_saved (s : State) (d : Reg) (k : OutKind) : (s.startLong d k).saved = s.saved := rfl
@[simp] theorem State.startLong_poisons (s : State) (d : Reg) (k : OutKind) : (s.startLong d k).poisons = s.poisons := rfl
@[simp] theorem State.startLong_badBytes (s : State) (d : Reg) (k : OutKind) : (s.startLong d k).badBytes = s.badBytes := rfl
@[simp] theorem State.startLong_nextTag (s : State) (d : Reg) (k : OutKind) : (s.startLong d k).nextTag = s.nextTag + 1 := rfl
@[simp] theorem State.startLong_nextCmd (s : State) (d : Reg) (k : OutKind) : (s.startLong d k).nextCmd = s.nextCmd := rfl
@[simp] theorem State.startLong_nextAge (s : State) (d : Reg) (k : OutKind) : (s.startLong d k).nextAge = s.nextAge := rfl

end Sys2Proof.Machine
end

