-- ==== Sys2Proof/Laws/Ops.lean ====
section
/-! SUPPORT. What the shared operations do: the issuing slot after an update, operands, short and long producers, jumps, traps. -/

namespace Sys2Proof.Machine

-- ==== the slots ====

@[simp] theorem State.slot_setSlot_self (s : State) (i : Nat) (t : Slot) : (s.setSlot i t).slot i = t :=
  Tab.get_set_self _ _ _ _

theorem State.slot_setSlot_ne (s : State) {i j : Nat} (t : Slot) (h : j ≠ i) : (s.setSlot i t).slot j = s.slot j :=
  Tab.get_set_ne _ _ _ h

@[simp] theorem State.slot_modSlot_self (s : State) (i : Nat) (f : Slot → Slot) : (s.modSlot i f).slot i = f (s.slot i) :=
  Tab.get_set_self _ _ _ _

theorem State.slot_modSlot_ne (s : State) {i j : Nat} (f : Slot → Slot) (h : j ≠ i) : (s.modSlot i f).slot j = s.slot j :=
  Tab.get_set_ne _ _ _ h

@[simp] theorem State.me_modMe (s : State) (f : Slot → Slot) : (s.modMe f).me = f s.me :=
  Tab.get_set_self _ _ _ _

@[simp] theorem State.core_modCore_self (s : State) (c : Nat) (f : Core → Core) : (s.modCore c f).core c = f (s.core c) :=
  Tab.get_set_self _ _ _ _

theorem State.core_modCore_ne (s : State) {c d : Nat} (f : Core → Core) (h : d ≠ c) : (s.modCore c f).core d = s.core d :=
  Tab.get_set_ne _ _ _ h

@[simp] theorem State.context_modContext_self (s : State) (c : Nat) (f : Context → Context) :
    (s.modContext c f).context c = f (s.context c) :=
  Tab.get_set_self _ _ _ _

@[simp] theorem State.part_modPart_self (s : State) (c : Nat) (f : Partition → Partition) : (s.modPart c f).part c = f (s.part c) :=
  Tab.get_set_self _ _ _ _

@[simp] theorem State.cluster_modCluster_self (s : State) (c : Nat) (f : Cluster → Cluster) :
    (s.modCluster c f).cluster c = f (s.cluster c) :=
  Tab.get_set_self _ _ _ _

@[simp] theorem State.quad_modQuad_self (s : State) (c : Nat) (f : Quad → Quad) : (s.modQuad c f).quad c = f (s.quad c) :=
  Tab.get_set_self _ _ _ _

/-- The issuing slot is a function of the slots and of `cur` alone. -/
theorem State.me_congr {s t : State} (h : t.slots = s.slots) (hc : t.cur = s.cur) : t.me = s.me := by
  simp [State.me, State.slot, h, hc]

@[simp] theorem State.me_withFlow (s : State) (f : Flow) : (s.withFlow f).me = s.me := rfl
@[simp] theorem State.me_goOn (s : State) : s.goOn.me = s.me := rfl
@[simp] theorem State.me_freeRegName (s : State) (u r : Nat) : (s.freeRegName u r).me = s.me := rfl
@[simp] theorem State.me_after (s : State) (n : Nat) (e : Instr) : (s.after n e).me = s.me := rfl
@[simp] theorem State.me_within (s : State) (n : Nat) (e : Instr) : (s.within n e).me = s.me := rfl
@[simp] theorem State.me_bump (s : State) : s.bump.me = s.me := rfl
@[simp] theorem State.me_newTag (s : State) : s.newTag.me = s.me := rfl
@[simp] theorem State.me_modCore (s : State) (c : Nat) (f : Core → Core) : (s.modCore c f).me = s.me := rfl
@[simp] theorem State.src_withFlow (s : State) (f : Flow) : (s.withFlow f).src = s.src := rfl
@[simp] theorem State.src_goOn (s : State) : s.goOn.src = s.src := rfl

-- ==== registers ====

@[simp] theorem Slot.reg_zero (t : Slot) : t.reg 0 = RegCell.zero := rfl

@[simp] theorem Slot.putReg_zero (t : Slot) (c : RegCell) : t.putReg 0 c = t := rfl

theorem Slot.reg_putReg_self (t : Slot) {n : Reg} (c : RegCell) (h : n ≠ 0) : (t.putReg n c).reg n = c := by
  have e : t.putReg n c = { t with regs := t.regs.set (physReg t.depth n) c } := if_neg h
  rw [e, Slot.reg, if_neg h]
  exact Vector.getElem_set_self ..

theorem Slot.regs_putReg_ne (t : Slot) {n : Reg} (c : RegCell) {r : Fin 80} (h : n = 0 ∨ r ≠ physReg t.depth n) :
    (t.putReg n c).regs.get r = t.regs.get r := by
  unfold Slot.putReg
  split
  · rfl
  · have h : physReg t.depth n ≠ r := fun e => by simp_all
    have h : (physReg t.depth n).val ≠ r.val := fun e => h (Fin.ext e)
    exact Vector.getElem_set_ne (physReg t.depth n).isLt r.isLt h

theorem Slot.putReg_eq (t : Slot) (n : Reg) (c : RegCell) : t.putReg n c = { t with regs := (t.putReg n c).regs } := by
  unfold Slot.putReg; split <;> rfl

theorem Slot.pred_zero (t : Slot) : t.pred 0 = true := rfl

/-- The mask of one predicate within PW. -/
theorem predMask_bit {n m : Nat} (hm : m < 8) : ((1#8 : BitVec 8) <<< n).getLsbD m = decide (m = n) := by
  rw [BitVec.getLsbD_shiftLeft, BitVec.getLsbD_one]
  by_cases h : m = n
  · subst h; simp [hm]
  · by_cases hl : m < n
    · simp [hl, h]
    · have : m - n ≠ 0 := by omega
      simp [h, this]

theorem Slot.pred_putPred_self (t : Slot) {n : PReg} (b : Bool) (h : n ≠ 0) : (t.putPred n b).pred n = b := by
  have hn : (n == 0) = false := by simpa using h
  have hl : n.toNat < 8 := n.isLt
  have hb := predMask_bit (n := n.toNat) hl
  simp only [Slot.pred, Slot.putPred, h, if_false, hn, Bool.false_or]
  cases b
  · rw [if_neg (by decide), BitVec.getLsbD_and, BitVec.getLsbD_not, hb]; simp
  · rw [if_pos rfl, BitVec.getLsbD_or, hb]; simp

theorem Slot.pred_putPred_ne (t : Slot) {n m : PReg} (b : Bool) (h : m ≠ n) : (t.putPred n b).pred m = t.pred m := by
  have hl : m.toNat < 8 := m.isLt
  have hm : m.toNat ≠ n.toNat := fun e => h (BitVec.eq_of_toNat_eq e)
  have hb := predMask_bit (n := n.toNat) hl
  unfold Slot.putPred
  split
  · rfl
  · simp only [Slot.pred]
    congr 1
    cases b
    · rw [if_neg (by decide), BitVec.getLsbD_and, BitVec.getLsbD_not, hb]; simp [hl, hm]
    · rw [if_pos rfl, BitVec.getLsbD_or, hb]; simp [hm]

theorem Slot.putPred_eq (t : Slot) (n : PReg) (b : Bool) : t.putPred n b = { t with pw := (t.putPred n b).pw } := by
  unfold Slot.putPred; split <;> rfl

-- ==== guards and operands ====

theorem State.guarded_true {s : State} {g : PReg} (k : State) (h : s.src.pred g = true) : s.guarded g k = k := by
  simp [State.guarded, h]

theorem State.guarded_false {s : State} {g : PReg} (k : State) (h : s.src.pred g = false) : s.guarded g k = s.goOn := by
  simp [State.guarded, h]

/-- An instruction whose operands are ready acts. -/
theorem State.operands_ready {s : State} {srcs : List Source} {dsts : List Reg} {long : Bool} (k : State)
    (h : s.ready srcs dsts long = true) : s.operands srcs dsts long k = k := by
  simp only [State.ready, Bool.and_eq_true, List.all_eq_true, Option.isNone_iff_eq_none] at h
  obtain ⟨⟨h0, h1⟩, h2⟩ := h
  have hx : srcs.find? (fun o => o.x && !s.src.isFull o) = none := by
    rw [List.find?_eq_none]; intro o ho; simp [(h1 o ho).1]
  have hp : srcs.find? s.src.isPoisoned = none := by
    rw [List.find?_eq_none]; intro o ho; have := (h1 o ho).2; simpa using this
  have hf : srcs.all s.src.isFull = true := List.all_eq_true.2 fun o ho => (h1 o ho).1
  have hd : dsts.any (s.src.blocked long) = false := by
    rw [List.any_eq_false]; intro d hd; simpa using h2 d hd
  simp [State.operands, h0, hx, hp, hf, hd]

-- ==== short producers ====

theorem MintEntry.get_map_names (p : MintEntry → Bool) (hb : p MintEntry.blank = false) (m : Tab MintEntry) (i : Nat) :
    (m.map fun _ e => if p e then e.freed else e).get MintEntry.blank i
      = if p (m.get MintEntry.blank i) then (m.get MintEntry.blank i).freed else m.get MintEntry.blank i :=
  Tab.get_map (fun _ e => if p e then e.freed else e) _ _ _ (by simp [hb])

theorem State.mintEntry_freeNames (s : State) (p : MintEntry → Bool) (hb : p MintEntry.blank = false) (c i : Nat) :
    (s.freeNames p).mintEntry c i = if p (s.mintEntry c i) then (s.mintEntry c i).freed else s.mintEntry c i := by
  have h : (s.freeNames p).core c
      = { s.core c with mint := (s.core c).mint.map fun _ e => if p e then e.freed else e } :=
    Tab.get_map (fun _ (c : Core) => { c with mint := c.mint.map fun _ e => if p e then e.freed else e }) Core.empty s.cores c rfl
  simp only [State.mintEntry, h]
  exact MintEntry.get_map_names p hb _ _

theorem State.core_freeNames (s : State) (p : MintEntry → Bool) (c : Nat) :
    (s.freeNames p).core c = { s.core c with mint := ((s.freeNames p).core c).mint } := by
  have h : (s.freeNames p).core c
      = { s.core c with mint := (s.core c).mint.map fun _ e => if p e then e.freed else e } :=
    Tab.get_map (fun _ (c : Core) => { c with mint := c.mint.map fun _ e => if p e then e.freed else e }) Core.empty s.cores c rfl
  rw [h]

/-- What a short producer does. -/
theorem State.short_wrote (s : State) (d : Reg) (v : Word) : Wrote s (s.short d v) d v := by
  have hme : (s.short d v).me = s.me.putReg d { val := v, mark := .full, poison := false } := by
    simp only [State.short, State.writeReg]
    split <;> simp
  have hcur : (s.short d v).cur = s.cur := by simp [State.short]
  have hslots : (s.short d v).slots = s.slots.set s.cur (s.me.putReg d { val := v, mark := .full, poison := false }) := by
    simp only [State.short, State.writeReg]
    split <;> simp
  refine ⟨?_, ?_, ?_, ?_, ?_, ⟨?_, ?_⟩, ?_⟩
  · intro h; rw [hme]; exact Slot.reg_putReg_self _ _ h
  · intro r h; rw [hme]; exact Slot.regs_putReg_ne _ _ h
  · rw [hme]; exact Slot.putReg_eq _ _ _
  · intro c i
    simp only [State.short, State.writeReg, nameAfter]
    split
    · rename_i h
      have := State.mintEntry_freeNames s.goOn
        (fun e => decide (e.state = .reg) && e.uid == s.goOn.me.id.uid && e.reg == absReg s.goOn.me.depth d) (by simp [MintEntry.blank]) c i
      simp only [State.me_goOn] at h this
      have e : ∀ u : State, ∀ f, (u.modMe f).mintEntry c i = u.mintEntry c i := fun _ _ => rfl
      rw [e]
      simp only [State.freeRegName, State.me_goOn, this]
      simp [h, and_assoc]; rfl
    · rename_i h
      simp only [State.me_goOn] at h
      simp [h]; rfl
  · intro c
    simp only [State.short, State.writeReg]
    split
    · exact State.core_freeNames s.goOn _ c
    · rfl
  · intro i h
    simp only [State.slot, hslots]
    exact Tab.get_set_ne _ _ _ h
  · intro a; simp [State.short]
  · simp only [State.short, State.writeReg]
    split <;> rfl

/-- What an instruction that writes a predicate does. -/
theorem State.writePred_wrote (s : State) (d : PReg) (b : Bool) : WrotePred s (s.goOn.writePred d b) d b := by
  have hme : (s.goOn.writePred d b).me = s.me.putPred d b := by simp [State.writePred]
  refine ⟨?_, ?_, ?_, ⟨?_, ?_⟩, rfl⟩
  · intro h; rw [hme]; exact Slot.pred_putPred_self _ _ h
  · intro n h; rw [hme]
    rcases h with rfl | h
    · simp [Slot.putPred]
    · exact Slot.pred_putPred_ne _ _ h
  · rw [hme]; exact Slot.putPred_eq _ _ _
  · intro i h; exact Tab.get_set_ne _ _ _ h
  · intro a; rfl

-- ==== long producers ====

/-- What a long producer does at issue. -/
theorem State.startLong_began (s : State) (d : Reg) (k : OutKind) : Began s (s.goOn.startLong d k) d k := by
  have hme : (s.goOn.startLong d k).me
      = { s.me.putReg d { s.me.reg d with mark := .pending, poison := false } with
            pend := { s.me.pend with out := s.me.pend.out ++ [{ tag := s.nextTag, reg := absReg s.me.depth d, kind := k,
                                                                 seq := s.me.pend.seq }], seq := s.me.pend.seq + 1 } } := by
    simp [State.startLong]
  refine ⟨?_, ?_, ?_, ?_, ⟨?_, ?_⟩, rfl, rfl⟩
  · intro h; rw [hme]; exact Slot.reg_putReg_self _ _ h
  · intro r h; rw [hme]; exact Slot.regs_putReg_ne _ _ h
  · rw [hme]
  · rw [hme, Slot.putReg_eq]
  · intro i h; exact Tab.get_set_ne _ _ _ h
  · intro a; rfl

theorem Began.congr {s t u : State} {d : Reg} {k : OutKind} (h : Began s t d k) (hs : u.slots = t.slots) (hc : u.cur = t.cur)
    (hm : u.mem = t.mem) (ht : u.nextTag = t.nextTag) (hf : u.flow = t.flow) : Began s u d k := by
  have hme : u.me = t.me := State.me_congr hs hc
  obtain ⟨h1, h2, h3, h4, h5, h6, h7⟩ := h
  refine ⟨?_, ?_, ?_, ?_, ⟨?_, ?_⟩, ?_, ?_⟩
  · rw [hme]; exact h1
  · intro r hr; rw [hme]; exact h2 r hr
  · rw [hme]; exact h3
  · rw [hme]; exact h4
  · intro i hi; rw [← h5.1 i hi]; simp [State.slot, hs]
  · intro a; rw [hm]; exact h5.2 a
  · rw [ht]; exact h6
  · rw [hf]; exact h7

/-- What a long producer with a known latency does. -/
theorem State.long_began (s : State) (d : Reg) (k : OutKind) (n : Nat) (v : DelVal) : BeganFor s (s.long d k n v) d k n v :=
  ⟨(s.startLong_began d k).congr rfl rfl rfl rfl rfl, rfl, rfl⟩

theorem State.choose_lt (s : State) {n : Nat} (h : 0 < n) : s.choose n < n := Nat.mod_lt _ h

/-- What a long producer with a bounded latency does. -/
theorem State.longWithin_began (s : State) (d : Reg) (k : OutKind) {n : Nat} (v : DelVal) (hn : 0 < n) :
    BeganWithin s (s.longWithin d k n v) d k n v := by
  refine ⟨(s.startLong_began d k).congr rfl rfl rfl rfl rfl, ⟨1 + s.choose n, by omega, ?_, rfl⟩, rfl⟩
  have := s.choose_lt hn; omega

-- ==== jumps and traps ====

theorem State.jumpTo_jumped (s : State) (pc : Word) (n : Nat) : Jumped s (s.jumpTo pc n) pc n := by
  refine ⟨by simp [State.jumpTo], ⟨?_, ?_⟩, rfl⟩
  · intro i h; exact Tab.get_set_ne _ _ _ h
  · intro a; rfl

theorem State.trapSlot_of (s : State) (c d : Nat) (v : Word) (h : s.me.status.tl ≠ 2) :
    s.trapSlot s.cur c d v = s.modMe fun t =>
      { t.enterTrap c (c * 32 + d) v with front := { (t.enterTrap c (c * 32 + d) v).front with readyAt := s.now + 6, fetch := none } } := by
  have h' : ¬ (s.slot s.cur).status.tl = 2 := h
  simp [State.trapSlot, h', State.modMe]

/-- What a trap below TL 2 does. -/
theorem State.takeTrap_trapped (s : State) (c d : Nat) (v : Word) (f : Flow) (h : s.me.status.tl < 2) :
    Trapped s ((s.trapSlot s.cur c d v).withFlow f) c d v := by
  rw [State.trapSlot_of s c d v (by omega)]
  have htl : s.me.status.tl = 0 ∨ s.me.status.tl = 1 := by omega
  refine ⟨?_, ?_, ?_, ?_, ?_, ⟨?_, ?_⟩, rfl⟩
  · rcases htl with e | e <;> simp [e, Slot.enterTrap, Nat.pow_succ]
  · rcases htl with e | e <;> simp [e, Slot.enterTrap]
  · rcases htl with e | e <;> simp [e, Slot.enterTrap]
  · rcases htl with e | e <;> simp [e, Slot.enterTrap, trapVector]
  · simp [Slot.enterTrap]
  · intro i hi; exact Tab.get_set_ne _ _ _ hi
  · intro a; rfl

end Sys2Proof.Machine
end

