-- ==== Sys2Proof/Tests/Slice0.lean ====
section
/-! SUPPORT. The model's own tests: ill-formed terms that are refused; a word of every instruction, written out from the encoding tables
of the spec; single steps with results worked out from the spec; and for every statement that has hypotheses the states and operands that meet them. -/

namespace Sys2Proof.Tests

open Sys2Proof Sys2Proof.Machine

set_option Elab.async false

-- ==== helpers ====

/-- The words decode to the instruction, and the instruction's words are these. -/
def reads (l : List (BitVec 32 × BitVec 32 × Instr)) : Bool :=
  l.all fun p => decide (decodeAlone p.1 p.2.1 = some p.2.2) && decide (encodeAlone p.2.2 = some (p.1, p.2.1))
    && (match decodeBundle 1 p.1 p.2.1 with
      | .ok b => decide (b.alone = some p.2.2)
      | .error _ => false)

/-- A strand alone in slot 0, at privilege M, every register FULL and zero, as `f` changes it; its bundle is about to act. -/
def strand (f : Slot → Slot) : State := ((State.reset.withBundle 0 0).modSlot 0 f).atIssue 0

/-- Registers FULL with the given values. -/
def regs (l : List (Reg × Nat)) (t : Slot) : Slot :=
  l.foldl (fun t p => t.putReg p.1 { val := BitVec.ofNat 64 p.2, mark := .full, poison := false }) t

/-- Registers with the given marks, and zero. -/
def marks (l : List (Reg × Mark)) (t : Slot) : Slot := l.foldl (fun t p => t.putReg p.1 { val := 0, mark := p.2, poison := false }) t

/-- A slot at a privilege and trap level. -/
def at_ (p : Priv) (tl : Nat) (t : Slot) : Slot := { t with status := { t.status with priv := p, tl := tl } }

/-- The instruction answers a next state with the property. -/
def runs (i : Instr) (s : State) (p : State → Bool) : Bool :=
  match exec i s with
  | .next t => p t
  | _ => false

/-- The value that an instruction leaves in a register, if the register is FULL. -/
def leaves (i : Instr) (s : State) (d : Reg) : Option Nat :=
  match exec i s with
  | .next t => if (t.me.reg d).mark = .full then some (t.me.val d).toNat else none
  | _ => none

/-- The value of a delivery. -/
def delValue : Instr → Option Nat
  | .deliver _ _ (.val v) | .deliver _ _ (.acq v _) | .deliver _ _ (.load _ _ _ v) | .deliver _ _ (.narrow _ _ v _ _) => some v.toNat
  | _ => none

/-- The first value that the agenda will deliver. -/
def delivers (i : Instr) (s : State) : Option Nat :=
  match exec i s with
  | .next t => t.agenda.findSome? fun d => delValue d.ev
  | _ => none

/-- The trap that an instruction takes: TCAUSE1 and TVAL1. -/
def trapped (i : Instr) (s : State) : Option (Nat × Nat) :=
  match exec i s with
  | .next t => if t.me.status.tl = 1 then some (t.me.bank1.tcause.toNat, t.me.bank1.tval.toNat) else none
  | _ => none

-- ==== well-formed terms ====

/-- A term that fails each check of `wellFormed` (R45-R49), and one beside it that passes. -/
theorem test_wellFormed_refuses : ([.ld 1 2 0 false true .d, .ldl 1 2 0 false true .d, .cflush 1 false 0 .group, .cinv 1 false 0 .system,
    .red .fadd 1 2 false false 0 .d .die, .tdep 1 0 0 false false 0 .c, .trd 1 0 2 false false 0 .p, .ttake 1 0 0 false true 0 .w, .mint 1 1 0, .mint 1 0 0,
    .spawn 1 2 3 false false 0 7, .barset 1 2 false false 0 .system, .bar 1 false 0 .system, .barq 1 2 false 0 .system, .ffence 1 2 3 false false 0 .die,
    .trap 16 0, .lease 0 0, .lease 17 0, .vadd 1 2 3 0 31 false, .vabs 1 2 0 0 true, .mzero 1 0 31 true, .vcmp 1 2 3 0 0 true .eq, .vred 1 2 0 31 false .sum,
    .vshift 1 2 3 0 0 true .l, .dispatchRecord 64, .steal 64, .sliceExpiry 64, .sliceEarlyEnd 64, .bundleFetch 16384, .windowSpill 16384, .windowFill 16384,
    .registerClear 16384, .slotLoad 16384, .userInterruptEntry 16384, .remoteFailureTrap 16384, .vectorGrant 512, .vectorSliceExpiry 512, .leaseGrant 512,
    .leaseIdleEnd 512, .leaseExpiry 512, .create 64, .start 64, .stop 64, .resize 64, .reset 64, .destroy 64, .pctlCommandDone 64] : List Instr).all
      (fun i => !i.wellFormed) = true := by decide +kernel

theorem test_wellFormed_accepts : ([.ld 1 2 0 false true .w, .ldl 1 2 0 false false .d, .cflush 1 false 0 .device, .cinv 1 false 0 .core,
    .red .fadd 1 2 false false 0 .w .die, .tdep 0 0 2 false true 0 .c, .trd 1 0 0 true false 0 .p, .mint 1 2 0, .mint 0 1 0,
    .spawn 1 2 3 false false 0 6, .barset 1 2 false false 0 .domain, .ffence 1 2 3 false false 0 .device,
    .trap 15 0, .lease 1 0, .lease 16 0, .vadd 1 2 3 0 30 true, .vabs 1 2 0 0 false, .dispatchRecord 63, .bundleFetch 16383, .vectorGrant 511, .create 63] : List Instr).all
      (fun i => i.wellFormed) = true := by decide +kernel

-- ==== a word of every instruction ====

/-- R41, R46, R47: words written out from the C-word map, in lone bundles, give the instructions that they stand for. -/
theorem test_decode_c_0 : reads [
    (0x80000000, 0x00000000, .cnop),
    (0x81d80081, 0x00000000, .br 6 true 524417),
    (0x82d80081, 0x00000000, .jmp 6 true 524417),
    (0x83d80081, 0x00000000, .call 6 true 524417),
    (0x84028150, 0x00000000, .jmpr 10 true 5),
    (0x85028150, 0x00000000, .callr 10 true 5),
    (0x86000050, 0x00000000, .ret 5),
    (0x89a83050, 0x00000000, .mfs 21 24 5),
    (0x8a8a8150, 0x00000000, .mts 17 10 true 5),
    (0x90aa9036, 0x00000000, .ld 21 10 129 true true .w),
    (0x91aab033, 0x00000000, .st 21 10 true 129 true .d),
    (0x92aa9035, 0x00000000, .ldl 21 10 129 true true .h),
    (0x93aab030, 0x00000000, .stl 21 10 true 129 true .b),
    (0xb0aa903a, 0x00000000, .ldS 21 10 129 true .d .cluster),
    (0xb1aab03f, 0x00000000, .stS 21 10 true 129 true .d .system),
    (0xb2aa903c, 0x00000000, .ldAcq 21 10 129 true .d .device)] = true := by decide +kernel

/-- R41, R46, R47: words written out from the C-word map, in lone bundles, give the instructions that they stand for. -/
theorem test_decode_c_1 : reads [
    (0xb3aab03c, 0x00000000, .stRel 21 10 true 129 true .d .device),
    (0xb4000054, 0x00000000, .fence 5 .device),
    (0xb4000058, 0x00000000, .ifence 5),
    (0xb5028153, 0x00000000, .cflush 10 true 5 .die),
    (0xb5028159, 0x00000000, .cinv 10 true 5 .quad),
    (0xb60aa754, 0x00000000, .red .fadd 10 19 true false 5 .w .device),
    (0xb7aaa75c, 0x00000000, .cas 21 10 19 true false 5 .d .device),
    (0xb8aaa75c, 0x00000000, .amoAdd 21 10 19 true false 5 .d .device),
    (0xb9aaa75c, 0x00000000, .amoSwap 21 10 19 true false 5 .d .device),
    (0xbaaaa75c, 0x00000000, .amoAnd 21 10 19 true false 5 .d .device),
    (0xbbaaa75c, 0x00000000, .amoOr 21 10 19 true false 5 .d .device),
    (0xbcaaa75c, 0x00000000, .amoXor 21 10 19 true false 5 .d .device),
    (0xbdaaa75c, 0x00000000, .amoMin 21 10 19 true false 5 .d .device),
    (0xbeaaa75c, 0x00000000, .amoMax 21 10 19 true false 5 .d .device),
    (0xc002a752, 0x00000000, .tdep 0 10 19 true false 5 .c),
    (0xc1aa8151, 0x00000000, .trd 21 10 0 true false 5 .w)] = true := by decide +kernel

/-- R41, R46, R47: words written out from the C-word map, in lone bundles, give the instructions that they stand for. -/
theorem test_decode_c_2 : reads [
    (0xc2aa8150, 0x00000000, .ttake 21 10 0 true false 5 .p),
    (0xc3aa8150, 0x00000000, .tcancel 21 10 true 5),
    (0xc4a82650, 0x00000000, .mint 21 19 5),
    (0xc5aa8150, 0x00000000, .mintC 21 10 true 5),
    (0xc6aaa754, 0x00000000, .land 21 10 19 true false 5 .device),
    (0xc7aa8150, 0x00000000, .unmint 21 10 true 5),
    (0xc9aaa750, 0x00000000, .ldM 21 10 19 true false 5),
    (0xcaaa8150, 0x00000000, .meltq 21 10 true 5),
    (0xd0aaa756, 0x00000000, .spawn 21 10 19 true false 5 6),
    (0xd1000050, 0x00000000, .exit 5),
    (0xd2000050, 0x00000000, .yield 5),
    (0xd3028150, 0x00000000, .suspend 10 true 5),
    (0xd402a756, 0x00000000, .barset 10 19 true false 5 .domain),
    (0xd5028154, 0x00000000, .bar 10 true 5 .device),
    (0xd6aa8154, 0x00000000, .barq 21 10 true 5 .device),
    (0xd7028150, 0x00000000, .setpri 10 true 5)] = true := by decide +kernel

/-- R41, R46, R47: words written out from the C-word map, in lone bundles, give the instructions that they stand for. -/
theorem test_decode_c_3 : reads [
    (0xe0aaa756, 0x00000000, .ffence 21 10 19 true false 5 .domain),
    (0xe1aaa750, 0x00000000, .xpost 21 10 19 true false 5),
    (0xe2aa8150, 0x00000000, .xflush 21 10 true 5),
    (0xe3aaa750, 0x00000000, .xwait 21 10 19 true false 5),
    (0xe4aa8150, 0x00000000, .pealLoad 21 10 true 5),
    (0xe5aaa750, 0x00000000, .pealRun 21 10 19 true false 5),
    (0xe6aa8150, 0x00000000, .pealWait 21 10 true 5),
    (0xe7aa8150, 0x00000000, .calve 21 10 true 5),
    (0xf0001e50, 0x00000000, .trap 15 5),
    (0xf1000050, 0x00000000, .rett 5),
    (0xf2000050, 0x00000000, .uiret 5),
    (0xf302a752, 0x00000000, .tlbinv 10 19 true false 5 .all),
    (0xf4aa8150, 0x00000000, .tlbprobe 21 10 true 5),
    (0xf5aa8150, 0x00000000, .ctxsave 21 10 true 5),
    (0xf6aa8150, 0x00000000, .ctxload 21 10 true 5),
    (0xf7028150, 0x00000000, .foldset 10 true 5)] = true := by decide +kernel

/-- R41, R46, R47: words written out from the C-word map, in lone bundles, give the instructions that they stand for. -/
theorem test_decode_c_4 : reads [
    (0xf8000050, 0x00000000, .halt 5),
    (0x87a80050, 0xfedcba98, .lit 21 5 0xfedcba98),
    (0x88a80050, 0x80000001, .lith 21 5 0x80000001),
    (0xc802a750, 0x7fffffff, .fillm 10 19 true false 5 0x7fffffff)] = true := by decide +kernel

/-- R44, R48, R49: the same from the A-word map, beside CNOP. -/
theorem test_decode_a_0 : reads [
    (0x00000000, 0x02aa9d40, .add 21 10 19 true false 5),
    (0x00000000, 0x02aa9d41, .sub 21 10 19 true false 5),
    (0x00000000, 0x02aa9d42, .mul 21 10 19 true false 5),
    (0x00000000, 0x02aa9d43, .mulh 21 10 19 true false 5),
    (0x00000000, 0x02aa9d44, .div 21 10 19 true false 5),
    (0x00000000, 0x02aa9d45, .divu 21 10 19 true false 5),
    (0x00000000, 0x02aa9d46, .rem 21 10 19 true false 5),
    (0x00000000, 0x02aa9d47, .remu 21 10 19 true false 5),
    (0x00000000, 0x02aa9d48, .and 21 10 19 true false 5),
    (0x00000000, 0x02aa9d49, .or 21 10 19 true false 5),
    (0x00000000, 0x02aa9d4a, .xor 21 10 19 true false 5),
    (0x00000000, 0x02aa9d4b, .andn 21 10 19 true false 5),
    (0x00000000, 0x02aa9d4c, .shl 21 10 19 true false 5),
    (0x00000000, 0x02aa9d4d, .shr 21 10 19 true false 5),
    (0x00000000, 0x02aa9d4e, .sar 21 10 19 true false 5),
    (0x00000000, 0x02aa9d4f, .rot 21 10 19 true false 5)] = true := by decide +kernel

/-- R44, R48, R49: the same from the A-word map, beside CNOP. -/
theorem test_decode_a_1 : reads [
    (0x00000000, 0x02aa0550, .clz 21 10 true 5),
    (0x00000000, 0x02aa0551, .popc 21 10 true 5),
    (0x00000000, 0x02aa9d52, .min 21 10 19 true false 5),
    (0x00000000, 0x02aa9d53, .max 21 10 19 true false 5),
    (0x00000000, 0x02aa9d54, .minu 21 10 19 true false 5),
    (0x00000000, 0x02aa9d55, .maxu 21 10 19 true false 5),
    (0x00000000, 0x02aa0556, .mov 21 10 true 5),
    (0x00000000, 0x02aa9d97, .sel 21 10 19 true false 6),
    (0x00000000, 0x06aac003, .addi 21 10 true 16387),
    (0x00000000, 0x0aaac003, .andi 21 10 true 16387),
    (0x00000000, 0x0eaac003, .ori 21 10 true 16387),
    (0x00000000, 0x12aa8021, .shli 21 10 true 33),
    (0x00000000, 0x14aa9d49, .cmp 5 10 19 true false 5 .geu),
    (0x00000000, 0x18a21940, .pand 5 2 3 5),
    (0x00000000, 0x18a21941, .por 5 2 3 5),
    (0x00000000, 0x18a20142, .pnot 5 2 5)] = true := by decide +kernel

/-- R44, R48, R49: the same from the A-word map, beside CNOP. -/
theorem test_decode_a_2 : reads [
    (0x00000000, 0x82aa9d40, .fadd 21 10 19 true false 5),
    (0x00000000, 0x82aa9d41, .fsub 21 10 19 true false 5),
    (0x00000000, 0x82aa9d42, .fmul 21 10 19 true false 5),
    (0x00000000, 0x82aa9d43, .fdiv 21 10 19 true false 5),
    (0x00000000, 0x82aa0544, .fsqrt 21 10 true 5),
    (0x00000000, 0x82aa9d45, .fmin 21 10 19 true false 5),
    (0x00000000, 0x82aa9d46, .fmax 21 10 19 true false 5),
    (0x00000000, 0x82aa9d47, .fsgn 21 10 19 true false 5),
    (0x00000000, 0x82aa0548, .fclass 21 10 true 5),
    (0x00000000, 0x82aa3549, .fcvt 21 10 .fromBf16 true 5),
    (0x00000000, 0x82aa1d4a, .icvt 21 10 .u64 true 5),
    (0x00000000, 0x82aa9d4b, .ffma 21 10 19 true false 5),
    (0x00000000, 0x84aa9d47, .fcmp 5 10 19 true false 5 .ord),
    (0x00000000, 0xc168e490, .vadd 5 10 3 9 4 true),
    (0x00000000, 0xc168e491, .vsub 5 10 3 9 4 true),
    (0x00000000, 0xc168e492, .vmul 5 10 3 9 4 true)] = true := by decide +kernel

/-- R44, R48, R49: the same from the A-word map, beside CNOP. -/
theorem test_decode_a_3 : reads [
    (0x00000000, 0xc168e493, .vfma 5 10 3 9 4 true),
    (0x00000000, 0xc168e494, .vmax 5 10 3 9 4 true),
    (0x00000000, 0xc168e495, .vmin 5 10 3 9 4 true),
    (0x00000000, 0xc1682496, .vabs 5 10 9 4 true),
    (0x00000000, 0xc1682497, .vneg 5 10 9 4 true),
    (0x00000000, 0xc1682498, .vexp2 5 10 9 4 true),
    (0x00000000, 0xc1682499, .vlog2 5 10 9 4 true),
    (0x00000000, 0xc168249a, .vrcp 5 10 9 4 true),
    (0x00000000, 0xc168249b, .vrsq 5 10 9 4 true),
    (0x00000000, 0xc168249c, .vcvt 5 10 9 4 true),
    (0x00000000, 0xc168e49d, .vscale 5 10 3 9 4 true),
    (0x00000000, 0xc568e490, .vsel 5 10 3 9 4 true),
    (0x00000000, 0xc568e491, .vand 5 10 3 9 4 true),
    (0x00000000, 0xc568e492, .vor 5 10 3 9 4 true),
    (0x00000000, 0xc568e493, .vxor 5 10 3 9 4 true),
    (0x00000000, 0xc5682494, .vfill 5 10 9 4 true)] = true := by decide +kernel

/-- R44, R48, R49: the same from the A-word map, beside CNOP. -/
theorem test_decode_a_4 : reads [
    (0x00000000, 0xc5682495, .vcopy 5 10 9 4 true),
    (0x00000000, 0xc5682496, .vtrans 5 10 9 4 true),
    (0x00000000, 0xc568e497, .vgather 5 10 3 9 4 true),
    (0x00000000, 0xc568e498, .vscatter 5 10 3 9 4 true),
    (0x00000000, 0xc968e494, .vcmp 5 10 3 9 4 true .gt),
    (0x00000000, 0xcd682492, .vred 5 10 9 4 true .min),
    (0x00000000, 0xd168e492, .vshift 5 10 3 9 4 true .a),
    (0x00000000, 0xe168e490, .mma 5 10 3 9 4 true),
    (0x00000000, 0xe168e491, .mmas 5 10 3 9 4 true),
    (0x00000000, 0xe1402492, .mzero 5 9 4 true),
    (0x00000000, 0xe1682493, .mdrain 5 10 9 4 true),
    (0x00000000, 0xe1682494, .maccld 5 10 9 4 true),
    (0x00000000, 0xf1682490, .cpy 5 10 9 4 true),
    (0x00000000, 0xf168e491, .cpyg 5 10 3 9 4 true),
    (0x00000000, 0xf168e492, .cpys 5 10 3 9 4 true),
    (0x00000000, 0xf1682493, .cpyr 5 10 9 4 true)] = true := by decide +kernel

/-- R44, R48, R49: the same from the A-word map, beside CNOP. -/
theorem test_decode_a_5 : reads [
    (0x00000000, 0xf8aa1d40, .hset 5 10 3 true 5),
    (0x00000000, 0xfaaa1d41, .hget 21 10 3 true 5),
    (0x00000000, 0xf8aa0542, .rset 5 10 true 5),
    (0x00000000, 0xf8a00143, .rpush 5 5),
    (0x00000000, 0xf8008144, .lease 16 5),
    (0x00000000, 0xf8000145, .unlease 5),
    (0x00000000, 0xfaaa9d46, .engstat 21 10 19 true false 5),
    (0x00000000, 0xf80a9d47, .resume 10 19 true false 5)] = true := by decide +kernel

-- ==== scalar operations: R55-R83, by hand from the tables of R72 and R78-R83 ====

/-- Operands in s1 and s2, the result in s3. -/
def pair (x y : Nat) : State := strand (regs [(1, x), (2, y), (3, 5)])

theorem test_integer_pairs : ([
    (.add 3 1 2 false false 0, 2 ^ 64 - 1, 2, 1), (.sub 3 1 2 false false 0, 1, 2, 2 ^ 64 - 1), (.mul 3 1 2 false false 0, 2 ^ 63 + 3, 2, 6),
    (.mulh 3 1 2 false false 0, 2 ^ 64 - 1, 2, 2 ^ 64 - 1), (.mulh 3 1 2 false false 0, 2 ^ 63, 2 ^ 63, 2 ^ 62), (.and 3 1 2 false false 0, 12, 10, 8),
    (.or 3 1 2 false false 0, 12, 10, 14), (.xor 3 1 2 false false 0, 12, 10, 6), (.andn 3 1 2 false false 0, 12, 10, 4),
    (.shl 3 1 2 false false 0, 3, 63, 2 ^ 63), (.shl 3 1 2 false false 0, 3, 64, 3), (.shr 3 1 2 false false 0, 2 ^ 63, 63, 1),
    (.sar 3 1 2 false false 0, 2 ^ 63, 62, 2 ^ 64 - 2), (.rot 3 1 2 false false 0, 2 ^ 63 + 1, 1, 3), (.rot 3 1 2 false false 0, 7, 64, 7),
    (.min 3 1 2 false false 0, 2 ^ 63, 1, 2 ^ 63), (.max 3 1 2 false false 0, 2 ^ 63, 1, 1), (.minu 3 1 2 false false 0, 2 ^ 63, 1, 1),
    (.maxu 3 1 2 false false 0, 2 ^ 63, 1, 2 ^ 63), (.sel 3 1 2 false false 0, 6, 9, 6), (.sel 3 1 2 false false 1, 6, 9, 9)] : List (Instr × Nat × Nat × Nat)).all
      (fun p => leaves p.1 (pair p.2.1 p.2.2.1) 3 == some p.2.2.2) = true := by decide +kernel

theorem test_integer_single : ([
    (.clz 3 1 false 0, 0, 64), (.clz 3 1 false 0, 1, 63), (.popc 3 1 false 0, 2 ^ 64 - 1, 64), (.mov 3 1 false 0, 77, 77),
    (.addi 3 1 false 0x4000, 0, 2 ^ 64 - 16384), (.andi 3 1 false 0x7fff, 0xff, 0xff), (.ori 3 1 false 0x4000, 1, 2 ^ 64 - 16383),
    (.shli 3 1 false 63, 3, 2 ^ 63), (.lit 3 0 0x80000000, 9, 2 ^ 64 - 2 ^ 31), (.lith 3 0 0x1234, 9, 0x1234 * 2 ^ 32 + 5)] : List (Instr × Nat × Nat)).all
      (fun p => leaves p.1 (pair p.2.1 0) 3 == some p.2.2) = true := by decide +kernel

theorem test_divisions : ([
    (.div 3 1 2 false false 0, 2 ^ 64 - 7, 2, 2 ^ 64 - 3), (.rem 3 1 2 false false 0, 2 ^ 64 - 7, 2, 2 ^ 64 - 1), (.divu 3 1 2 false false 0, 2 ^ 64 - 1, 2, 2 ^ 63 - 1),
    (.remu 3 1 2 false false 0, 2 ^ 64 - 1, 10, 5), (.div 3 1 2 false false 0, 2 ^ 63, 2 ^ 64 - 1, 2 ^ 63), (.rem 3 1 2 false false 0, 2 ^ 63, 2 ^ 64 - 1, 0)]
      : List (Instr × Nat × Nat × Nat)).all (fun p => delivers p.1 (pair p.2.1 p.2.2.1) == some p.2.2.2) = true := by decide +kernel

/-- R56: class 2, detail 1 at privilege M: TCAUSE = 3 x 1024 + 2 x 32 + 1, and TVAL the dividend. -/
theorem test_division_by_zero : trapped (.divu 0 1 2 false false 0) (pair 7 0) = some (3072 + 65, 7) := by decide +kernel

/-- FP32: 1 + 1 = 2, 3 x 3 = 9, 1 / 3 and sqrt 2 rounded to nearest even, 2 x 2 + 1 = 5, -1 as integers, classes, and the new NaN of core 0 for infinity - infinity (R66). -/
theorem test_floating_point : ([
    (.fadd 3 1 2 false false 0, 0x3f800000, 0x3f800000, 0x40000000), (.fsub 3 1 2 false false 0, 0x7f800000, 0x7f800000, 0x7fc007ff),
    (.fmul 3 1 2 false false 0, 0x40400000, 0x40400000, 0x41100000), (.fdiv 3 1 2 false false 0, 0x3f800000, 0x40400000, 0x3eaaaaab),
    (.fsqrt 3 1 false 0, 0x40000000, 0, 0x3fb504f3), (.fmin 3 1 2 false false 0, 0x80000000, 0, 0x80000000), (.fmax 3 1 2 false false 0, 0x80000000, 0, 0),
    (.fsgn 3 1 2 false false 0, 0x3f800000, 0x80000000, 0xbf800000), (.fclass 3 1 false 0, 0x7f800000, 0, 128), (.ffma 3 1 2 false false 0, 0x40000000, 0x40000000, 0x40800000),
    (.fcvt 3 1 .i32 false 0, 0xbf800000, 0, 2 ^ 64 - 1), (.fcvt 3 1 .bf16 false 0, 0x3f808000, 0, 0x3f80), (.icvt 3 1 .i32 false 0, 0xffffffff, 0, 0xbf800000)]
      : List (Instr × Nat × Nat × Nat)).all (fun p => delivers p.1 (strand (regs [(1, p.2.1), (2, p.2.2.1)])) == some p.2.2.2) = true := by decide +kernel

/-- The predicate that an instruction leaves. -/
def predicate (i : Instr) (s : State) (d : PReg) : Option Bool :=
  match exec i s with
  | .next t => some (t.me.pred d)
  | _ => none

theorem test_predicates : ([
    (.cmp 2 1 2 false false 0 .lt, 2 ^ 63, 0, true), (.cmp 2 1 2 false false 0 .ltu, 2 ^ 63, 0, false), (.cmp 2 1 2 false false 0 .eq, 5, 5, true),
    (.fcmp 2 1 2 false false 0 .eq, 0, 0x80000000, true), (.fcmp 2 1 2 false false 0 .ne, 0x7fc00000, 0x7fc00000, true), (.fcmp 2 1 2 false false 0 .un, 0x7fc00000, 0, true),
    (.fcmp 2 1 2 false false 0 .ge, 0x7fc00000, 0, false), (.pand 2 0 1 0, 0, 0, false), (.por 2 0 1 0, 0, 0, true), (.pnot 2 0 0, 0, 0, false)]
      : List (Instr × Nat × Nat × Bool)).all (fun p => predicate p.1 (pair p.2.1 p.2.2.1) 2 == some p.2.2.2) = true := by decide +kernel

theorem witness_IntegerPairResults : (pair 1 2).src.pred 0 = true ∧ (pair 1 2).ready [srcA 1 true, srcB 2 true] [3] false = true
    ∧ (pair 1 2).ready [srcA 1 true, srcB 2 true] [0] false = true := by decide +kernel

theorem witness_IntegerUnaryResults : (pair 1 2).src.pred 0 = true ∧ (pair 1 2).ready [srcA 1 true] [3] false = true
    ∧ (pair 1 2).ready [] [3] false = true ∧ (pair 1 2).ready [srcPlain 3] [3] false = true := by decide +kernel

/-- A pair with the core's divider busy until cycle 9. -/
def busy (x y : Nat) : State := (pair x y).modCore 0 fun c => { c with divFree := 9 }

theorem witness_DivisionsDeliverTheirResults : (pair 7 2).ready [srcA 1 true, srcB 2 true] [3] true = true ∧ (pair 7 2).rd 2 ≠ 0
    ∧ ((pair 7 2).core (pair 7 2).myCore).divFree ≤ (pair 7 2).now ∧ (pair 7 2).src.pred 0 = true := by decide +kernel

theorem witness_DivisionsTrapOrWait : (pair 7 0).ready [srcA 1 true, srcB 2 true] [3] true = true ∧ (pair 7 0).rd 2 = 0 ∧ (pair 7 0).me.status.tl < 2
    ∧ (pair 7 0).src.pred 0 = true ∧ (busy 7 2).src.pred 0 = true ∧ (busy 7 2).ready [srcA 1 true, srcB 2 true] [3] true = true ∧ (busy 7 2).rd 2 ≠ 0
    ∧ (busy 7 2).now < ((busy 7 2).core (busy 7 2).myCore).divFree
    ∧ (pair (2 ^ 63) (2 ^ 64 - 1)).rd 1 = BitVec.ofInt 64 (-2 ^ 63) ∧ (pair (2 ^ 63) (2 ^ 64 - 1)).rd 2 = BitVec.ofInt 64 (-1) := by decide +kernel

theorem witness_PredicateResults : (pair 1 2).src.pred 0 = true ∧ (pair 1 2).ready [srcA 1 true, srcB 2 true] [] false = true
    ∧ (pair 1 2).ready [] [] false = true := by decide +kernel

theorem witness_FloatingPointResults : (pair 1 2).src.pred 0 = true ∧ (pair 1 2).ready [srcA 1 true, srcB 2 true] [3] true = true
    ∧ (pair 1 2).ready [srcA 1 true, srcB 2 true, srcPlain 3] [3] true = true ∧ (pair 1 2).ready [srcA 1 true] [3] true = true
    ∧ ((pair 1 2).core (pair 1 2).myCore).divFree ≤ (pair 1 2).now := by decide +kernel

/-- Zero, the least subnormal and a normal code of FP32, and the largest code of E4M3. -/
theorem witness_RoundingKeepsRepresentableValues : (0 < 2 ^ (fp32.width + 1) ∧ ∃ x, fp32.value 0 = .num x) ∧ (∃ x, fp32.value 1 = .num x)
    ∧ (∃ x, bf16.value 0x3f80 = .num x) ∧ (0xfe < 2 ^ (e4m3.width + 1) ∧ ∃ x, e4m3.value 0xfe = .num x) :=
  ⟨⟨by decide, _, rfl⟩, ⟨_, rfl⟩, ⟨_, rfl⟩, ⟨by decide, _, rfl⟩⟩

/-- Predicate 1 is false after the bundle's placing, and every feature is accepted. -/
theorem witness_FalseGuardHasNoEffect : (pair 1 2).src.pred 1 = false ∧ [3, 4, 5, 6, 7].all (fun k => (pair 1 2).plat.drvfeat.getLsbD k) = true := by decide +kernel

/-- Registers s1 and s2 with marks. -/
def empties (m n : Mark) : State := strand (marks [(1, m), (2, n)])

theorem witness_EmptySourcesTrapOrWait :
    ((empties .pending .full).src.pred 0 = true ∧ (empties .pending .full).owedRead [srcA 1 true, srcB 2 true] = none ∧ ((empties .pending .full).src.reg 1).mark ≠ .full
      ∧ (empties .pending .full).me.status.tl < 2)
    ∧ (((empties .full .idle).src.reg 1).mark = .full ∧ ((empties .full .idle).src.reg 2).mark ≠ .full ∧ (empties .full .idle).owedRead [srcA 1 true, srcB 2 true] = none)
    ∧ (((empties .named .full).src.reg 1).mark ≠ .full ∧ ((empties .named .full).src.reg 2).mark = .full) := by decide +kernel

theorem test_empty_source_traps : trapped (.add 3 1 2 true true 0) (empties .idle .idle) = some (3072 + 32, 1)
    ∧ trapped (.add 3 1 2 false true 0) (empties .idle .idle) = some (3072 + 33, 2) := by decide +kernel

-- ==== control flow, special registers, traps ====

/-- A strand at pc 0x100, with 0x48 in s1. -/
def there : State := strand fun t => regs [(1, 0x48)] { t with pc := 0x100 }

/-- The pc, the frame depth and the cycle of the next bundle after an instruction. -/
def goes (i : Instr) (s : State) : Option (Nat × Nat × Nat) :=
  match exec i s with
  | .next t => some (t.me.pc.toNat, t.me.depth, t.me.front.readyAt)
  | _ => none

/-- R42, R85-R89: p0 is true; offsets in bundles; 1, 3 and 3 cycles. -/
theorem test_jumps : goes (.br 0 false 0xfffff) there = some (0xf8, 0, 3) ∧ goes (.br 0 true 2) there = some (0x108, 0, 1)
    ∧ goes (.jmp 0 false 2) there = some (0x110, 0, 1) ∧ goes (.call 0 false 2) there = some (0x110, 1, 1) ∧ goes (.jmpr 1 false 0) there = some (0x48, 0, 3)
    ∧ goes (.callr 1 true 0) there = some (0x48, 1, 3) ∧ goes .cnop there = some (0x100, 0, 0) := by decide +kernel

/-- A strand in its second frame, whose caller goes on at 0x108. -/
def called : State := strand fun t => { t with pc := 0x200, depth := 1, rets := t.rets.set 1 0x108 }

theorem test_return : goes (.ret 0) called = some (0x108, 0, 3) ∧ trapped (.ret 0) there = some (3072 + 7, 0) := by decide +kernel

/-- R13: after a call the caller's s24 is the callee's s8, and the callee's s24 is IDLE. -/
theorem test_window_moves : leaves (.call 0 false 2) (strand (regs [(24, 77)])) 8 = some 77 ∧ leaves (.call 0 false 2) (strand (regs [(24, 77)])) 24 = none := by
  decide +kernel

theorem witness_BranchesGoWhereTheySay : (there.src.pred 0 != true) = false ∧ (there.src.pred 0 != false) = true := by decide +kernel

theorem witness_CallsMakeAFrame : there.me.depth + 1 < there.me.oldest + 4 ∧ (there.src.pred 0 != false) = true ∧ there.src.pred 0 = true
    ∧ there.ready [srcA 1 true] [] false = true ∧ (there.rd 1).toNat < 2 ^ 63 ∧ (there.rd 1).toNat % 8 = 0 := by decide +kernel

/-- A strand in its fourth frame, every physical frame taken, whose window-store share holds the given words of SEG. -/
def deep (seg : Word) (moving : Bool) : State :=
  strand fun t => { t with depth := 3, id := { t.id with seg := seg }, front := { t.front with moving := moving } }

theorem witness_CallsSpillOrOverflow : ((deep 0 false).src.pred 0 != false) = true ∧ (deep 0 false).me.oldest + 4 ≤ (deep 0 false).me.depth + 1
    ∧ (deep 0 false).me.oldest ≤ (deep 0 false).me.depth ∧ (deep 0 false).me.share / 144 < (deep 0 false).me.oldest + 1 ∧ (deep 0 false).me.status.tl < 2
    ∧ (deep 0x1000000 true).me.oldest + 1 ≤ (deep 0x1000000 true).me.share / 144 ∧ (deep 0x1000000 true).me.front.moving = true
    ∧ (deep 0x1000000 false).me.front.moving = false ∧ (deep 0x1000000 false).me.oldest + 4 ≤ (deep 0x1000000 false).me.depth + 1 := by decide +kernel

theorem witness_ReturnsAndComputedTargets : (there.me.depth = 0 ∧ there.me.status.tl < 2) ∧ called.me.oldest < called.me.depth ∧ called.src.pred 0 = true
    ∧ (there.ready [srcA 1 true] [] false = true ∧ (there.rd 1).toNat % 8 = 0)
    ∧ (let s := strand (regs [(1, 2 ^ 63)]); s.src.pred 0 = true ∧ s.ready [srcA 1 true] [] false = true ∧ s.me.status.tl < 2 ∧ 2 ^ 63 ≤ (s.rd 1).toNat)
    ∧ (let s := strand (regs [(1, 2 ^ 63 - 1)]); s.ready [srcA 1 true] [] false = true ∧ (s.rd 1).toNat < 2 ^ 63 ∧ (s.rd 1).toNat % 8 ≠ 0) := by decide +kernel

/-- A strand in its first frame of which the caller's frame is spilled. -/
def spilledCaller (moving : Bool) : State := strand fun t => { t with depth := 1, oldest := 1, front := { t.front with moving := moving } }

theorem witness_ReturnsAndComputedTargets_fill : (spilledCaller true).src.pred 0 = true ∧ (spilledCaller true).me.depth ≠ 0 ∧ (spilledCaller true).me.depth ≤ (spilledCaller true).me.oldest
    ∧ (spilledCaller true).me.front.moving = true ∧ (spilledCaller false).me.front.moving = false := by decide +kernel

theorem witness_SpillThenFillRestoresTheFrame : (deep 0x1000000 true).mem.wf = true ∧ ((deep 0x1000000 true).slot 0).front.moving = true
    ∧ ((deep 0x1000000 true).slot 0).phase = .live := by decide +kernel

/-- R15, R16: a spill of frame 0 writes s8 at the base of the share, here offset 0 of the core's pool. -/
theorem test_spill_writes_the_frame : runs (.windowSpill 0) ((deep 0x1000000 true).modSlot 0 fun t => { t with regs := t.regs.set 8 { val := 0x55aa, mark := .full, poison := false } })
    (fun t => t.mem.read (poolKey 0 0) == 0xaa && t.mem.read (poolKey 0 1) == 0x55) = true := by decide +kernel

theorem witness_SpecialRegistersRead : there.src.status.tl ≤ 2 ∧ there.src.id.ctx < 65536 ∧ there.myCore < 2048 ∧ there.plat.device < 32768
    ∧ privGe there.me.status.priv .m = true ∧ there.src.pred 0 = true ∧ there.ready [] [1] false = true := by decide +kernel

theorem test_mfs : leaves (.mfs 2 0 0) there 2 = some 0x100 ∧ leaves (.mfs 2 1 0) there 2 = some 1 ∧ leaves (.mfs 2 3 0) there 2 = some 28
    ∧ leaves (.mfs 2 4 0) there 2 = some (2 ^ 32 + 1) ∧ leaves (.mfs 2 24 0) there 2 = some 0x1ff := by decide +kernel

theorem witness_SpecialRegistersWrite :
    (let s := strand (regs [(1, 15)]); s.src.pred 0 = true ∧ s.ready [srcA 1 false] [] false = true ∧ privGe s.me.status.priv .m = true ∧ (s.rd 1).toNat < 16
      ∧ (s.rd 1).toNat < 2 ^ 44 ∧ (s.rd 1).toNat / 2 ^ 6 % 64 + (s.rd 1).toNat % 64 ≤ 48)
    ∧ (let s := strand (regs [(1, 23)]); (s.rd 1).toNat < 2 ^ 26 ∧ (s.rd 1).toNat / 2 ^ 11 = s.plat.device ∧ (s.rd 1).toNat % 32 < 24
      ∧ (s.part s.me.id.part).quanta.getLsbD ((s.rd 1).toNat / 32 % 64) = true)
    ∧ (let s := strand (regs [(1, 2 ^ 63 - 2048)]); (s.rd 1).toNat < 2 ^ 63 ∧ (s.rd 1).toNat % 2048 = 0 ∧ (s.rd 1).toNat % 8 = 0)
    ∧ (let s := strand (regs [(1, 0x1dff)]); (s.rd 1).toNat < 2 ^ 13 ∧ (s.rd 1).toNat / 2 ^ 9 % 2 = 0 ∧ (s.rd 1).toNat / 2 ^ 10 % 4 ≠ 2)
    ∧ (let s := (strand (regs [(1, 0x1ff)])).modPart 0 fun p => { p with state := .free }
       s.me.status.priv = .m ∧ (s.rd 1).toNat < 2 ^ 9 ∧ s.rd 1 &&& ~~~s.plat.devfeat = 0 ∧ s.featuresLocked = false) := by decide +kernel

theorem witness_SpecialRegisterRefusalsTrap :
    (let s := strand fun t => at_ .u 0 (regs [(1, 256)] t); s.src.pred 0 = true ∧ s.me.status.tl < 2 ∧ s.me.status.priv = .u ∧ s.me.status.priv ≠ .m
      ∧ s.ready [] [2] false = true ∧ s.ready [srcA 1 false] [] false = true ∧ 256 ≤ (s.rd 1).toNat ∧ 16 ≤ (s.rd 1).toNat)
    ∧ 2 ^ 26 ≤ ((strand (regs [(1, 2 ^ 26)])).rd 1).toNat ∧ ((strand (regs [(1, 2 ^ 63)])).rd 1).toNat ≥ 2 ^ 63 ∧ ((strand (regs [(1, 4)])).rd 1).toNat % 8 ≠ 0 := by
  decide +kernel

/-- R27: detail 2 of class 9 with the value, and detail 1 with the index. -/
theorem test_mts : trapped (.mts 2 1 false 0) (strand (regs [(1, 16)])) = some (3072 + 9 * 32 + 2, 16) ∧ trapped (.mts 3 1 false 0) (strand (regs [(1, 16)])) = some (3072 + 9 * 32 + 1, 3)
    ∧ runs (.setpri 1 false 0) (strand (regs [(1, 15)])) (fun t => t.me.pri == 15) = true := by decide +kernel

theorem witness_HaltParksAndWakeEnds : there.src.pred 0 = true ∧ there.me.status.priv = .m
    ∧ (let s := strand (at_ .s 1); s.src.pred 0 = true ∧ s.me.status.priv ≠ .m ∧ s.me.status.tl < 2) := by decide +kernel

theorem test_halt_and_wake : runs (.halt 0) there (fun t => t.me.front.halted) = true
    ∧ runs .wake { (strand fun t => { t with front := { t.front with halted := true } }) with arg := [0, 0] } (fun t => !(t.slot 0).front.halted) = true := by decide +kernel

/-- A strand to which a failure is owed. -/
def owing : State := { there with owed := [(there.me.id.uid, 5, 0x1000)] }

theorem witness_TrapsAreTaken : there.src.pred 0 = true ∧ there.me.status.tl < 2 ∧ (strand (at_ .m 2)).src.pred 0 = true ∧ (strand (at_ .m 2)).me.status.tl = 2
    ∧ owing.owed.find? (fun o => o.1 == owing.me.id.uid) = some (there.me.id.uid, 5, 0x1000) ∧ owing.me.status.tl < 2 := by decide +kernel

/-- R303, R344: TRAP 2 at privilege U: the code, bits 9-5 the class 9; the pc of the bank is the pc; the handler stands at TVEC + 0x240. -/
theorem test_trap : runs (.trap 2 0) (strand fun t => at_ .u 0 { t with pc := 0x100, tvec := 0x1000 })
    (fun t => t.me.bank1.tcause == 0x132 && t.me.bank1.tpc == 0x100 && t.me.pc == 0x1240 && t.me.status == { ui := false, startclr := true, priv := .s, tl := 1 }) = true := by
  decide +kernel

/-- A strand in a trap of level 1 that came from U at 0x100. -/
def inTrap (tl : Nat) : State := strand fun t => at_ .s tl { t with bank1 := { t.bank1 with tpc := 0x100, tcause := 0x132 } }

theorem witness_TrapReturns : (inTrap 1).src.pred 0 = true ∧ (inTrap 1).me.status.tl = 1 ∧ (inTrap 2).me.status.tl = 2 ∧ (inTrap 0).me.status.tl = 0
    ∧ ((there.me.status.tl < 2 ∧ pcOf there.me.pc = there.me.pc) ∧ 15 < 16 ∧ 31 < 32) := by decide +kernel

theorem test_rett : runs (.rett 0) (inTrap 1) (fun t => t.me.pc == 0x100 && t.me.status.priv == .u && t.me.status.tl == 0) = true := by decide +kernel

/-- A strand with a pending completion interrupt, its handler at 0x800; and one that is in its handler. -/
def interrupted : State := strand fun t => { t with pc := 0x100, uint := { t.uint with uhvec := 0x800, pending := [(7, 9)], dropped := true } }

def handling : State := strand fun t => { t with status := { t.status with ui := true }, uint := { t.uint with uhpc := 0x100, shadow := { t.uint.shadow with s1 := { val := 5, mark := .idle, poison := false } } } }

theorem witness_CompletionInterrupts : ((interrupted.slot 0).uint.pending = (7, 9) :: [] ∧ (interrupted.slot 0).status.tl = 0 ∧ (interrupted.slot 0).status.ui = false
      ∧ (interrupted.slot 0).phase = .live)
    ∧ (handling.src.pred 0 = true ∧ handling.me.status.ui = true ∧ [1, 2, 3].all (fun n => (handling.src.reg n).mark != .pending) = true)
    ∧ (there.me.status.ui = false ∧ there.me.status.tl < 2) := by decide +kernel

theorem test_user_interrupt : runs (.userInterruptEntry 0) interrupted
      (fun t => (t.slot 0).val 1 == 7 && (t.slot 0).val 2 == 9 && (t.slot 0).val 3 == 1 && (t.slot 0).pc == 0x800 && (t.slot 0).uint.uhpc == 0x100) = true
    ∧ leaves (.uiret 0) handling 1 = some 5 := by decide +kernel

/-- No other port uses the core's banks; another strand of the core makes the move a shared one. -/
theorem witness_CallsSpillOrOverflow_ports : (deep 0x1000000 false).moveShared = false ∧ (spilledCaller false).moveShared = false
    ∧ ((deep 0x1000000 false).setSlot 1 (deep 0x1000000 false).me).moveShared = true := by decide +kernel

/-- Every refused value of R27 at the ends of its range: SEG, TVEC, the trap bank and SETPRI. -/
theorem witness_SpecialRegisterRefusalsTrap_values :
    (let s := strand (at_ .m 0); s.me.status.priv ≠ .u ∧ s.me.status.priv = .m ∧ s.src.pred 0 = true ∧ s.ready [srcA 1 false] [] false = true ∧ s.me.status.tl < 2)
    ∧ 2 ^ 44 ≤ ((strand (regs [(1, 2 ^ 44)])).rd 1).toNat
    ∧ (let n := ((strand (regs [(1, 48 * 2 ^ 18 + 2 ^ 12)])).rd 1).toNat; 48 < n / 2 ^ 18 % 64 + n / 2 ^ 12 % 64)
    ∧ (let n := ((strand (regs [(1, 2 ^ 30 + 48 * 2 ^ 24)])).rd 1).toNat; 48 < n / 2 ^ 30 % 64 + n / 2 ^ 24 % 64)
    ∧ (let n := ((strand (regs [(1, 48 * 2 ^ 6 + 1)])).rd 1).toNat; 48 < n / 2 ^ 6 % 64 + n % 64)
    ∧ ((strand (regs [(1, 1024)])).rd 1).toNat % 2048 ≠ 0 ∧ ((strand (regs [(1, 4)])).rd 1).toNat % 8 ≠ 0 ∧ 2 ^ 63 ≤ ((strand (regs [(1, 2 ^ 63)])).rd 1).toNat
    ∧ 2 ^ 13 ≤ ((strand (regs [(1, 2 ^ 13)])).rd 1).toNat ∧ ((strand (regs [(1, 2 ^ 9)])).rd 1).toNat / 2 ^ 9 % 2 = 1 ∧ ((strand (regs [(1, 2 * 2 ^ 10)])).rd 1).toNat / 2 ^ 10 % 4 = 2
    ∧ ((strand (regs [(1, 16)])).rd 1).toNat = 16 ∧ 2 ^ 9 ≤ ((strand (regs [(1, 2 ^ 9)])).rd 1).toNat ∧ (strand id).featuresLocked = true
    ∧ (let s := { strand (regs [(1, 2)]) with plat := { (strand id).plat with devfeat := 1 } }; s.rd 1 &&& ~~~s.plat.devfeat ≠ 0) := by decide +kernel

/-- What each of them traps with. -/
theorem test_mts_refusals : [(7, 2 ^ 44), (7, 48 * 2 ^ 6 + 1), (12, 1024), (13, 4), (14, 2 ^ 9), (17, 2 ^ 63), (18, 2 ^ 11)].all
    (fun p => trapped (.mts (BitVec.ofNat 5 p.1) 1 false 0) (strand (regs [(1, p.2)])) == some (3072 + 9 * 32 + 2, p.2)) = true := by decide +kernel

/-- A strand that waited at a barrier when its trap was taken; one that waits there while a failure is owed to it, or an interrupt comes. -/
def fronted (f : Front → Front) (s : State) : State := s.modSlot 0 fun t => { t with front := f t.front }

theorem witness_TrapReturns_held : ((fronted (fun f => { f with held := f.held.set 1 (.barrier 7) }) (inTrap 1)).me.front.held.get .none 1 = .barrier 7)
    ∧ (fronted (fun f => { f with held := f.held.set 1 (.barrier 7) }) (inTrap 1)).src.pred 0 = true
    ∧ (fronted (fun f => { f with wait := .barrier 7 }) owing).me.front.wait = .barrier 7
    ∧ (fronted (fun f => { f with wait := .barrier 7 }) owing).owed.find? (fun o => o.1 == owing.me.id.uid) = some (there.me.id.uid, 5, 0x1000)
    ∧ ((fronted (fun f => { f with wait := .barrier 7 }) interrupted).slot 0).front.wait ≠ .none
    ∧ ((fronted (fun f => { f with wait := .barrier 7 }) interrupted).slot 0).uint.pending = [(7, 9)]
    ∧ (fronted (fun f => { f with held := f.held.set 0 (.barrier 7) }) handling).me.front.held.get .none 0 = .barrier 7
    ∧ (fronted (fun f => { f with held := f.held.set 0 (.barrier 7) }) handling).me.status.ui = true := by decide +kernel

-- ==== memory ====

/-- A strand whose core translates addresses below 2^30 by one leaf. -/
def mapped (leaf : Word) (f : Slot → Slot) : State :=
  (((State.reset.withBundle 0 0).modSlot 0 f).modCore 0 fun c =>
    { c with tlb := [{ part := 0, asid := 0, page := 0, bits := 30, leaf := leaf }] }).atIssue 0

/-- The same page, readable, writable and executable, with bytes 1 to 8 at address 16 and 16 in s1, 0x8877 in s2. -/
def plain : State := { mapped 0x3f (regs [(1, 16), (2, 0x8877)]) with mem := (List.range 8).map fun k => (16 + k, BitVec.ofNat 8 (k + 1)) }

/-- What an access of the issuing strand meets. -/
def meets (s : State) (k : AccKind) (n : Nat) (va : Word) : Option Acc × Option TrapInfo :=
  match (s.access s.whoMe k n va).2 with
  | .ok a => (some a, none)
  | .error e => (none, some e)

theorem witness_AccessChecksInOrder :
    ((0x8000000000000000#64).toNat ≥ 2 ^ 63 ∧ (0x7fffffffffffffff#64).toNat < 2 ^ 63 ∧ (0x7fffffffffffffff#64).toNat % 8 ≠ 0)
    ∧ (match (State.reset.translate { core := 0, part := 0, asid := 0, priv := .u } 8).2 with | .error r => r == 1 | _ => false) = true
    ∧ (match (plain.translate plain.whoMe 16).2 with | .ok (leaf, _) => leaf.getLsbD 2 && leaf.getLsbD 3 && leaf.getLsbD 5 | _ => false) = true
    ∧ meets plain .load 8 16 = (some { pa := 16, target := .hbm 16, melt := false, device := false }, none)
    ∧ meets (mapped 0x1000000003f id) .load 8 16 = (none, some { cls := 3, detail := 2, tval := 16 })
    ∧ meets (mapped 0x7 id) .store 8 16 = (none, some { cls := 3, detail := 12, tval := 16 }) := by decide +kernel

/-- R92: a signed byte, a little-endian word, and 8 bytes. -/
theorem test_loads : delivers (.ld 3 1 7 false false .b) plain = some 8
    ∧ delivers (.ldS 3 1 0 false .w .die) plain = some 0x04030201 ∧ delivers (.ldS 3 1 0 false .d .device) plain = some 0x0807060504030201 := by decide +kernel

theorem witness_LoadsReadOrTrap :
    (plain.partials = [] ∧ plain.melts = [] ∧ plain.replicas = [] ∧ plain.badBytes = [] ∧ (plain.core plain.myCore).sb = []
      ∧ plain.cores.all (fun c => c.2.l1d.isEmpty && c.2.atomics.isEmpty) = true ∧ plain.cmds = [])
    ∧ plain.mustWalk 8 (cmAddress (plain.rd 1) 0 8) = false ∧ plain.mustWalk 4 (cmAddress (plain.rd 1) 0x80 4) = false
    ∧ plain.ready [srcA 1 true] [3] true = true ∧ meets plain .load 8 (cmAddress (plain.rd 1) 0 8) = (some { pa := 16, target := .hbm 16, melt := false, device := false }, none)
    ∧ meets plain .load 4 (cmAddress (plain.rd 1) 0x80 4) = (none, some { cls := 3, detail := 1, tval := BitVec.ofInt 64 (16 - 512) })
    ∧ plain.me.status.tl < 2 ∧ plain.ready [srcA 1 false, srcD 2 true] [] false = true
    ∧ meets plain .store 4 (cmAddress (plain.rd 1) 0x80 4) = (none, some { cls := 3, detail := 9, tval := BitVec.ofInt 64 (16 - 512) }) := by decide +kernel

/-- A load that finds its translation in no TLB, one that finds it in its cluster's, and a store. -/
def unmapped : State := strand (regs [(1, 16)])

theorem witness_LoadsReadOrTrap_walks : (cmAddress (unmapped.rd 1) 0 8).toNat < 2 ^ 63 ∧ (cmAddress (unmapped.rd 1) 0 8).toNat % 8 = 0 ∧ unmapped.me.front.walked ≠ some (cmAddress (unmapped.rd 1) 0 8)
    ∧ unmapped.ready [srcA 1 true] [3] true = true ∧ unmapped.ready [srcA 1 true, srcD 2 true] [] false = true ∧ unmapped.cmds = [] ∧ unmapped.walks = []
    ∧ (unmapped.core unmapped.myCore).tlb.any (fun e => e.hits 0 0 16) = false ∧ (unmapped.cluster 0).tlb.any (fun e => e.hits 0 0 16) = false
    ∧ (let s := unmapped.modCluster 0 fun c => { c with tlb := [{ part := 0, asid := 0, page := 0, bits := 30, leaf := 0x3f }] }
       (s.core s.myCore).tlb.any (fun e => e.hits 0 0 16) = false ∧ (s.cluster (clusterOf s.myCore)).tlb.any (fun e => e.hits 0 0 16) = true) := by decide +kernel

/-- R323: after a miss of both TLBs the bundle waits; after a hit in the cluster's it is ready 6 cycles later. -/
theorem test_walks : runs (.ld 3 1 0 true false .d) unmapped (fun t => t.flow == .wait && t.walks.length == 1 && t.me.front.walked == some 16) = true
    ∧ runs (.ld 3 1 0 true false .d) (unmapped.modCluster 0 fun c => { c with tlb := [{ part := 0, asid := 0, page := 0, bits := 30, leaf := 0x3f }] })
      (fun t => t.flow == .wait && t.walks.isEmpty && t.me.front.readyAt == t.now + 6) = true := by decide +kernel

/-- A store of `n` bytes in the buffer of core 0, on HBM at 16. -/
def stored (n : Nat) : State :=
  let e : SbEntry := { id := 7, uid := 1, slot := 0, seq := 0, part := 0, priv := .m, va := 16, pa := 16, target := .hbm 16, bytes := List.replicate n 0xee, strong := true, device := false, scope := .device }
  plain.modCore 0 fun c => { c with sb := [e] }

/-- The same page with TYPE 00 as a page of melt granules. -/
def meltPage : State := mapped 0xbf (regs [(1, 16), (2, 0x8877)])

theorem witness_StoresReachMemory :
    (plain.storesHeld plain.myCore < 32 ∧ plain.ready [srcA 1 true, srcD 2 true] [] false = true ∧ plain.allPerformed false .system = true
      ∧ plain.mustWalk 8 (cmAddress (plain.rd 1) 0 8) = false ∧ meets plain .store 8 (cmAddress (plain.rd 1) 0 8) = (some { pa := 16, target := .hbm 16, melt := false, device := false }, none)
      ∧ meets meltPage .store 8 (cmAddress (meltPage.rd 1) 0 8) = (some { pa := 16, target := .hbm 16, melt := true, device := false }, none) ∧ meltPage.mem.wf = true)
    ∧ (((stored 8).core 0).sb.find? (fun e => e.id == 7)).isSome = true
    ∧ ((((stored 8).core 0).sb.find? (fun e => e.id == 7)).map fun e => (stored 8).storeHeld 0 e) = some false
    ∧ (stored 8).partials = [] ∧ (stored 8).mem.wf = true ∧ ((stored 8).core 0).l1d = [] ∧ 16 % 64 + 8 ≤ 64
    ∧ (stored 8).cores.all (fun c => c.2.atomics.isEmpty) = true
    ∧ (((stored 8).core 0).sb.all fun e => e.target == .hbm 16 && decide (e.bytes.length ≤ 8)) = true := by decide +kernel

/-- R6: the bytes of s2, least significant first, enter the buffer; performed, they and no others change. -/
theorem test_stores : runs (.st 2 1 false 0 false .h) plain (fun t => ((t.core 0).sb.map fun e => (e.bytes, e.pa)) == [([0x77, 0x88], 16)] && t.mem == plain.mem) = true
    ∧ runs (.storePerform 0 7) (stored 2) (fun t => t.mem.readBytes 15 4 == [0, 0xee, 0xee, 3] && (t.core 0).sb.isEmpty) = true := by decide +kernel

/-- s1 names the scratchpad of the own core, s2 the byte behind its limit. -/
def padded : State := strand (regs [(1, 31 * 2 ^ 22), (2, 31 * 2 ^ 22 + 38 * 16384), (3, 0xabcd)])

theorem witness_LocalAccessesUseThePool : padded.cores.all (fun c => c.2.atomics.isEmpty) = true ∧ padded.ready [srcA 1 true] [4] true = true
    ∧ padded.badPlace (poolKey 0 (2 * 16384)) 8 = none ∧ padded.ready [srcA 1 true, srcD 3 true] [] false = true ∧ padded.mem.wf = true ∧ padded.me.status.tl < 2
    ∧ (match padded.localMe false 8 (padded.rd 1) with | .ok p => p == (0, 2 * 16384) | _ => false) = true
    ∧ (match padded.localMe true 8 (padded.rd 1) with | .ok p => p == (0, 2 * 16384) | _ => false) = true
    ∧ (match padded.localMe true 8 (padded.rd 2) with | .error e => e.detail == 27 | _ => false) = true
    ∧ (match padded.localMe false 8 (cmAddress (padded.rd 2) 0xff 8) with | .ok p => p == (0, 40 * 16384 - 8) | _ => false) = true := by decide +kernel

theorem test_local : runs (.stl 3 1 false 1 false .h) padded (fun t => t.mem.readBytes (poolKey 0 (2 * 16384 + 2)) 2 == [0xcd, 0xab]) = true
    ∧ trapped (.stl 3 2 false 0 false .b) padded = some (3072 + 96 + 27, 31 * 2 ^ 22 + 38 * 16384) := by decide +kernel

/-- An atomic of a strand that is queued with core 0, on the 4 bytes at 16. -/
def request (rmw : Rmw) (v : Word) (sc : Scope) : AtomicReq :=
  { uid := strandKey 0 1 1, tag := 5, core := 0, part := 0, key := 16, size := 4, rmw := rmw, value := v, scope := sc, seq := 0, old := none, done := false, melt := false, limit := 0 }

def queued (r : AtomicReq) (old : Nat) : State :=
  { ((plain.modCore 0 fun c => { c with atomics := [r] }).modSlot 0 fun t => { t with pend := { t.pend with out := [{ tag := 5, reg := 3, kind := .atomic, seq := 0 }] } })
    with mem := State.reset.mem.writeBytes 16 (leBytes 4 old) }

theorem witness_AtomicsReadModifyWrite :
    (plain.src.pred 0 = true ∧ plain.atomicsHeld plain.myCore < 32 ∧ (plain.rd 1).toNat / 2 ^ 32 ≠ 0xffffffff ∧ plain.ready [srcA 1 true, srcB 2 true] [3] true = true
      ∧ plain.ready [srcA 1 true, srcB 2 true, srcPlain 3] [3] true = true ∧ plain.ready [srcA 1 true, srcB 2 true] [] false = true
      ∧ plain.mustWalk 4 (plain.rd 1) = false ∧ meets plain .rmw 4 (plain.rd 1) = (some { pa := 16, target := .hbm 16, melt := false, device := false }, none))
    ∧ (let r := request (.amo .add) 1 .device; let s := queued r 7
       s.mem.wf = true ∧ s.partials = [] ∧ s.cores.all (fun c => c.2.l1d.isEmpty) = true ∧ s.replicas = [] ∧ r.key < 2 ^ 55 ∧ r.size = 4 ∧ r ∈ (s.core r.core).atomics ∧ r.old = none
        ∧ s.atomicHeld r = false ∧ (s.core r.core).atomics.find? (fun x => x.tag == r.tag) = some r ∧ r.done = false
        ∧ s.cores.all (fun c => c.2.atomics.all fun x => x.old.isNone) = true
        ∧ (s.away.get? r.uid).isNone = true ∧ s.slotOf r.uid = some 0 ∧ ((s.slot 0).pend.out.find? (fun o => o.tag == r.tag)).isSome = true)
    ∧ (let r := request (.red .max) 1 .die; let s := queued r 7
       s.partials = [] ∧ r.rmw = .red .max ∧ r.scope = .die ∧ r.key < 2 ^ 55 ∧ r ∈ (s.core r.core).atomics ∧ s.atomicHeld r = false)
    ∧ (let r := request (.red .max) 1 .die; let s := (queued r 7).modSlot 0 fun t => { t with pend := { t.pend with out := [] } }
       s.outOf r.uid r.tag = none ∧ r ∈ (s.core r.core).atomics ∧ s.atomicHeld r = false)
    ∧ (let s := { padded with slots := (padded.modSlot 0 (regs [(1, 0xffffffff * 2 ^ 32 + 31 * 2 ^ 22)])).slots }.atIssue 0
       (s.rd 1).toNat / 2 ^ 32 = 0xffffffff ∧ Scope.core.code < 2 ∧ 2 ≤ Scope.die.code ∧ s.me.status.tl < 2 ∧ s.atomicsHeld s.myCore < 32
        ∧ (match s.localMe true 4 (BitVec.ofNat 64 ((s.rd 1).toNat % 2 ^ 32)) with | .ok p => p == (0, 2 * 16384) | _ => false) = true) := by decide +kernel

/-- The worked rows of R225: AMO.ADD.W of 0x20 on 0xFFFF_FFF0 leaves 0x10 and delivers the old word zero-extended; AMO.MIN.W of 5 leaves it and delivers it sign-extended. -/
theorem test_atomics : runs (.atomicExecute (request (.amo .add) 0x20 .device)) (queued (request (.amo .add) 0x20 .device) 0xfffffff0)
      (fun t => leNat (t.mem.readBytes 16 4) == 0x10 && (t.slot 0).val 3 == 0xfffffff0) = true
    ∧ runs (.atomicExecute (request (.amo .min) 5 .device)) (queued (request (.amo .min) 5 .device) 0xfffffff0)
      (fun t => leNat (t.mem.readBytes 16 4) == 0xfffffff0 && (t.slot 0).val 3 == 0xfffffffffffffff0) = true
    ∧ runs (.atomicExecute (request (.cas 7) 9 .device)) (queued (request (.cas 7) 9 .device) 7)
      (fun t => leNat (t.mem.readBytes 16 4) == 9 && (t.slot 0).val 3 == 7) = true := by decide +kernel

theorem witness_FencesAndCacheOperations : plain.src.pred 0 = true ∧ plain.allPerformed true .system = true ∧ Scope.die.code < 4 ∧ 4 ≤ Scope.device.code
    ∧ (let s := (stored 8).modSlot 0 fun t => { t with pend := { t.pend with seq := 1 } }
       let s := s.modCore 0 fun c => { c with sb := c.sb.map fun e => { e with uid := strandKey 0 1 1 } }
       s.allPerformed true .core = false ∧ s.src.pred 0 = true)
    ∧ plain.ready [srcA 1 true] [] false = true ∧ plain.mem.wf = true ∧ plain.mustWalk 1 (plain.rd 1) = false ∧ plain.partials = []
    ∧ meets meltPage .load 1 (meltPage.rd 1) = (some { pa := 16, target := .hbm 16, melt := true, device := false }, none)
    ∧ meets plain .load 1 (plain.rd 1) = (some { pa := 16, target := .hbm 16, melt := false, device := false }, none) := by decide +kernel

/-- A producer of s5, and one of s8 of frame 0 while the strand is in frame 2 with frame 0 spilled. -/
def producing (reg depth oldest : Nat) : State :=
  strand fun t => { t with depth := depth, oldest := oldest, pend := { t.pend with out := [{ tag := 5, reg := reg, kind := .load, seq := 0 }] } }

theorem witness_DeliveriesFillTheirRegister :
    ((producing 5 0 0).slotOf (strandKey 0 1 1) = some 0 ∧ (((producing 5 0 0).slot 0).pend.out.find? (fun o => o.tag == 5)).isSome = true)
    ∧ ((producing 8 2 1).slotOf (strandKey 0 1 1) = some 0 ∧ (((producing 8 2 1).slot 0).pend.out.find? (fun o => o.tag == 5)).isSome = true ∧ (8 - 8) / 16 < 1
      ∧ (producing 8 2 1).mem.wf = true)
    ∧ plain.slotOf 99 = none ∧ plain.away.get? 99 = none := by decide +kernel

theorem test_deliveries : runs (.deliver (strandKey 0 1 1) 5 (.val 77)) (producing 5 0 0) (fun t => (t.slot 0).val 5 == 77 && (t.slot 0).pend.out.isEmpty) = true
    ∧ runs (.deliver (strandKey 0 1 1) 5 (.val 77)) (producing 8 2 1) (fun t => t.mem.readBytes (poolKey 0 0) 2 == [77, 0]) = true := by decide +kernel

/-- A packet from stop 0 to stop 5 of die 0. -/
def onTorus (stop : Nat) : State := { plain with torus := [{ id := 3, die := 0, stop := stop, dst := 5, ring := none }] }

theorem witness_FetchesWalksAndPackets :
    (let s := plain; s.mustWalk 8 (s.slot 0).pc = false ∧ s.partials = [] ∧ s.badBytes = [] ∧ (s.core 0).l1d = [] ∧ (s.core 0).sb = [] ∧ unmapped.mustWalk 8 (unmapped.slot 0).pc = true ∧ (match (s.access { core := 0, part := 0, asid := 0, priv := .m } .fetch 8 (s.slot 0).pc).2 with | .ok a => a.target == .hbm 0 | _ => false) = true
      ∧ s.melts = [] ∧ s.replicas = [] ∧ (s.core (coreOf 0)).ibuf = [])
    ∧ (let s := mapped 0x3 id; s.mustWalk 8 (s.slot 0).pc = false ∧ (match (s.access { core := 0, part := 0, asid := 0, priv := .m } .fetch 8 (s.slot 0).pc).2 with | .error e => e.detail == 20 | _ => false) = true)
    ∧ plain.ownerOf (clusterOf 0) = some 0 ∧ (match (plain.walk 0 0 0 0).2.result with | .error r => r == 1 | _ => false) = true
    ∧ (let s := { plain with mem := State.reset.mem.writeBytes 0 [1, 0x10] |>.writeBytes 0x1000 [1, 0x20] |>.writeBytes 0x2000 [0x3f] }
       (match (s.walk 0 0 0 0).2.result with | .ok p => p == (0x3f, 30) | _ => false) = true ∧ s.ownerOf (clusterOf 0) = some 0)
    ∧ (let s := strand id; (s.core 0).tlb.any (fun e => e.hits 0 0 0) = false ∧ (s.cluster (clusterOf 0)).tlb.any (fun e => e.hits 0 0 0) = false ∧ s.ownerOf 0 = some 0
       ∧ (match (s.walk 0 0 0 0).2.result with | .error r => r == 1 | _ => false) = true)
    ∧ ((onTorus 5).torus.find? (fun x => x.die == 0 && x.id == 3)).isSome = true ∧ ((onTorus 0).torus.find? (fun x => x.die == 0 && x.id == 3)).isSome = true := by decide +kernel

/-- A stop where nothing stands has at least two free slots of a ring direction, whatever a ring holds; where no packet stands in a ring's slots of Config, there is none. -/
theorem witness_FetchesWalksAndPackets_ring : 2 ≤ (onTorus 0).ringFree 0 (torusNext 0 5) (hopDir 0 (torusNext 0 5))
    ∧ ({ onTorus 0 with torus := (onTorus 0).torus ++ List.replicate (2 + Config.ringSlots) { id := 4, die := 0, stop := 1, dst := 5, ring := some 0 } } : State).ringFree 0 1 0 < 2 := by
  constructor
  · have h : ((onTorus 0).torus.filter fun p => p.die == 0 && p.stop == torusNext 0 5 && p.ring == some (hopDir 0 (torusNext 0 5))).length = 0 := by decide +kernel
    unfold State.ringFree
    omega
  · simp [State.ringFree, onTorus]

/-- R162: along the row first. -/
theorem test_torus : torusNext 0 5 = 1 ∧ torusNext 1 5 = 5 ∧ torusNext 0 3 = 3 ∧ torusNext 0 12 = 12 := by decide +kernel

/-- Where a physical address leads, or the reason it leads nowhere. -/
def leadsTo (s : State) (p : Priv) (typed : Bool) (pa : Nat) : Option Target × Option Nat :=
  match s.resolve { core := 0, part := 0, asid := 0, priv := p } typed (BitVec.ofNat 64 pa) with
  | .ok x => (some x, none)
  | .error r => (none, some r)

/-- A partition of one quantum, 6 GiB, whose heap is the last 64 KB of them, and with 1 GB of host memory of port 1 from 3 GB on. -/
def laidOut (feat : Word) : State :=
  let s := plain.modPart 0 fun p => { p with fheap := BitVec.ofNat 64 (6 * 2 ^ 30 - 65536 + 1), hmap := BitVec.ofNat 64 (3 * 2 ^ 30 + 1 * 2 ^ 8 + 2 + 1) }
  { s with plat := { s.plat with drvfeat := feat } }

/-- Every clause of the map, at the ends of its range: another device with FABRIC, without, and beyond the last number; HBM, its heap and what lies above; host memory; control space; no address. -/
theorem witness_AccessChecksInOrder_map : (laidOut 8).plat.device = 0 ∧ (laidOut 8).plat.drvfeat.getLsbD 3 = true ∧ (laidOut 0).plat.drvfeat.getLsbD 3 = false
    ∧ leadsTo (laidOut 8) .u false (16415 * 2 ^ 49 + 5) = (some (.remote 16415 5), none) ∧ leadsTo (laidOut 8) .u false (16416 * 2 ^ 49) = (none, some 2)
    ∧ leadsTo (laidOut 0) .u false (1 * 2 ^ 49) = (none, some 2)
    ∧ leadsTo (laidOut 0) .u false (6 * 2 ^ 30 - 65537) = (some (.hbm (6 * 2 ^ 30 - 65537)), none) ∧ leadsTo (laidOut 0) .u false (6 * 2 ^ 30 - 65536) = (none, some 5) ∧ leadsTo (laidOut 0) .u false (6 * 2 ^ 30 - 1) = (none, some 5)
    ∧ leadsTo (laidOut 0) .u false (6 * 2 ^ 30) = (none, some 2) ∧ leadsTo (laidOut 0) .u false (2 ^ 44 - 1) = (none, some 2)
    ∧ leadsTo (laidOut 0) .u false (2 ^ 44) = (some (.host 1 (3 * 2 ^ 30)), none) ∧ leadsTo (laidOut 0) .u false (2 ^ 44 + 2 ^ 30) = (none, some 2) ∧ leadsTo plain .u false (2 ^ 44) = (none, some 2)
    ∧ leadsTo (laidOut 0) .s true 0x1f0000000000 = (some (.control 0x1f0000000000), none) ∧ leadsTo (laidOut 0) .u true 0x1f0000000000 = (none, some 3)
    ∧ leadsTo (laidOut 0) .m false 0x1fffffffffff = (none, some 3) ∧ leadsTo (laidOut 0) .m true (2 ^ 45) = (none, some 2) := by decide +kernel

/-- A load of host memory, of a page of melt granules, and of a TYPE 01 page, which waits for no device access; and a store to one. -/
def hostPage : State :=
  let s := mapped (BitVec.ofNat 64 (2 ^ 44 + 0x3f)) (regs [(1, 16), (2, 0x8877)])
  s.modPart 0 fun p => { p with hmap := BitVec.ofNat 64 (1 * 2 ^ 8 + 1) }

def devicePage : State := mapped 0x13f (regs [(1, 16), (2, 0x8877)])

theorem witness_LoadsReadOrTrap_levels : [hostPage, devicePage, meltPage].all (fun s => s.cores.all (fun c => c.2.l1d.isEmpty && c.2.atomics.isEmpty && c.2.sb.isEmpty) && s.cmds.isEmpty
      && decide (s.mustWalk 8 (cmAddress (s.rd 1) 0 8) = false) && decide (s.ready [srcA 1 true] [3] true = true) && s.partials.isEmpty && s.melts.isEmpty && s.replicas.isEmpty && s.badBytes.isEmpty) = true
    ∧ meets hostPage .load 8 (cmAddress (hostPage.rd 1) 0 8) = (some { pa := BitVec.ofNat 64 (2 ^ 44 + 16), target := .host 0 16, melt := false, device := false }, none)
    ∧ meets devicePage .load 8 (cmAddress (devicePage.rd 1) 0 8) = (some { pa := 16, target := .hbm 16, melt := false, device := true }, none)
    ∧ devicePage.deviceOpen none = false ∧ devicePage.deviceWaits { pa := 16, target := .hbm 16, melt := false, device := true } = false ∧ devicePage.storesHeld devicePage.myCore < 32
    ∧ meets meltPage .load 8 (cmAddress (meltPage.rd 1) 0 8) = (some { pa := 16, target := .hbm 16, melt := true, device := false }, none)
    ∧ meets devicePage .rmw 8 (devicePage.rd 1) = (some { pa := 16, target := .hbm 16, melt := false, device := true }, none) := by decide +kernel

/-- A miss of both TLBs while a walk of the page is under way, while 16 walkers are busy, and with walkers free. -/
theorem witness_LoadsReadOrTrap_walkers :
    (let w : Walk := { die := 0, part := 0, asid := 0, page := 0, done := 40 }
     let s := { unmapped with walks := [w] }
     (s.walks.filter fun w => w.die == dieOf s.myCore).find? (fun w => w.part == s.me.id.part && w.asid == s.me.id.asid && w.page == (cmAddress (s.rd 1) 0 8).toNat / 65536) = some w)
    ∧ (let s := { unmapped with walks := (List.range 16).map fun k => { die := 0, part := 0, asid := 1, page := k, done := 40 } }
       let die := s.walks.filter fun w => w.die == dieOf s.myCore
       16 ≤ die.length ∧ die.find? (fun w => w.part == s.me.id.part && w.asid == s.me.id.asid && w.page == (cmAddress (s.rd 1) 0 8).toNat / 65536) = none)
    ∧ (unmapped.walks.filter fun w => w.die == dieOf unmapped.myCore).length < 16 := by decide +kernel

/-- Stores: a release with nothing before it, and one behind a buffered store of its strand; no request on its way; no descriptor in the bytes. -/
theorem witness_StoresReachMemory_release : plain.allPerformed false .device = true ∧ plain.descsAt 16 8 = [] ∧ ((stored 8).core 0).unacked = []
    ∧ (let s := ((stored 8).modSlot 0 fun t => { t with pend := { t.pend with seq := 1 } }).modCore 0 fun c => { c with sb := c.sb.map fun e => { e with uid := strandKey 0 1 1 } }
       s.allPerformed false .die = false ∧ s.storesHeld s.myCore < 32 ∧ s.ready [srcA 1 true, srcD 2 true] [] false = true) := by decide +kernel

/-- What a local address of a strand at U, with 2 granules of window store and 3 of landing buffer, leads to. -/
def localTo (s : State) (store : Bool) (n ea : Nat) : Option (Nat × Nat) × Option Nat :=
  match s.localMe store n (BitVec.ofNat 64 ea) with
  | .ok p => (some p, none)
  | .error e => (none, some e.detail)

def seated (p : Priv) : State :=
  let seg := BitVec.ofNat 64 (4 * 2 ^ 30 + 2 * 2 ^ 24 + 6 * 2 ^ 18 + 5 * 2 ^ 12 + 11 * 2 ^ 6 + 3)
  let s := strand fun t => at_ p 0 { t with id := { t.id with seg := seg } }
  s.modContext (contextKey 0 1) fun c => { c with pool := BitVec.ofNat 64 (3 * 2 ^ 12 + 5 * 2 ^ 6 + 2) }

theorem witness_LocalAccessesUseThePool_addresses : ((seated .u).cluster ((seated .u).myCore / 32)).folded = false
    ∧ [localTo (seated .u) false 2 (31 * 2 ^ 22 + 1),
      localTo (seated .u) false 1 (2 ^ 27),
      localTo (seated .u) false 1 (24 * 2 ^ 22),
      localTo (seated .u) false 1 (30 * 2 ^ 22),
      localTo (seated .u) false 1 (31 * 2 ^ 22 + 3 * 2 ^ 20),
      localTo (seated .u) true 8 (31 * 2 ^ 22 + 5 * 16384 - 8),
      localTo (seated .u) true 8 (31 * 2 ^ 22 + 5 * 16384),
      localTo (seated .u) false 8 (31 * 2 ^ 22 + 2 ^ 20 + 2 * 16384 - 8),
      localTo (seated .u) true 8 (31 * 2 ^ 22 + 2 ^ 20),
      localTo (seated .s) true 8 (31 * 2 ^ 22 + 2 ^ 20),
      localTo (seated .u) true 8 (31 * 2 ^ 22 + 2 ^ 20 + 2 * 16384),
      localTo (seated .u) true 4 (31 * 2 ^ 22 + 2 * 2 ^ 20),
      localTo (seated .u) true 8 (23 * 2 ^ 22 + 5 * 16384 - 8),
      localTo (seated .u) true 8 (0),
      localTo (seated .u) false 8 (2 ^ 20),
      localTo (seated .u) true 1 (2 * 2 ^ 20 + 3 * 16384),
      localTo (seated .u) true 1 (2 * 2 ^ 20)]
    = [(none, some 24), (none, some 26), (none, some 26), (none, some 26), (none, some 26), (some (0, 11 * 16384 - 8), none), (none, some 27), (some (0, 6 * 16384 - 8), none), (none, some 28), (some (0, 4 * 16384), none), (none, some 27), (some (0, 11 * 16384), none), (some (23, 7 * 16384 - 8), none), (some (0, 2 * 16384), none), (some (0, 0), none), (none, some 27), (some (0, 7 * 16384), none)] := by decide +kernel

/-- CINV and CFLUSH of host memory. -/
theorem witness_FencesAndCacheOperations_host : (meets hostPage .load 1 (hostPage.rd 1)).1.map (fun x => x.target) = some (.host 0 16) ∧ hostPage.mustWalk 1 (hostPage.rd 1) = false
    ∧ hostPage.partials = [] ∧ hostPage.cores.all (fun c => c.2.atomics.all fun r => r.old.isNone) = true
    ∧ (let s := plain.modCore 0 fun c => { c with l1d := [{ line := 0, own := true, fresh := true, bytes := List.replicate 64 0, dirty := 1 }] }
       (s.core s.myCore).l1d.filter (fun l => l.line == 0) = [{ line := 0, own := true, fresh := true, bytes := List.replicate 64 0, dirty := 1 }]) := by decide +kernel

-- ==== walks ====

def decPoints (c : Nat) (l : Bool) (e : Word) : Decidable (PointsOn c l e) := by unfold PointsOn; infer_instance

def decLeaf (c : Nat) (e : Word) : Decidable (IsLeaf c e) := by unfold IsLeaf; infer_instance

def decFails (c l : Nat) (e : Word) (r : Nat) : Decidable (EntryFails c l e r) := by unfold EntryFails; infer_instance

def decNames (d : Word) : Decidable (NamesATable d) := by unfold NamesATable; infer_instance

def decMaps (s : State) (p asid : Nat) (va leaf : Word) (bits : Nat) : Decidable (Maps s p asid va leaf bits) :=
  letI := decPoints; letI := decLeaf; letI := decNames
  match h : walkEntries s p asid va with
  | (d, e0, e1, e2, e3) => by unfold Maps; rw [h]; infer_instance

def decMapFails (s : State) (p asid : Nat) (va : Word) (r : Nat) : Decidable (MapFails s p asid va r) :=
  letI := decPoints; letI := decFails; letI := decNames
  match h : walkEntries s p asid va with
  | (d, e0, e1, e2, e3) => by unfold MapFails; rw [h]; infer_instance

/-- A directory entry, and an entry 0 of each level, the pageTables 4 KiB apart; a walk of page 0 for core 0 that is over, and the strand in slot 0 that waits for it. -/
def pageTables (d e0 e1 e2 e3 : Nat) : State :=
  let s := strand fun t => { t with front := { t.front with walked := some 16 } }
  { s with now := 50, arg := [], walks := [{ die := 0, part := 0, asid := 0, page := 0, done := 49 }]
           mem := ((((s.mem.writeBytes 0 (leBytes 8 d)).writeBytes 0x1000 (leBytes 8 e0)).writeBytes 0x2000 (leBytes 8 e1)).writeBytes 0x3000 (leBytes 8 e2)).writeBytes 0x4000 (leBytes 8 e3) }

def maps (s : State) (va leaf : Word) (bits : Nat) : Bool := @decide _ (decMaps s 0 0 va leaf bits)

def mapFails (s : State) (va : Word) (r : Nat) : Bool := @decide _ (decMapFails s 0 0 va r)

theorem witness_FetchesWalksAndPackets_maps : (pageTables 0x1001 0x2001 0x3f 0 0).partials = [] ∧ (pageTables 0x1001 0x2001 0x3f 0 0).melts = [] ∧ (pageTables 0x1001 0x2001 0x3f 0 0).arg = []
    ∧ ((pageTables 0 0 0 0 0).walks.find? fun w => w.die == dieOf 0 && w.asid == 0 && w.page == (16#64).toNat / 65536 && decide (w.done ≤ (pageTables 0 0 0 0 0).now)) = some { die := 0, part := 0, asid := 0, page := 0, done := 49 }
    ∧ ((pageTables 0 0 0 0 0).slot 0).front.walked = some 16 ∧ ((pageTables 0 0 0 0 0).slot 0).id.part = 0 ∧ ((pageTables 0 0 0 0 0).slot 0).id.asid = 0
    ∧ maps (pageTables 0x1001 0x2001 0xc000003f 0 0) 16 0xc000003f 30 = true ∧ maps (pageTables 0x1001 0x2001 0x3001 0x20017f 0) 16 0x20017f 21 = true
    ∧ maps (pageTables 0x1001 0x2001 0x3001 0x4001 0x100ff) 16 0x100ff 16 = true := by decide +kernel

/-- Every reason of R322, at every level that has it. -/
theorem witness_FetchesWalksAndPackets_fails : mapFails (pageTables 0x1001 0x2001 0x3f 0 0) (BitVec.ofNat 64 (2 ^ 48)) 0 = true ∧ mapFails (pageTables 0 0 0 0 0) 16 1 = true ∧ mapFails (pageTables 0x1003 0 0 0 0) 16 4 = true
    ∧ [0x2000, 0x2003, 0x2005, 2 ^ 49 + 0x2001, 2 ^ 33 + 1].map (fun e => (List.range 7).filter fun r => mapFails (pageTables 0x1001 e 0 0 0) 16 r) = [[2], [4], [4], [4], [6]]
    ∧ [0x3000, 0x23f, 0x43f, 0x3101, 2 ^ 49 + 0x3001, 0x1003f, 2 ^ 29 + 0x3f, 2 ^ 33 + 1].map (fun e => (List.range 7).filter fun r => mapFails (pageTables 0x1001 0x2001 e 0 0) 16 r) = [[2], [4], [4], [4], [4], [5], [5], [6]]
    ∧ [0x4000, 0x23f, 0x4005, 0x1003f, 2 ^ 20 + 0x3f, 2 ^ 33 + 1].map (fun e => (List.range 7).filter fun r => mapFails (pageTables 0x1001 0x2001 0x3001 e 0) 16 r) = [[3], [4], [4], [5], [5], [6]]
    ∧ [0x5000, 0x23f, 0x5001].map (fun e => (List.range 7).filter fun r => mapFails (pageTables 0x1001 0x2001 0x3001 0x4001 e) 16 r) = [[3], [4], [4]] := by decide +kernel

/-- A fetch whose walk has failed, one that waits, and one from the host's memory. -/
theorem witness_FetchesWalksAndPackets_fetch :
    (let s := unmapped.modSlot 0 fun t => { t with front := { t.front with walked := some t.pc, walkFault := some 3 } }
     let s0 := { s with cur := 0 }
     s0.mustWalk 8 (s.slot 0).pc = true ∧ s0.walkFailed (s.slot 0).pc = some 3 ∧ unmapped.walkFailed (s.slot 0).pc = none)
    ∧ (let s := hostPage
       s.mustWalk 8 (s.slot 0).pc = false ∧ (s.access { core := 0, part := 0, asid := 0, priv := .m } .fetch 8 (s.slot 0).pc).2.toOption.map (fun x => x.target) = some (.host 0 0)
        ∧ s.melts = [] ∧ s.replicas = [] ∧ s.partials = [] ∧ s.badBytes = [] ∧ (s.core (coreOf 0)).ibuf = [] ∧ (s.core (coreOf 0)).l1d = [] ∧ (s.core (coreOf 0)).sb = []) := by decide +kernel

/-- A request to a line that the last installation moved, and which has not been told; a packet that turns. -/
theorem witness_FetchesWalksAndPackets_moved :
    (let d : Due := { due := 60, ev := .atomicExecute (request (.amo .add) 1 .device), arg := [] }
     let s := (((queued (request (.amo .add) 1 .device) 7).modPart 0 fun p => { p with moved := [5] })).after 60 d.ev
     s.agenda.any (fun d => (s.requestAt d.ev).any fun k => (s.part 0).moved.contains k.1 && k.2 / 64 == hbmKey 0 16 / 64) = true
      ∧ s.agenda.any (fun d => (s.requestAt d.ev).any fun k => (s.part 0).moved.contains k.1 && k.2 / 64 == hbmKey 0 64 / 64) = false)
    ∧ (let p : Packet := { id := 3, die := 0, stop := 1, dst := 5, ring := some 0 }
       let s : State := { plain with torus := [p] }
       s.torus.find? (fun x => x.die == p.die && x.id == p.id) = some p ∧ p.stop < 16 ∧ p.dst < 16 ∧ p.stop ≠ p.dst ∧ p.stop % 4 = p.dst % 4 ∧ p.ring ≠ some (hopDir 1 5)) := by decide +kernel

-- ==== landing names, melt granules, tuples ====

/-- Names of entry 0 of core 0 and of generation 0: their upper 56 bits are zero, and their check byte is their value. -/
theorem low_name : ∀ k : Fin 256, (let n := BitVec.ofNat 64 k.val
    n.extractLsb' 8 32 = 0 ∧ n.extractLsb' 40 24 = 0 ∧ bitsOf n 0 8 = k.val ∧ nameCore n = some 0 ∧ nameIndex n = 0 ∧ bitsOf n 8 20 = 0) := by decide +kernel

theorem checkByte_low (key n : Word) (h1 : n.extractLsb' 8 32 = 0) (h2 : n.extractLsb' 40 24 = 0) : checkByte key n = checkByte key 0 := by
  have z1 : (0 : Word).extractLsb' 8 32 = 0 := by decide
  have z2 : (0 : Word).extractLsb' 40 24 = 0 := by decide
  unfold checkByte
  rw [h1, h2, z1, z2]

theorem nameOf_zero (s : State) (hd : s.plat.device = 0) : s.nameOf 0 0 0 = BitVec.ofNat 64 (checkByte (s.checkKey 0) 0) := by
  have hb : nameBody 0 0 0 0 = 0 := by decide +kernel
  have : nameBody s.plat.device 0 0 (0 : BitVec 20).toNat = 0 := by rw [hd]; exact hb
  unfold State.nameOf
  rw [this]
  exact BitVec.zero_or

theorem findName_low (s : State) (k : Nat) (hk : k < 256) (hc : checkByte (s.checkKey 0) (BitVec.ofNat 64 k) = k)
    (hq : (s.part 0).quanta.getLsbD 0 = true) (he : (s.mintEntry 0 0).state ≠ .free)
    (hg : (s.mintEntry 0 0).gen.toNat = 0) : s.findName 0 (BitVec.ofNat 64 k) = .ok (0, 0) := by
  obtain ⟨-, -, h3, h4, h5, h6⟩ := low_name ⟨k, hk⟩
  unfold State.findName
  rw [h4]
  simp only [h3, h5, h6, hg, hc]
  simp [clusterOf, hq, he]

/-- The table finds the name of its entry 0, whatever CHECKKEY is. -/
theorem name_found (s : State) (hd : s.plat.device = 0) (hq : (s.part 0).quanta.getLsbD 0 = true) (he : (s.mintEntry 0 0).state ≠ .free)
    (hg : (s.mintEntry 0 0).gen.toNat = 0) : s.findName 0 (s.nameOf 0 0 0) = .ok (0, 0) := by
  have hk : checkByte (s.checkKey 0) 0 < 256 := Nat.mod_lt _ (by decide)
  obtain ⟨h1, h2, -⟩ := low_name ⟨checkByte (s.checkKey 0) 0, hk⟩
  rw [nameOf_zero s hd]
  exact findName_low s _ hk (checkByte_low _ _ h1 h2) hq he hg

/-- A strand with 64 in s1, 65 in s2, s5 PENDING; and the same on a core whose table has no FREE entry. -/
def minting : State := strand fun t => marks [(5, .pending)] (regs [(1, 64), (2, 65)] t)

def tableFull : State := minting.modCore 0 fun c => { c with mint := (List.range 256).map fun i => (i, { MintEntry.blank with state := .reg }) }

theorem witness_NamesAreMinted : minting.src.pred 0 = true ∧ minting.src.id = minting.me.id ∧ minting.src.depth = minting.me.depth ∧ minting.ready [] [3] false = true
    ∧ minting.freeMint minting.myCore = some 0 ∧ (4 : Reg) ≠ 3 ∧ (minting.src.reg 4).mark ≠ .pending ∧ (minting.src.reg 4).mark ≠ .named
    ∧ minting.ready [srcA 1 true] [3] false = true ∧ (minting.rd 1).toNat % 64 = 0 ∧ (minting.rd 1).toNat < 2 ^ 63 ∧ minting.me.status.tl < 2
    ∧ tableFull.freeMint tableFull.myCore = none ∧ tableFull.src.pred 0 = true ∧ tableFull.ready [srcA 1 true] [3] false = true
    ∧ minting.ready [srcA 2 true] [3] false = true ∧ (minting.rd 2).toNat % 64 ≠ 0
    ∧ 2 ^ 63 ≤ ((strand (regs [(1, 2 ^ 63)])).rd 1).toNat := by decide +kernel

theorem test_mint : runs (.mint 3 4 0) minting (fun t => (t.me.reg 4).mark == .named && (t.me.reg 3).mark == .full && (t.mintEntry 0 0).reg == 4 && (t.mintEntry 0 0).state == .reg) = true
    ∧ trapped (.mintC 3 2 false 0) minting = some (3072 + 192 + 1, 65) ∧ trapped (.mint 3 4 0) tableFull = some (3072 + 192, 0) := by decide +kernel

/-- An entry 0 in the table of core 0, the strand's register s6 or the record at 64; a producer of s5 under tag 5. -/
def entry0 (e : MintEntry) : State := (producing 5 0 0).modCore 0 fun c => { c with mint := [(0, e)] }

def regEntry (uid : Nat) : MintEntry := { state := .reg, gen := 0, ctx := 1, uid := uid, reg := 6, addr := 0 }

def contEntry : MintEntry := { state := .cont, gen := 0, ctx := 1, uid := 0, reg := 0, addr := 64 }

/-- The page tables of ASID 0 map the first 2^30 bytes, and a record stands at 64. -/
def tables : Memory := State.reset.mem.writeBytes 0 [1, 0x10] |>.writeBytes 0x1000 [1, 0x20] |>.writeBytes 0x2000 [0x3f]

def recorded : State := { entry0 contEntry with mem := tables }

def landing (s : State) : Landing := { name := s.nameOf 0 0 0, value := 7, scope := .core, part := 0, src := .strand (strandKey 0 1 1) 5, rel := none }

theorem witness_NamesLandOrAreDestroyed_leave :
    (let s := strand id; s.src.pred 0 = true ∧ s.ready [srcA 1 true, srcB 2 true] [3] true = true ∧ s.scopeHasName .device (s.rd 1) = true ∧ s.awaitsRemote .device = false
      ∧ nameDevice (s.rd 1) = s.plat.device ∧ s.ready [srcA 1 true] [3] true = true)
    ∧ (let s := strand (regs [(1, 2 ^ 49)]); s.scopeHasName .core (s.rd 1) = false ∧ nameDevice (s.rd 1) ≠ s.plat.device ∧ s.me.status.tl < 2
      ∧ s.ready [srcA 1 true] [3] true = true) := by decide +kernel

/-- A strand of which a store stands in the buffer. -/
def relHeld : State := (stored 8).modCore 0 fun c => { c with sb := c.sb.map fun e => { e with uid := strandKey 0 1 1 } }

theorem witness_NamesLandOrAreDestroyed_arrive :
    (let s := entry0 (regEntry (strandKey 0 1 1)); s.findName 0 (s.nameOf 0 0 0) = .ok (0, 0) ∧ s.relBlocked none = false ∧ (s.mintEntry 0 0).state = .reg
      ∧ s.slotOf (s.mintEntry 0 0).uid = some 0 ∧ (s.mintEntry 0 0).reg = 6 ∧ s.plat.device = 0)
    ∧ (let s := entry0 (regEntry 0); (match s.findName 0 0x200000000000 with | .error st => st == 2 | .ok _ => false) = true ∧ s.relBlocked none = false)
    ∧ (let s := recorded; s.findName 0 (s.nameOf 0 0 0) = .ok (0, 0) ∧ s.mem.wf = true ∧ (s.mintEntry 0 0).state = .cont ∧ s.partials = []
      ∧ (match (s.setMint 0 0 contEntry.freed).placeAs 0 ((s.setMint 0 0 contEntry.freed).asidOf 0 1) .s .load 64 64 with | (_, some (.hbm 64)) => true | _ => false) = true
      ∧ max 1 (bitsOf ((s.setMint 0 0 contEntry.freed).ccbWord 0 1 24) 0 32) ≠ 2 ^ 32 - 1 ∧ s.queued (clusterOf 0) 1 < 4096)
    ∧ relHeld.relBlocked (some { uid := strandKey 0 1 1, core := 0, seq := 1, scope := .core }) = true := by
  refine ⟨⟨name_found _ (by decide +kernel) (by decide +kernel) (by decide +kernel) (by decide +kernel), by decide +kernel⟩, by decide +kernel,
    ⟨name_found _ (by decide +kernel) (by decide +kernel) (by decide +kernel) (by decide +kernel), by decide +kernel⟩, by decide +kernel⟩

theorem witness_NamesLandOrAreDestroyed_unmint :
    (let s := entry0 (regEntry (strandKey 0 1 1)); s.findName 0 (s.nameOf 0 0 0) = .ok (0, 0) ∧ s.slotOf (strandKey 0 1 1) = some 0
      ∧ ((s.slot 0).pend.out.find? (fun o => o.tag == 5)).map (·.reg) = some 5 ∧ (s.mintEntry 0 0).uid = strandKey 0 1 1 ∧ physAbs 6 ≠ physAbs 5)
    ∧ (let s := entry0 contEntry; s.findName 0 (s.nameOf 0 0 0) = .ok (0, 0) ∧ (s.mintEntry 0 0).state = .cont ∧ (s.mintEntry 0 0).ctx = contextKey 0 1)
    ∧ (let s := entry0 (regEntry 9); s.findName 0 (s.nameOf 0 0 0) = .ok (0, 0) ∧ (s.mintEntry 0 0).state = .reg ∧ (s.mintEntry 0 0).uid ≠ strandKey 0 1 1) :=
  ⟨⟨name_found _ (by decide +kernel) (by decide +kernel) (by decide +kernel) (by decide +kernel), by decide +kernel⟩,
    ⟨name_found _ (by decide +kernel) (by decide +kernel) (by decide +kernel) (by decide +kernel), by decide +kernel⟩,
    ⟨name_found _ (by decide +kernel) (by decide +kernel) (by decide +kernel) (by decide +kernel), by decide +kernel⟩⟩

/-- A granule page mapped at 0, the granule's address in s1, an area of the own scratchpad in s2. -/
def granules (f : Slot → Slot) : State := mapped 0xbf fun t => f (regs [(1, 2048), (2, 31 * 2 ^ 22 + 64)] t)

def granule (live : Bool) (count : Nat) : Melt := { key := 2048, live := live, count := count, order := 1, part := 0, ctx := 1, uid := 1, src := none, held := [], known := none, rels := [] }

theorem witness_MeltGranulesAreCounted_strands :
    (let s := granules id; s.src.pred 0 = true ∧ s.ready [srcA 1 true, srcB 2 true] [] false = true ∧ s.me.status.tl < 2 ∧ granuleForm (s.rd 1) = true
      ∧ s.meltArea (s.rd 2) = some (0, 2 * 16384 + 64) ∧ meets s .store 1 (s.rd 1) = (some { pa := 2048, target := .hbm 2048, melt := true, device := false }, none)
      ∧ meets s .load 1 (s.rd 1) = (some { pa := 2048, target := .hbm 2048, melt := true, device := false }, none) ∧ s.meltAt 2048 2048 = none
      ∧ s.cores.all (fun c => c.2.atomics.isEmpty) = true ∧ s.mem.wf = true ∧ s.ready [srcA 1 true, srcB 2 true] [3] true = true
      ∧ s.me.front.wait ≠ .refused ∧ (match s.me.front.wait with | .served _ => false | _ => true) = true ∧ s.ready [srcA 1 true] [3] true = true)
    ∧ ({ granules id with melts := [granule true 255] }.meltAt 2048 2048).isSome = true
    ∧ (let s := strand (regs [(1, 2049), (2, 2 ^ 27)]); granuleForm (s.rd 1) = false ∧ s.meltArea (s.rd 2) = none)
    ∧ (let s := mapped 0x3f (regs [(1, 2048)]); meets s .store 1 (s.rd 1) = (some { pa := 2048, target := .hbm 2048, melt := false, device := false }, none))
    ∧ (granules fun t => { t with front := { t.front with wait := .served 9 } }).me.front.wait = .served 9
    ∧ (granules fun t => { t with front := { t.front with wait := .refused } }).me.front.wait = .refused := by decide +kernel

/-- A strand that waits for the granule at 2,048, whose data are 5. -/
def waiting (l : List Melt) : State :=
  { strand fun t => { t with front := { t.front with wait := .melt 9 } } with melts := l, mem := [(meltKey 2048, 5)] }

/-- Sixteen LIVE granules of one set, the earliest at 2,048: their numbers agree in bits 24-11. -/
def fullSet : State := { waiting ((List.range 16).map fun i => { granule true 3 with key := (1 + 128 * 128 * i) * 2048, order := i }) with mem := [(meltKey 2048, 5)] }

theorem witness_MeltGranulesAreCounted_home :
    (let s := waiting [granule true 1]; s.mem.wf = true ∧ s.slotOf (strandKey 0 1 1) = some 0 ∧ (s.slot 0).front.wait = .melt 9 ∧ (s.melts.find? (fun m => m.key == 2048)) = some (granule true 1)
      ∧ (s.meltAt 2048 2048).isSome = true)
    ∧ (let s := waiting [granule false 2]; (s.melts.find? (fun m => m.key == 2048 && !m.live)) = some (granule false 2) ∧ (granule false 2).held = [])
    ∧ (let s := waiting []; s.meltAt 2048 2048 = none ∧ s.melts.all (fun m => m.key != 2048) = true)
    ∧ (let s := fullSet; (s.meltVictim (s.homeOfGran 1) 1).map (·.key) = some 2048 ∧ s.mem.wf = true ∧ s.ccbWord 0 1 64 = 0
      ∧ hbmKey 0 (s.context (contextKey 0 1)).ccb.toNat + 128 ≤ 2048) := by decide +kernel

/-- A fill brings 2 KiB. -/
theorem witness_MeltGranulesAreCounted_data : (List.replicate 2048 (1 : Byte)).length = 2048 := List.length_replicate

/-- R196, R197: a granule that is FILLING holds the request; a fill that is done makes it LIVE; a count of 2 falls to 1. -/
theorem test_ldm_at_home : runs (.ldmAtHome (strandKey 0 1 1) 9 2048 64) (waiting [granule false 1]) (fun t => t.melts.map (·.held) == [[{ uid := strandKey 0 1 1, tag := 9, area := some 64, key := 2048, size := 2048, sext := false, acq := none, cmd := none, flit := none }]]) = true
    ∧ runs (.meltFillDone 2048) (waiting [granule false 1]) (fun t => t.melts.map (·.live) == [true]) = true := by decide +kernel

/-- A tuple handle in h3: TYPE 6, an area, LEN64, F0; and what else is set. -/
def handle (area len f0 more : Nat) : Nat := 6 + area * 2 ^ 16 + len * 2 ^ 48 + f0 * 2 ^ 64 + more

def tupled (h : Nat) (f : Slot → Slot) : State := strand fun t => f { t with handles := t.handles.set 3 { val := BitVec.ofNat 256 h, mark := .full } }

theorem witness_TupleOperationsIssue_checks :
    (let s := tupled (handle 0 0 0 1) id; s.src.pred 0 = true ∧ s.ready [srcH 3 true] [4] true = true ∧ s.me.status.tl < 2 ∧ (s.rdH 3).toNat % 2 ^ 4 ≠ 6)
    ∧ (let s := tupled (handle 0 0 0 (2 ^ 10)) id; (s.rdH 3).toNat % 2 ^ 4 = 6 ∧ (s.rdH 3).toNat / 2 ^ 10 % 2 ^ 6 ≠ 0)
    ∧ (let s := tupled (handle 0 1024 0 (2 ^ 8)) id; (s.rdH 3).toNat / 2 ^ 8 % 2 = 1 ∧ (s.rdH 3).toNat / 2 ^ 192 = 0 ∧ (s.rdH 3).toNat / 2 ^ 48 % 2 ^ 16 ≤ 1024)
    ∧ (let s := tupled (handle 0 1025 0 0) id; 1024 < (s.rdH 3).toNat / 2 ^ 48 % 2 ^ 16 ∧ (s.rdH 3).toNat / 2 ^ 8 % 2 ^ 2 = 0)
    ∧ (let s := tupled (handle (2 ^ 27) 1 0 0) id; 2 ^ 27 ≤ (s.rdH 3).toNat / 2 ^ 16 % 2 ^ 32)
    ∧ (let s := tupled (handle 32 1 0 0) id; (s.rdH 3).toNat / 2 ^ 16 % 64 ≠ 0)
    ∧ (let s := tupled (handle 0 0 0xffffff00 0) (at_ .u 0); 0xffffff00 ≤ (s.rdH 3).toNat / 2 ^ 64 % 2 ^ 32 ∧ s.me.status.priv = .u ∧ s.ready [srcH 3 true] [4] true = true) := by
  decide +kernel

/-- A strand whose s2 names a record by entry 0 of its core. -/
def continuing : State :=
  let s := ((tupled (handle (31 * 2 ^ 22) 1 77 0) id).modCore 0 fun c => { c with mint := [(0, contEntry)] })
  (s.modSlot 0 fun t => t.putReg 2 { val := s.nameOf 0 0 0, mark := .full, poison := false }).atIssue 0

theorem witness_TupleOperationsIssue_requests :
    (let s := tupled (handle (31 * 2 ^ 22) 1 77 0) id; s.src.pred 0 = true ∧ s.src.id = s.me.id
      ∧ (s.homeVia (clusterOf s.myCore) s.me.id.part 77 0).device = s.plat.device ∧ (s.core s.myCore).tupOut.length < 64 ∧ (77 : BitVec 32).toNat < 0xffffff00
      ∧ s.ready [srcH 3 true] [4] true = true ∧ s.tupleFault .dep .p 3 (s.rdH 3) 0 = none ∧ s.tupleFault .rd .w 3 (s.rdH 3) 0 = none ∧ s.tupleFault .take .p 3 (s.rdH 3) 0 = none
      ∧ s.tupleFault .cancel .p 3 (s.rdH 3) 0 = none ∧ s.padAt s.src s.myCore (31 * 2 ^ 22) 64 = some (0, 2 * 16384))
    ∧ (continuing.findName 0 (continuing.nameOf 0 0 0) = .ok (0, 0) ∧ continuing.src.pred 0 = true ∧ continuing.ready [srcH 3 true, srcB 2 true] [] true = true
      ∧ hbits (continuing.rdH 3) 0 4 = 6 ∧ tupleKeyOk (continuing.rdH 3) = true ∧ (continuing.padAt continuing.src 0 (31 * 2 ^ 22) 128).isSome = true ∧ continuing.src.depth = 0
      ∧ continuing.src.pend.out = [] ∧ continuing.src.status.ui = false ∧ (continuing.mintEntry 0 0).state = .cont) :=
  ⟨by decide +kernel, ⟨name_found _ (by decide +kernel) (by decide +kernel) (by decide +kernel) (by decide +kernel), by decide +kernel⟩⟩

/-- A request of the strand at slice 0 for the key 77. -/
def tupReq (op : TupOp) (mode : TMode) : TupReq :=
  { op := op, mode := mode, part := 0, ctx := 1, uid := strandKey 0 1 1, core := 0, slot := 0, tag := 5, name := 0, f0 := 77, f1 := 0, f2 := 1, f3 := 2, w2 := false, w3 := true, len64 := 1,
    area := 0, payload := if op = .dep then List.replicate 64 9 else [], sid := 3, cid := 4, host := none, remote := none, home := 0, gen := 0, tries := 0, rel := none }

/-- The tuple that such a deposit leaves. -/
def tuple (age : Nat) : TupleEntry :=
  { age := age, part := 0, f0 := 77, f1 := 0, f2 := 1, f3 := 2, payload := List.replicate 64 9, sid := 3, cid := 4, taken := false, copies := 0 }

/-- Slice 0 with tuples and waiters, and a heap of the given size. -/
def slice0 (heap : Nat) (ts : List TupleEntry) (ws : List WaiterEntry) : State :=
  ((producing 5 0 0).modPart 0 fun p => { p with fheap := BitVec.ofNat 64 heap }).modSlice 0 fun x => { x with tuples := ts, waiters := ws }

theorem witness_TuplesMeetAtTheirHome_deposits : (slice0 1 [] []).ownsKey (tupReq .dep .p) = true ∧ (slice0 1 [] []).ownsKey { tupReq .dep .p with home := 1 } = false
    ∧ (slice0 1 [] []).heapUsed 0 + 1 + 0 ≤ 1024 ∧ (let s := slice0 1 [{ tuple 4 with payload := List.replicate 65536 0 }] []; 1024 < s.heapUsed 0 + 1 + 0 ∧ s.ownsKey (tupReq .dep .w) = true)
    ∧ (tuple 1).meets (tupReq .take .w) = true ∧ (slice0 1 [] [{ age := 0, req := tupReq .take .w, serving := false }]).ownsKey (tupReq .dep .p) = true ∧ 1 ≤ (tupReq .take .w).len64 := by decide +kernel

theorem witness_TuplesMeetAtTheirHome_requests : (slice0 1 [{ tuple 1 with taken := true }, tuple 2] []).ownsKey (tupReq .take .p) = true ∧ (tuple 2).taken = false
    ∧ (tuple 2).meets (tupReq .take .p) = true ∧ (tuple 2).payload.length / 64 ≤ (tupReq .take .p).len64 ∧ { tupReq .rd .p with len64 := 0 }.len64 < (tuple 2).payload.length / 64
    ∧ (slice0 1 [] []).slices.all (fun x => x.2.tuples.isEmpty) = true ∧ ((slice0 1 [] []).slice 0).waiters.length < 2048
    ∧ { age := 1, req := tupReq .take .w, serving := false : WaiterEntry }.cancelledBy (tupReq .cancel .p) = true ∧ { age := 1, req := tupReq .take .p, serving := false : WaiterEntry }.cancelledBy (tupReq .cancel .p) = false
    ∧ 15 ≤ { tupReq .dep .p with tries := 15 }.tries ∧ (let s := slice0 1 [] []; (s.homeVia (clusterOf 0) 0 77 0).device = s.plat.device) := by decide +kernel

/-- A take of tuple 2 whose delivery is complete, its context the holder of cluster 0. -/
def delivery : State :=
  { (slice0 1 [{ tuple 2 with taken := true }] []).modCluster 0 fun c => { c with ctable := [(0, 1)], holder := some 0 } with
    copies := [(7, { req := tupReq .take .w, slice := 0, age := 2, waiter := none })] }

theorem witness_TuplesMeetAtTheirHome_delivery : (delivery.copies.get? 7).isSome = true ∧ (delivery.tupleAt 0 2) = some { tuple 2 with taken := true } ∧ delivery.mem.wf = true
    ∧ delivery.cores.all (fun c => c.2.l1d.isEmpty) = true ∧ delivery.holds 0 (contextKey 0 1) = true ∧ delivery.areaAt 0 (contextKey 0 1) 0 = some (0, 2 * 16384, 38 * 16384)
    ∧ delivery.slotOf (strandKey 0 1 1) = some 0 ∧ ((delivery.slot 0).pend.out.find? (fun o => o.tag == 5)).map (·.reg) = some 5
    ∧ (slice0 1 [{ tuple 2 with copies := 1 }] []).tupleAt 0 2 = some { tuple 2 with copies := 1 } := by decide +kernel

/-- R177, R180, R183: the header, the payload, the result word, and no tuple left. -/
theorem test_tuple_delivery : runs (.tupleDeliveryDone 7) delivery
    (fun t => (t.slot 0).val 5 == 256 && (t.slice 0).tuples.isEmpty && t.mem.readBytes (poolKey 0 (2 * 16384)) 2 == [77, 0] && t.mem.read (poolKey 0 (2 * 16384 + 64)) == 9) = true := by
  decide +kernel

/-- A way for the granule is free; and none is, in a set of 16 of which one is FILLING. -/
theorem witness_MeltGranulesAreCounted_ways :
    (let s := granules id; s.mustWalk 1 (s.rd 1) = false ∧ s.partials = [] ∧ (((s.access s.whoMe .store 1 (s.rd 1)).1).fillRoom 2048).2 = true ∧ 2 * 16384 + 64 + 2048 ≤ 2 ^ 20)
    ∧ (let s : State := { fullSet with melts := fullSet.melts.map fun (m : Melt) => if m.key = 2048 then { m with live := false } else m }
       s.meltAt ((1 + 128 * 128 * 16) * 2048) 2048 = none ∧ (s.fillRoom ((1 + 128 * 128 * 16) * 2048)).2 = false)
    ∧ fullSet.partials = [] ∧ fullSet.cores.all (fun c => c.2.atomics.isEmpty) = true
    ∧ ({ granule false 2 with src := some (poolKey 0 (2 * 16384)) }.src).isSome = true := by decide +kernel

/-- The key's range is on its way to another device; a waiter that a tuple meets; a request that is held back. -/
theorem witness_TuplesMeetAtTheirHome_ranges :
    (let s := { slice0 1 [] [] with calves := [(4, { part := 0, uid := 1, tag := 1, lo := 0, hi := 2 ^ 32, entry := 0, devs := [], open_ := [], phase := 1, old := 0, origin := none })] }
     s.ownsKey (tupReq .take .p) = true ∧ s.rangeHeld (tupReq .take .p) = true)
    ∧ (slice0 1 [] []).rangeHeld (tupReq .dep .p) = false
    ∧ (let w : WaiterEntry := { age := 0, req := tupReq .take .w, serving := false }
       (slice0 1 [] [w]).heapUsed 0 + 1 + 0 ≤ 1024 ∧ w.req.op = .take ∧ (tuple 1).meets w.req = true)
    ∧ relHeld.relBlocked { tupReq .dep .w with rel := some { uid := strandKey 0 1 1, core := 0, seq := 1, scope := .die } }.rel = true
    ∧ 64 + (tuple 2).payload.length ≤ 38 * 16384 := by decide +kernel

/-- The bounds of COUNT; a granule whose fill the core is ordered after, and one that it is not; a granule that holds an ordinary load; data that came from an area. -/
theorem witness_MeltGranulesAreCounted_ordered :
    (1 : BitVec 32).toNat = 1 ∧ (255 : BitVec 32).toNat ≤ 255 ∧ 255 < (256 : BitVec 32).toNat
    ∧ (let m := { granule true 2 with known := some [3] }
       let s := waiting [m]
       s.melts.find? (fun m => m.key == 2048) = some m ∧ coreOf 0 ∉ [3] ∧ m.known ≠ none ∧ s.slotOf (strandKey 0 1 1) = some 0 ∧ (s.slot 0).front.wait = .melt 9 ∧ s.cores.all (fun c => c.2.atomics.isEmpty) = true)
    ∧ (let m := { granule true 2 with known := some [0] }
       (waiting [m]).melts.find? (fun m => m.key == 2048) = some m ∧ coreOf 0 ∈ [0] ∧ 2 * 16384 + 2048 ≤ 2 ^ 20)
    ∧ (let h : MeltHeld := { uid := strandKey 0 1 1, tag := 5, area := none, key := 4088, size := 8, sext := false, acq := none, cmd := none, flit := none }
       let m := { granule false 2 with held := [h] }
       let s := waiting [m]
       s.melts = [m] ∧ m.key = 2048 ∧ m.live = false ∧ m.src = none ∧ s.badBytes = [] ∧ 2048 % 2048 = 0 ∧ 2048 ≤ h.key ∧ h.key + h.size ≤ 2048 + 2048 ∧ s.mem.wf = true)
    ∧ (let m := { granule false 2 with src := some (poolKey 0 (2 * 16384)) }
       (waiting [m]).melts.find? (fun m => m.key == 2048 && !m.live) = some m ∧ m.held = []) := by decide +kernel

theorem test_melt_held_load : (match exec (.meltFillDone 2048) (waiting [{ granule false 2 with held := [{ uid := strandKey 0 1 1, tag := 5, area := none, key := 2048, size := 1, sext := false, acq := none, cmd := none, flit := none }] }]) with
    | .next t => (t.agenda.findSome? fun d => delValue d.ev) == some 5 | _ => false) = true := by decide +kernel

/-- A handle for every detail of R169 to R174: what it holds, and that the checks before it pass. -/
theorem witness_TupleOperationsIssue_details :
    [handle 0 0 0 1, handle 0 0 0 (2 ^ 10), handle 0 0 0 (2 ^ 4), handle 0 0 0 (2 ^ 192), handle 0 0 0 (2 ^ 8), handle 0 0 0 (2 ^ 9), handle 0 1025 0 0, handle (2 ^ 27) 1 0 0, handle (24 * 2 ^ 22) 1 0 0, handle (2 ^ 20) 1 0 0,
      handle 32 1 0 0, handle (31 * 2 ^ 22 + 38 * 16384 - 64) 2 0 0, handle (31 * 2 ^ 22) 1 0xffffff00 0].map
        (fun h => trapped (.tdep 4 3 0 true true 0 .p) (tupled h (at_ .u 0)))
      = [0, 1, 1, 1, 2, 2, 3, 4, 4, 4, 4, 5].map (fun d => some (5 * 32 + d, 3)) ++ [some (9 * 32 + 3, 0xffffff00)]
    ∧ (tupled (handle (31 * 2 ^ 22 + 38 * 16384 - 64) 2 0 0) id).padAt (strand id).src 0 (31 * 2 ^ 22 + 38 * 16384 - 64) 128 = none
    ∧ ((tupled (handle (31 * 2 ^ 22) 0 0 0) id).rdH 3).toNat / 2 ^ 48 % 2 ^ 16 = 0
    ∧ (tupled (handle 0 1024 0 0) id).ready [srcH 3 true] [4] true = true := by decide +kernel

/-- R128: the checks of a continuation, each with those before it passed. -/
theorem witness_TupleOperationsIssue_continuations :
    (let s := tupled (handle (31 * 2 ^ 22) 1 77 0) id
     s.ready [srcH 3 true, srcB 2 true] [] true = true ∧ (match s.findName 0 0x200000000000 with | .error _ => true | .ok _ => false) = true)
    ∧ (let s := (continuing.modSlot 0 fun t => { t with depth := 1 }).atIssue 0
       s.src.depth ≠ 0 ∧ s.findName 0 (s.nameOf 0 0 0) = .ok (0, 0) ∧ s.plat.device = 0)
    ∧ (let s := continuing.modCore 0 fun c => { c with mint := [(0, contEntry), (1, regEntry (strandKey 0 1 1))] }
       s.cores.any (fun c => c.2.mint.any fun e => decide (e.2.state = .reg) && e.2.uid == s.src.id.uid) = true ∧ s.src.depth = 0)
    ∧ (let s := (continuing.modSlot 0 fun t => { t with pend := { t.pend with out := [{ tag := 5, reg := 6, kind := .load, seq := 0 }] } }).atIssue 0
       s.src.pend.out ≠ [] ∧ s.cores.any (fun c => c.2.mint.any fun e => decide (e.2.state = .reg) && e.2.uid == s.src.id.uid) = false)
    ∧ (let s := (continuing.modSlot 0 fun t => { t with status := { t.status with ui := true } }).atIssue 0
       s.src.status.ui = true ∧ s.src.pend.out = [] ∧ s.src.depth = 0)
    ∧ (continuing.core continuing.myCore).sb = [] ∧ (continuing.core continuing.myCore).l1d = [] ∧ continuing.cores.all (fun c => c.2.atomics.isEmpty) = true :=
  ⟨by decide +kernel, ⟨by decide +kernel, name_found _ (by decide +kernel) (by decide +kernel) (by decide +kernel) (by decide +kernel), by decide +kernel⟩,
    by decide +kernel, by decide +kernel, by decide +kernel, by decide +kernel, by decide +kernel, by decide +kernel⟩

/-- A deposit to a range that is on its way to another device, with a heap; a heap of none; a delivery that its context receives. -/
theorem witness_TuplesMeetAtTheirHome_held :
    (let s := { slice0 1 [] [] with calves := [(4, { part := 0, uid := 1, tag := 1, lo := 0, hi := 2 ^ 32, entry := 0, devs := [], open_ := [], phase := 1, old := 0, origin := none })] }
     0 < 1024 * ((s.part 0).fheap.toNat % 2 ^ 16) ∧ s.ownsKey (tupReq .dep .p) = true ∧ s.rangeHeld (tupReq .dep .p) = true ∧ (tupReq .dep .p).rel = none)
    ∧ 1024 * (((slice0 0 [] []).part 0).fheap.toNat % 2 ^ 16) = 0 ∧ delivery.holdsFor (tupReq .take .w) = true ∧ (tupReq .cancel .p).tries < 15 := by decide +kernel

-- ==== strands, barriers, messages, the scheduler ====

/-- A strand with a pc in s1 and a placement word in s2. -/
def spawning (pc pw : Nat) (p : Priv) : State := strand fun t => at_ p 0 (regs [(1, pc), (2, pw), (24, 5)] t)

/-- The conditions of `Quiet` as a test. -/
def quietB (s : State) : Bool :=
  s.slotOf s.me.id.uid == some s.cur && (s.core s.myCore).sb.isEmpty && s.cores.all (fun c => c.2.atomics.isEmpty) && (s.core s.myCore).l1d.isEmpty
    && (s.core s.myCore).unacked.all (fun u => s.sendable s.myCore u == false) && s.drift.queues.all (fun q => q.2.old == none)
    && s.melts.all fun m => m.known == none

theorem quiet_of (s : State) (h : quietB s = true) : Quiet s := by
  simpa only [quietB, Quiet, Bool.and_eq_true, beq_iff_eq, List.isEmpty_iff, List.all_eq_true, and_assoc] using h

theorem witness_StrandsBeginAndLeave_spawn :
    (let s := spawning 64 0xffff .u; s.src.pred 0 = true ∧ s.ready ([srcA 1 true, srcB 2 true] ++ outRegs 6) [3] true = true ∧ (s.rd 2).toNat < 2 ^ 20
      ∧ placeAssigned ((s.rd 2).toNat % 2 ^ 16) = true ∧ 0x8018 ≤ (s.rd 2).toNat % 2 ^ 16 ∧ (s.rd 1).toNat % 8 = 0 ∧ (s.rd 1).toNat < 2 ^ 63
      ∧ bitsOf (s.ccbWord s.me.id.part s.me.id.ctx 24) 0 32 < 2 ^ 32 - 1 ∧ ((s.cluster (clusterOf s.myCore)).queues.get [] (myContext s)).length < 4096 ∧ quietB s = true
      ∧ s.mem.wf = true)
    ∧ (let s := spawning 64 0x8017 .u; (s.rd 2).toNat % 2 ^ 16 < 0x8018 ∧ placeAssigned ((s.rd 2).toNat % 2 ^ 16) = true ∧ s.usable s.me.id.part (clusterOf s.myCore) = true)
    ∧ (let s := spawning 64 (2 ^ 20) .u; 2 ^ 20 ≤ (s.rd 2).toNat ∧ s.me.status.priv = .u ∧ s.me.status.tl < 2)
    ∧ placeAssigned 0x8018 = false ∧ (let s := spawning 65 0xffff .u; (s.rd 1).toNat % 8 ≠ 0) := by decide +kernel

/-- R131: the record takes NREG values from s24 upward, and the number 1 comes after 20 cycles; the details of class 8. -/
theorem test_spawn : runs (.spawn 3 1 2 false false 0 1) (spawning 64 0x3ffff .u)
      (fun t => ((t.cluster 0).queues.get [] 1).map (fun e => (e.record.pc, e.record.ctl, e.record.s.head?, e.strand)) == [(64, 0xffff130000000001, some 5, 1)]) = true
    ∧ trapped (.spawn 3 1 2 false false 0 1) (spawning 65 0xffff .u) = some (8 * 32 + 2, 65) ∧ trapped (.spawn 3 1 2 false false 0 1) (spawning 64 0x8018 .u) = some (8 * 32, 0x8018) := by
  decide +kernel

theorem witness_StrandsBeginAndLeave_leave :
    (let s := (mapped 0x3f (regs [(1, 64)])).modContext 1 fun c => { c with live := 2 }
     s.src.pred 0 = true ∧ s.me.status.ui = false ∧ s.remoteOpen s.myCore s.me.id.uid = false ∧ quietB s = true ∧ s.cmds = [] ∧ s.me.depth = 0
      ∧ s.holdsRegName s.me.id.uid = false ∧ s.me.pend.out = [] ∧ s.ready [srcA 1 true] [] false = true ∧ s.me.front.wait = .none
      ∧ meets s .store 64 (s.rd 1) = (some { pa := 64, target := .hbm 64, melt := false, device := false }, none) ∧ s.melts = [] ∧ s.partials = [] ∧ 2 ≤ (s.context (myContext s)).live
      ∧ s.mem.wf = true)
    ∧ (handling.me.status.ui = true ∧ handling.ready [srcA 1 false] [] false = true ∧ handling.me.status.tl < 2 ∧ handling.me.front.wait = .none)
    ∧ (called.me.depth ≠ 0 ∧ called.me.status.ui = false)
    ∧ (let s := entry0 (regEntry (strandKey 0 1 1)); s.holdsRegName s.me.id.uid = true ∧ s.me.depth = 0)
    ∧ (producing 5 0 0).me.pend.out ≠ [] ∧ (producing 5 0 0).holdsRegName (producing 5 0 0).me.id.uid = false := by decide +kernel

theorem test_leave : runs (.exit 0) there (fun t => (t.slot 0).phase == .free && (t.context 1).live == 0) = true
    ∧ trapped (.yield 0) called = some (3072 + 256 + 4, 1)
    ∧ runs (.suspend 1 false 0) (mapped 0x3f (regs [(1, 64), (8, 0x77)])) (fun t => t.mem.readBytes 64 2 == [8, 0] && t.mem.read 80 == 0x77 && (t.slot 0).phase == .free) = true := by
  decide +kernel

/-- A barrier number in s1, a count in s2, and the counter at DIE scope as given. -/
def atBarrier (n c : Nat) (b : Barrier) : State :=
  let s := strand (regs [(1, n), (2, c)])
  s.modBarrier (s.barrierKey .die n) fun _ => b

theorem witness_BarriersReleaseTheirRound :
    (let s := atBarrier 15 3072 Barrier.empty; s.src.pred 0 = true ∧ (s.rd 1).toNat < 16 ∧ s.awaitsRemote .die = false ∧ quietB s = true ∧ s.ready [srcA 1 true, srcB 2 true] [] false = true
      ∧ 1 ≤ (s.rd 2).toNat ∧ (s.rd 2).toNat ≤ barrierLimit .die ∧ (s.barrier (s.barrierKey .die 15)).arrived = 0 ∧ (s.barrier (s.barrierKey .die 15)).count = 0
      ∧ s.me.status.tl < 2 ∧ s.ready [srcA 1 true] [3] true = true)
    ∧ barrierLimit .die < ((atBarrier 0 3073 Barrier.empty).rd 2).toNat
    ∧ (let s := atBarrier 0 1 { Barrier.empty with count := 2, arrived := 1 }; (s.barrier (s.barrierKey .die 0)).count ≠ 0 ∧ (s.barrier (s.barrierKey .die 0)).releasing = false
      ∧ (s.barrier (s.barrierKey .die 0)).arrived ≠ 0 ∧ s.ready [srcA 1 true] [] false = true)
    ∧ (let s := { (strand fun t => { t with front := { t.front with wait := .barrier 5 } }) with
                  barriers := [(5, { Barrier.empty with count := 1, arrived := 1, releasing := true, waiters := [strandKey 0 1 1] })] }
       (s.barrier 5).releasing = true ∧ (s.barrier 5).waiters = [strandKey 0 1 1] ∧ (s.barrier 5).next = [] ∧ s.slotOf (strandKey 0 1 1) = some 0 ∧ (s.slot 0).front.wait = .barrier 5)
    ∧ (there.barrier 5).releasing = false
    ∧ (let s := { (strand fun t => { t with front := { t.front with wait := .none, held := [(64, .barrier 5)] } }) with
                  barriers := [(5, { Barrier.empty with count := 1, arrived := 1, releasing := true, waiters := [strandKey 0 1 1] })] }
       (s.barrier 5).releasing = true ∧ (s.barrier 5).waiters = [strandKey 0 1 1] ∧ s.slotOf (strandKey 0 1 1) = some 0
        ∧ (s.slot 0).front.held.find (fun _ w => w == .barrier 5) = some (64, .barrier 5)) := by decide +kernel

/-- R138: the second of two arrivals starts the release, and the round's end lets the waiter go on. -/
theorem test_barrier : runs (.bar 1 false 0 .die) (atBarrier 0 1 { Barrier.empty with count := 2, arrived := 1 })
      (fun t => (t.barrier ((atBarrier 0 1 Barrier.empty).barrierKey .die 0)).releasing && t.me.front.wait == .barrier ((atBarrier 0 1 Barrier.empty).barrierKey .die 0)) = true
    ∧ runs (.barrierRelease 5 0) { (strand fun t => { t with front := { t.front with wait := .barrier 5 } }) with
        barriers := [(5, { Barrier.empty with round := 255, count := 1, arrived := 1, releasing := true, waiters := [strandKey 0 1 1] })] }
      (fun t => (t.slot 0).front.wait == .none && (t.barrier 5).round == 0 && (t.barrier 5).arrived == 0) = true := by decide +kernel

/-- A flit of the strand to its own core, and a core whose cluster holds the strand's context. -/
def flit (xa : Bool) : MsgFlit := { dst := 0, value := 7, ctx := 1, core := 0, slot := 0, uid := strandKey 0 1 1, xa := xa, num := 4 }

def holding (q : List MsgFlit) : State :=
  (there.modCluster 0 fun c => { c with ctable := [(0, 1)], holder := some 0 }).modCore 0 fun c => { c with recvq := q }

/-- A strand whose MTS of MSGOUT waits in a given way. -/
def sending (w : Wait) (dst : Word) : State := strand fun t => { t with msgdst := dst, front := { t.front with wait := w } }

theorem witness_MessagesAreAcceptedOrRefused :
    (let s := holding [flit true]; s.src.pred 0 = true ∧ s.ready [] [3] true = true ∧ (s.core s.myCore).waiters = []
      ∧ (∃ f ∈ (s.core s.myCore).recvq, f.dst = s.virtualCore s.cur ∧ f.uid / 2 ^ 32 = s.me.id.uid / 2 ^ 32))
    ∧ (∀ f ∈ ((holding [{ flit true with dst := 1 }]).core 0).recvq, ¬ (f.dst = (holding []).virtualCore 0 ∧ f.uid / 2 ^ 32 = (holding []).me.id.uid / 2 ^ 32))
    ∧ (let s := sending .none 23; s.src.pred 0 = true ∧ s.ready [srcA 1 true] [] false = true ∧ quietB s = true ∧ s.me.front.wait = .none ∧ s.msgOk s.me.msgdst = true ∧ s.me.status.tl < 2)
    ∧ (sending .none 24).msgOk (sending .none 24).me.msgdst = false
    ∧ (sending (.served 0) 23).me.front.wait = .served 0 ∧ (sending .refused 23).me.front.wait = .refused
    ∧ (let s := holding (List.replicate 15 (flit true)); (s.core (s.physCore 0)).recvq.length < 16 ∧ s.holds (s.physCore 0) ((flit true).uid / 2 ^ 32) = true
      ∧ (s.core (s.physCore 0)).waiters = [])
    ∧ 16 ≤ ((holding (List.replicate 16 (flit true))).core 0).recvq.length
    ∧ (let s := { sending (.send false (flit false)) 23 with arg := [4] }; s.argAt 0 = (flit false).num ∧ s.slotOf (strandKey 0 1 1) = some 0 ∧ (s.slot 0).front.wait = .send false (flit false) ∧ (flit false).xa = false
      ∧ (s.slot 0).front.held = [] ∧ (sending (.send false (flit false)) 23).argAt 0 ≠ (flit false).num) := by decide +kernel

theorem test_messages : runs (.messageFlit (flit true)) (holding []) (fun t => (t.core 0).recvq == [flit true]) = true
    ∧ runs (.messageAnswer (strandKey 0 1 1) false) { sending (.send true (flit true)) 0 with arg := [4] } (fun t => t.me.front.wait == .refused) = true
    ∧ trapped (.mts 9 1 true 0) (sending .refused 23) = some (3072 + 32 + 8, 1) := by decide +kernel

/-- A record of a context, and cluster 0 whose holder it is, with the record in its queue. -/
def queueEntry (ctl : Nat) : QEntry := { record := { pc := 64, ctl := BitVec.ofNat 64 ctl, s := [5, 0, 0, 0, 0, 0] }, strand := 2, enq := 0, addr := 64, acq := some .cluster }

def scheduled (l : List QEntry) : State :=
  (there.modContext 1 fun c => { c with live := 2 }).modCluster 0 fun c => { c with ctable := [(0, 1 + 2 ^ 16 + 2 ^ 20)], holder := some 0, queues := [(1, l)] }

theorem witness_StrandsAreScheduled_records :
    (let e := queueEntry 0xffff100000000001; let s := scheduled [e]
     s.holderKey 0 = some 1 ∧ (s.cluster 0).saving = none ∧ (s.context 1).dead = false ∧ (s.cluster 0).nextLoad ≤ s.now ∧ (s.cluster 0).queues.get [] 1 = [e] ∧ (s.context 1).overflow = []
      ∧ s.recordReason 0 0 1 true e.record = none ∧ s.noCore 0 0 e.record = false ∧ s.coreFor 0 e.record = some (1, 1) ∧ s.freeSlotOf 1 = some 8
      ∧ (s.core 1).poolFor ≠ some (1, (s.context 1).latch))
    ∧ (let e := queueEntry 0xffff700000000001; let s := scheduled [e]
       s.recordReason 0 0 1 true e.record = some 1 ∧ 2 ≤ (s.context 1).live ∧ s.mem.wf = true ∧ s.ccbWord 0 1 64 = 0 ∧ (s.cluster 0).queues.get [] 1 = [e]) := by decide +kernel

/-- A slot that a record has been chosen for, and one that its registers are being cleared in. -/
def chosen (e : QEntry) : State := (scheduled []).modSlot 8 fun t => { t with phase := .chosen, incoming := some e, id := { t.id with ctx := 1, strand := 2 } }

theorem witness_StrandsAreScheduled_slots : ((chosen (queueEntry 0xffff600000000001)).slot 8).phase = .chosen ∧ ((chosen (queueEntry 0xffff600000000001)).slot 8).incoming = some (queueEntry 0xffff600000000001)
    ∧ Scope.cluster.code < 4 ∧ (queueEntry 0xffff600000000001).record.ctl.toNat / 2 ^ 44 % 16 ≤ 6
    ∧ (strand fun t => { t with phase := .clearing }).me.phase = .clearing := by decide +kernel

theorem test_slot_load : runs (.slotLoad 8) (chosen (queueEntry 0xffff100000000001)) (fun t => (t.slot 8).pc == 64 && (t.slot 8).val 8 == 5 && ((t.slot 8).reg 9).mark == .idle && (t.slot 8).phase == .live) = true
    ∧ runs (.registerClear 8) (there.modSlot 8 fun t => { t with phase := .clearing }) (fun t => ((t.slot 8).reg 9).mark == .full && (t.slot 8).phase == .live) = true := by decide +kernel

/-- Cluster 1 of the same partition has a record that may be stolen; cluster 0 has had none for 1,024 cycles. -/
def idle (l : List QEntry) : State :=
  { (((scheduled []).modPart 0 fun p => { p with quanta := 3 }).modCluster 1 fun c => { c with ctable := [(0, 1 + 2 ^ 16 + 2 ^ 20)], queues := [(1, l)] }) with now := 1024 }

theorem witness_StrandsAreScheduled_slices :
    (let e := queueEntry 0xfffe100000000001; let s := (scheduled []).modCluster 0 fun c => { c with transit := [(1, 1)] }
     0 < (s.cluster 0).transit.get 0 1 ∧ ((s.cluster 0).queues.get [] 1).length < 4096 ∧ e.strand = 2)
    ∧ (let e := queueEntry 0xfffe100000000001; let s := idle [e]
       s.holderKey 0 = some 1 ∧ (s.cluster 0).queues.get [] 1 = [] ∧ (s.cluster 0).saving = none ∧ (s.virtualCores 0).any (fun x => (s.freeSlotOf x.2).isSome) = true
        ∧ (s.cluster 0).emptyFrom.get 0 1 + 1024 ≤ s.now ∧ (s.context 1).overflow = [] ∧ 1 / 16 = 0 / 16 ∧ (s.cluster 1).entryOf 1 ≠ none ∧ s.ownerOf 1 = some 0
        ∧ (s.cluster 1).queues.get [] 1 = [e] ∧ e.record.ctl.toNat / 2 ^ 48 = 0xfffe ∧ (List.range 16).all (fun x => x == 0 || x == 1 || (s.stealable x 1).isEmpty) = true)
    ∧ (let s := (scheduled []).modCluster 0 fun c => { c with sliceEnd := 1 }; s.now < (s.cluster 0).sliceEnd)
    ∧ (let s := scheduled []; (s.cluster 0).sliceEnd ≤ s.now ∧ (s.cluster 0).saving = none ∧ (s.cluster 0).holder = some 0 ∧ s.slotsOf 0 (s.entryKey 0 0) ≠ [])
    ∧ (let s := (scheduled [queueEntry 0xffff100000000001]).modCluster 0 fun c => { c with holder := none }
       (s.cluster 0).saving = none ∧ (s.cluster 0).holder = none ∧ (List.range 16).filter (s.runnable 0) = [0] ∧ 0 ∉ (s.cluster 0).imaged) := by decide +kernel

theorem test_scheduling : runs (.steal 0) (idle [queueEntry 0xfffe100000000001]) (fun t => ((t.cluster 0).queues.get [] 1).length == 1 && ((t.cluster 1).queues.get [] 1).isEmpty) = true
    ∧ runs (.dispatchRecord 0) (scheduled [queueEntry 0xffff100000000001]) (fun t => (t.slot 8).phase == .chosen && (t.cluster 0).nextLoad == 4) = true
    ∧ runs (.sliceEarlyEnd 0) ((scheduled [queueEntry 0xffff100000000001]).modCluster 0 fun c => { c with holder := none }) (fun t => (t.cluster 0).holder == some 0) = true := by decide +kernel

/-- A supervisor whose operand names cluster 0 by the root form, and a record of context 1 at 0 of its scratchpad. -/
def rooted : State :=
  let s := (strand fun t => at_ .s 0 (regs [(1, 31 * 2 ^ 22), (2, 2 ^ 20)] t)).modCluster 0 fun c => { c with ctable := [(0, 1 + 2 ^ 16 + 2 ^ 20)] }
  { s with mem := s.mem.writeBytes (poolKey 0 (2 * 16384)) (leBytes 8 64 ++ leBytes 8 0xffff100000000001 ++ leBytes 8 5) }

theorem witness_StrandsBeginAndLeave_root :
    (let s := rooted; let r := recordOf (s.bytesAt (poolKey 0 (2 * 16384)) 64)
     s.src.pred 0 = true ∧ s.ready [srcA 1 true, srcB 2 true] [3] true = true ∧ (s.rd 2).toNat / 2 ^ 20 % 2 = 1 ∧ s.me.status.priv ≠ .u ∧ (s.rd 2).toNat / 2 ^ 21 % 2 = 0
      ∧ (s.rd 2).toNat % 2 ^ 14 = 0 ∧ s.usable 0 0 = true ∧ (s.rd 1).toNat < 2 ^ 27 ∧ areaMalformed (s.rd 1).toNat = false ∧ s.padAt s.src s.myCore (s.rd 1).toNat 64 = some (0, 2 * 16384)
      ∧ (s.cluster 0).entryOf 1 ≠ none ∧ r.ctl.toNat % 2 ^ 16 = 1 ∧ s.recordReason 0 0 1 false r = none ∧ max 1 ((s.ccbWord 0 1 24).toNat % 2 ^ 32) ≠ 2 ^ 32 - 1
      ∧ s.queued 0 (contextKey 0 1) < 4096 ∧ quietB s = true ∧ s.melts = [] ∧ s.partials = [] ∧ s.mem.wf = true ∧ s.me.status.tl < 2)
    ∧ (let s := strand fun t => at_ .s 0 (regs [(1, 31 * 2 ^ 22 + 1), (2, 2 ^ 20 + 1)] t); (s.rd 2).toNat / 2 ^ 20 % 2 = 1 ∧ (s.rd 2).toNat % 2 ^ 14 ≠ 0 ∧ areaMalformed (s.rd 1).toNat = true)
    ∧ (let s := spawning 64 0xffff .u; let s := { s with mem := s.mem.writeBytes (hbmKey 0 (s.context 1).ccb.toNat + 24) (leBytes 4 (2 ^ 32 - 1)) }
       max 1 ((s.ccbWord s.me.id.part s.me.id.ctx 24).toNat % 2 ^ 32) = 2 ^ 32 - 1)
    ∧ (let s := (sending (.served 0) 0).modContext 1 fun c => { c with live := 2 }; s.ready [srcA 1 true] [] false = true ∧ s.me.front.wait = .served 0 ∧ 2 ≤ (s.context (myContext s)).live) := by
  decide +kernel

/-- R129: the record in the scratchpad is context 1's new strand, its number there after 20 cycles. -/
theorem test_root_spawn : runs (.spawn 3 1 2 false false 0 0) rooted (fun t => ((t.cluster 0).queues.get [] 1).map (fun e => (e.record.pc, e.record.s.head?, e.strand)) == [(64, some 5, 1)]
      && t.agenda.any fun d => d.due == t.now + 20) = true := by decide +kernel

/-- A GROUP counter that other devices reach; a strand whose MFS of MSGIN is to be delivered; records that fail at their choice and at their load. -/
theorem witness_BarriersReleaseTheirRound_others :
    (let k := there.barrierKey .group 3; 5 ≤ barrierScope k ∧ 7 ≤ barrierLimit (scopeOfKey k) ∧ (there.barrier k).arrived = 0 ∧ ({ there with arg := [7] } : State).argAt 0 = 7
      ∧ (let s := there.modBarrier k fun _ => { Barrier.empty with count := 4, arrived := 1 }; s.argAt 0 = 0 ∧ (s.barrier k).releasing = false ∧ (s.barrier k).arrived + 2 ≤ (s.barrier k).count))
    ∧ (let s := (producing 5 0 0).modCore 0 fun c => { c with recvq := [flit true], waiters := [{ uid := strandKey 0 1 1, slot := 0, tag := 5, served := true }] }
       s.slotOf (strandKey 0 1 1) = some 0 ∧ (s.core 0).waiters.any (fun w => w.tag == 5) = true ∧ (s.core 0).recvq.find? (fun f => f.dst == s.virtualCore 0 && f.uid / 2 ^ 32 == strandKey 0 1 1 / 2 ^ 32) = some (flit true))
    ∧ (let e := queueEntry 0x8018100000000001; let s := scheduled [e]; s.noCore 0 0 e.record = true ∧ s.recordReason 0 0 1 true e.record = some 4 ∧ (s.cluster 0).queues.get [] 1 = [e])
    ∧ (let s := chosen (queueEntry 0xffff700000000001)
       s.recordReason (clusterOf (coreOf 8)) (s.slot 8).id.part (s.slot 8).id.ctx true (queueEntry 0xffff700000000001).record = some 1 ∧ 2 ≤ (s.context 1).live) := by decide +kernel

/-- R125, R143: the delivery takes the arrival from the queue. -/
theorem test_msgin : runs (.deliver (strandKey 0 1 1) 5 .msg)
      ((producing 5 0 0).modCore 0 fun c => { c with recvq := [flit true], waiters := [{ uid := strandKey 0 1 1, slot := 0, tag := 5, served := true }] })
      (fun t => (t.slot 0).val 5 == 7 && (t.core 0).recvq.isEmpty && (t.core 0).waiters.isEmpty) = true := by decide +kernel

-- ==== engines ====

/-- A LOCAL handle of one INT32 element, `k` bytes into the own scratchpad (R234). -/
def one (k : Nat) : HandleImage := BitVec.ofNat 256 (0x91 + (31 * 2 ^ 22 + k) * 2 ^ 16 + 2 ^ 48 + 2 ^ 64 + 4 * 2 ^ 80)

def handles (l : List (HReg × HandleImage)) (t : Slot) : Slot := l.foldl (fun t p => t.putHandle p.1 { val := p.2, mark := .full }) t

/-- h1, h2 and h3 name one element each, at 0, 4 and 8; s4 and s5 a completion word at 16 and its control word. -/
def engined : State := (mapped 0x3f fun t => handles [(1, one 0), (2, one 4), (3, one 8)] (regs [(4, 16), (5, 0x12340001)] t))

/-- The command that an instruction has queued, in a state. -/
def command (i : Instr) (st : CmdState) : Cmd :=
  { engined.blankCmd with id := 0, unit := cmdUnit i, ins := i, hd := one 0, ha := one 4, hb := one 8, target := 16, control := 0x12340001, hasComp := true, state := st, readyAt := 0 }

/-- The state with the command as number 0, and bytes at the elements of A and B. -/
def commanded (c : Cmd) : State :=
  let s := { engined with cmds := engined.cmds.set 0 c, nextCmd := 1 }
  match s.cmdLocal c (withCore c.vcore (31 * 2 ^ 22)) 4 with
  | .ok (core, off) => { s with mem := (s.mem.writeBytes (poolKey core off) [1, 1, 1, 1, 0x0f, 0xf0, 0x55, 0, 0x33, 0x33, 0x33, 0x80]) }
  | .error _ => s

theorem witness_EngineCommandsAreQueued :
    (aeRegs (.vand 1 2 3 0 4 false)).isSome = true
    ∧ (let s := engined; let r : AeRegs := { hd := 1, ha := 2, hb := 3, hl := 0, sc := 4, xs := false }; aeRegs (.vand 1 2 3 0 4 false) = some r ∧ s.cmds = [] ∧ s.ready r.sources [] false = true
      ∧ s.commandFail s.issuer (.vand 1 2 3 0 4 false) (s.rdH 1) (s.rdH 2) (s.rdH 3) (s.rdH 0) (decide ((0 : HReg) ≠ 0)) (some (s.rd 4, s.rd 5)) = none
      ∧ quietB s = true ∧ s.src.id = s.me.id ∧ s.me.status.tl < 2
      ∧ (s.commandFail s.issuer (.vgather 1 2 3 0 4 false) (s.rdH 1) (s.rdH 2) (s.rdH 3) (s.rdH 0) false (some (s.rd 4, s.rd 5))).isSome = false
      ∧ (s.commandFail s.issuer (.mma 1 2 3 0 0 false) (s.rdH 1) (s.rdH 2) (s.rdH 3) (s.rdH 0) false none).isSome = true)
    ∧ (let c := command (.vand 1 2 3 0 4 false) .waiting; let s := { engined with cmds := [(0, c), (1, { c with id := 1 })] }
       2 ≤ (s.queueOf s.myCore .vector).length ∧ s.cmds.all (fun c => !c.2.owed) = true)
    ∧ (there.rdH 0).toNat % 16 ∉ [1, 2, 3] := by decide +kernel

/-- R240: the images, the pair and the format are captured, and the unit sees the command 2 cycles later. -/
theorem test_dispatch : runs (.vand 1 2 3 0 4 false) engined (fun t => (t.cmds.get? 1).any fun c => c.ha == one 4 && c.target == 16 && c.control == 0x12340001 && c.readyAt == 2
      && t.agenda == [{ due := 2, ev := .vectorGrant 0, arg := [] }]) = true
    ∧ trapped (.mma 1 2 3 0 0 false) engined = some (3072 + 7 * 32 + 1, 0) := by decide +kernel

/-- A ring descriptor (R248): SLOTS and SLOTB of INT32 tiles, one by one, at 64 of the own scratchpad; HEAD 0. -/
def ring (slots tail core : Nat) : Nat := core * 2 ^ 22 + 64 + tail * 2 ^ 48 + slots * 2 ^ 64 + 2 ^ 80 + 2 ^ 96 + 2 ^ 112 + 9 * 2 ^ 128

/-- The descriptor stands at 32 of the scratchpad that s1 points into, and, if `set`, in the ring table. -/
def ringed (slots tail : Nat) (set : Bool) : State :=
  let s := strand (regs [(1, 31 * 2 ^ 22 + 32), (2, 31 * 2 ^ 22 + 16)])
  let s := if set then s.setRing 0 2 (BitVec.ofNat 256 (ring slots tail 0)) else s
  { s with mem := s.mem.writeBytes (poolKey 0 (2 * 16384 + 32)) (leBytes 32 (ring slots 0 31)) }

theorem witness_EngineInstructionsAct_rings :
    (let s := ringed 4 0 false
     s.src.pred 0 = true ∧ s.ready [srcA 1 true] [] false = true ∧ (s.rd 1).toNat % 32 = 0 ∧ s.ownPad s.issuer (s.rd 1).toNat 32 = some (0, 2 * 16384 + 32)
      ∧ s.ringOk s.issuer (BitVec.ofNat 256 (leNat (s.bytesAt (poolKey 0 (2 * 16384 + 32)) 32))) = true ∧ s.ringBusy s.myCore 0 2 = false ∧ s.me.status.tl < 2)
    ∧ (let s := ringed 1025 0 false; s.ringOk s.issuer (BitVec.ofNat 256 (leNat (s.bytesAt (poolKey 0 (2 * 16384 + 32)) 32))) = false)
    ∧ (let s := ringed 4 0 false; let c := { command (.vand 1 2 3 0 4 false) .running with ha := 0x20002 }; ({ s with cmds := [(0, c)] } : State).ringBusy s.myCore 0 2 = true)
    ∧ (let r := fun (s : State) => (s.core s.myCore).rings.get 0 2
       (r (ringed 4 0 false)).toNat / 2 ^ 64 % 2 ^ 16 = 0 ∧ (r (ringed 4 4 true)).toNat / 2 ^ 64 % 2 ^ 16 = 4 ∧ (r (ringed 4 4 true)).toNat / 2 ^ 48 % 2 ^ 16 = 4
        ∧ (r (ringed 4 3 true)).toNat / 2 ^ 48 % 2 ^ 16 = 3 ∧ quietB (ringed 4 3 true) = true) := by decide +kernel

theorem test_rings : runs (.rset 2 1 false 0) (ringed 4 0 false) (fun t => t.agenda == [{ due := 0, ev := .ringLoad 0 2, arg := [ring 4 0 0] }]) = true
    ∧ runs (.ringLoad 0 2) { there with arg := [ring 4 0 0] } (fun t => (t.core 0).rings == [(2, BitVec.ofNat 256 (ring 4 0 0))]) = true
    ∧ runs (.rpush 2 0) (ringed 4 3 true) (fun t => (t.core 0).rings == [(2, BitVec.ofNat 256 (ring 4 4 0))]) = true
    ∧ runs (.rpush 2 0) (ringed 4 4 true) (fun t => t.flow == .wait) = true ∧ trapped (.rpush 3 0) (ringed 4 4 true) = some (3072 + 7 * 32 + 9, 0)
    ∧ trapped (.rset 2 2 false 0) (ringed 4 0 false) = some (3072 + 7 * 32 + 9, 5) := by decide +kernel

/-- The record of a FAULTED command at 192 of the scratchpad, s1 its address. -/
def recordAt (c : Cmd) (w : Nat) (f : State → State) : State :=
  let s := f (mapped 0x3f (regs [(1, 31 * 2 ^ 22 + 192), (2, w)]))
  { s with mem := s.mem.writeBytes (poolKey 0 (2 * 16384 + 192)) (c.record 4) }

/-- The command's record, as RESUME of the strand reads it. -/
def described (s : State) : Option Cmd := recordCmd s.blankCmd (s.bytesAt (poolKey 0 (2 * 16384 + 192)) 192) [4]

theorem witness_EngineInstructionsAct_handles : engined.src.pred 0 = true ∧ engined.ready [srcA 4 true] [] false = true ∧ engined.ready [srcH 1 true] [3] true = true
    ∧ (engined.me.handle 1).mark = .full ∧ (engined.src.handle 7).mark = (there.src.handle 7).mark := by decide +kernel

/-- R288: three quarters of h1 stay. -/
theorem test_handles : runs (.hset 1 4 3 false 0) engined (fun t => (t.me.handle 1).val == one 0 ||| BitVec.ofNat 256 (16 * 2 ^ 192)) = true
    ∧ delivers (.hget 6 1 0 false 0) engined = some (0x1000107c000000091 % 2 ^ 64) := by decide +kernel

theorem witness_EngineInstructionsAct_engstat :
    (let c := command (.vand 1 2 3 0 4 false) .running; let s := { engined with cmds := [(0, c)] }
     s.src.pred 0 = true ∧ s.cmds.all (fun c => !c.2.owed) = true ∧ s.ready [srcA 4 true, srcB 0 true] [6] true = true ∧ (s.rd 0).toNat < 2 ^ 32 ∧ s.me.status.tl < 2
      ∧ s.cmds.find (fun _ c => c.core == s.myCore && c.target == s.rd 4 && s.mayFind c.uid && decide (c.state ≠ .saved)) = some (0, c))
    ∧ (let e : LogEntry := { id := 3, uid := strandKey 0 1 1, target := 16, value := 0x12340000, result := 0 }; let s := engined.modCore 0 fun c => { c with log := [e] }
       s.cmds = [] ∧ (s.core s.myCore).log.find? (fun e => e.target == s.rd 4 && s.mayFind e.uid) = some e)
    ∧ (engined.core engined.myCore).log = [] ∧ 2 ^ 33 ≤ ((strand (regs [(2, 2 ^ 33)])).rd 2).toNat := by decide +kernel

/-- A record asked for of a SUSPENDED command; a register of 33 bits that names no record's place. -/
theorem witness_EngineInstructionsAct_engstat_record :
    (let c := command (.vand 1 2 3 0 4 false) .suspended
     let s := { mapped 0x3f (regs [(4, 16), (2, 2 ^ 32 + 31 * 2 ^ 22 + 192)]) with cmds := [(0, c)] }
     s.ready [srcA 4 true, srcB 2 true] [6] true = true ∧ 2 ^ 32 ≤ (s.rd 2).toNat ∧ (s.rd 2).toNat < 2 ^ 33 ∧ s.recordPlace ((s.rd 2).toNat % 2 ^ 32) = some (0, 2 * 16384 + 192)
      ∧ s.mem.wf = true ∧ s.cmds.find (fun _ c => c.core == s.myCore && c.target == s.rd 4 && s.mayFind c.uid && decide (c.state ≠ .saved)) = some (0, c))
    ∧ (let s := strand (regs [(2, 2 ^ 32 + 1)]); (s.rd 2).toNat / 2 ^ 32 % 2 = 1 ∧ s.recordPlace ((s.rd 2).toNat % 2 ^ 32) = none ∧ s.me.status.tl < 2) := by decide +kernel

theorem witness_EngineInstructionsAct_resume :
    (let s := recordAt (command (.vand 1 2 3 0 4 false) .faulted) 0 id
     s.ready [srcA 1 true, srcB 2 true] [] false = true ∧ s.recordPlace (s.rd 1).toNat = some (0, 2 * 16384 + 192) ∧ (s.rd 2).toNat = 0 ∧ quietB s = true ∧ s.me.status.tl < 2
      ∧ (match described s with
        | some c => (s.queueOf s.myCore c.unit).isEmpty && decide (s.commandFail s.issuer c.ins c.hd c.ha c.hb c.hl false (if c.hasComp then some (c.target, c.control) else none) = none)
        | none => false) = true)
    ∧ (let c := { command (.vand 1 2 3 0 0 false) .faulted with hasComp := false, target := 0, control := 1 }
       (match described (recordAt c 1 id) with | some x => !x.hasComp && !(recordAt c 1 id).awaitsRemote x.scope | none => true) = true)
    ∧ described (recordAt { command (.vand 1 2 3 0 4 false) .faulted with prog := [1, 0, 0, 0, 0] } 0 id) = none
    ∧ 2 ≤ ((recordAt (command (.vand 1 2 3 0 4 false) .faulted) 2 id).rd 2).toNat ∧ 2 ^ 27 ≤ ((strand (regs [(1, 2 ^ 27)])).rd 1).toNat := by decide +kernel

/-- A record of a command whose completion lands on a name. -/
theorem witness_EngineInstructionsAct_resume_named :
    (let s := recordAt { command (.vand 1 2 3 0 4 false) .faulted with control := 0x12340008 } 1 id
     quietB s = true ∧ (s.rd 2).toNat = 1 ∧ (match described s with | some x => x.hasComp && x.control.getLsbD 3 && !(x.control.getLsbD 8) && !(s.awaitsRemote x.scope) | none => false) = true) := by
  decide +kernel

theorem test_resume : runs (.resume 1 2 false false 0) (recordAt (command (.vand 1 2 3 0 4 false) .faulted) 0 id) (fun t => (t.cmds.get? 1).any fun c => c.ins == .vand 1 2 3 0 4 false && c.state == .waiting && c.ha == one 4) = true
    ∧ delivers (.engstat 6 4 0 false false 0) { engined with cmds := [(0, { command (.vand 1 2 3 0 4 false) .faulted with detail := 18 })] } = some (18 * 65536 + 4)
    ∧ runs (.lease 3 0) there (fun t => (t.core 0).leases.marker == some 3) = true ∧ runs (.unlease 0) there (fun t => (t.core 0).leases.marker == none) = true := by decide +kernel

/-- Quad 0 as `f` changes it, with the command. -/
def onQuad (c : Cmd) (f : Quad → Quad) : State :=
  { (((commanded c).modQuad 0 f).modCluster 0 fun c => { c with ctable := [(0, 1 + 2 ^ 16 + 2 ^ 20)], holder := some 0 }) with cmds := [(0, c)] }

def vand (st : CmdState) : Cmd := command (.vand 1 2 3 0 4 false) st

def zeroed (st : CmdState) : Cmd := { command (.mzero 1 0 0 false) st with lease := 7, ha := 0, hb := 0, hasComp := false }

def copied (st : CmdState) (held : Bool) : Cmd := { command (.cpy 1 2 0 0 false) st with hb := 0, held := held }

theorem witness_EngineUnitsTakeTurns :
    (let s := onQuad (vand .waiting) id; (s.quad 0).vGrant = none ∧ s.firstReady 0 (s.quad 0).v .vector = some (0, vand .waiting))
    ∧ ((onQuad (vand .running) fun q => { q with vGrant := some 0 }).quad 0).vGrant ≠ none
    ∧ (let s := { onQuad (vand .running) fun q => { q with vGrant := some 0 } with now := 4096 }
       (s.quad 0).vStart + 4096 ≤ s.now ∧ (s.quad 0).vGrant = some 0 ∧ s.cmds.get? 0 = some (vand .running) ∧ (vand .running).unit = .vector ∧ quadOf (vand .running).core = 0)
    ∧ (let s := onQuad (copied .waiting false) id; s.copyQueue 0 = some (copied .waiting false) ∧ s.canStart (copied .waiting false) = true)
    ∧ (let c := copied .running false; let s := { there with cmds := [(0, c), (1, { c with id := 1 }), (2, { c with id := 2 }), (3, { c with id := 3 })] }
       4 ≤ (s.cmds.select fun _ c => c.unit == .copy && copyEngineOf c.core == 0 && decide (c.state = .running)).length)
    ∧ (let s := { there.modCluster 0 fun c => { c with windows := [{ id := 5, opened := 0, cmds := [0] }] } with cmds := [(0, copied .waiting true)] }
       (s.cluster 0).windows.find? (fun w => w.id == 5) = some { id := 5, opened := 0, cmds := [0] } ∧ s.cmds.get? 0 = some (copied .waiting true)) := by decide +kernel

/-- Units that have just been given back; a window of two commands. -/
theorem witness_EngineUnitsTakeTurns_waits :
    (let s := onQuad (vand .waiting) fun q => { q with vFrom := 4, mFrom := 8 }
     (s.quad 0).vGrant = none ∧ s.now < (s.quad 0).vFrom ∧ (s.quad 0).mRun = none ∧ (s.quad 0).lease = none ∧ s.now < (s.quad 0).mFrom)
    ∧ (let s := onQuad (vand .waiting) id; (s.quad 0).vFrom ≤ s.now ∧ (s.quad 0).mFrom ≤ s.now)
    ∧ (let w : CombineWindow := { id := 5, opened := 0, cmds := [0, 1] }
       let s := { there.modCluster 0 fun c => { c with windows := [w] } with cmds := [(0, copied .waiting true), (1, { copied .waiting true with id := 1 })] }
       (s.cluster 0).windows.find? (fun w => w.id == 5) = some w ∧ 2 ≤ (w.cmds.filter fun i => (s.cmds.get? i).any (·.held)).length ∧ w.id ≠ 0) := by decide +kernel

theorem witness_EngineUnitsTakeTurns_matrix :
    (let s := onQuad (zeroed .waiting) id; (s.quad 0).mRun = none ∧ (s.quad 0).lease = none ∧ s.firstReady 0 (s.quad 0).m .matrix = some (0, zeroed .waiting))
    ∧ ((onQuad (zeroed .running) fun q => { q with mRun := some 0 }).quad 0).mRun ≠ none
    ∧ (let s := there.modQuad 0 fun q => { q with lease := some (0, 7) }
       (s.quad 0).mRun = none ∧ (s.quad 0).lease = some (0, 7) ∧ (s.core 0).leases.left.get 0 7 = 0 ∧ s.leaseRunning (0, 7) = false
        ∧ ({ s with now := 64 } : State).now ≥ ((s.quad 0).idleFrom + 64))
    ∧ (let s := { onQuad (zeroed .running) fun q => { q with mRun := some 0, lease := some (0, 7), leaseFrom := 1 } with now := 65536, arg := [1] }
       (s.quad 0).leaseFrom ≠ 0 ∧ (s.quad 0).leaseFrom + 65536 ≤ s.now + 1 ∧ s.arg = [1] ∧ (s.quad 0).mRun = some 0 ∧ s.cmds.get? 0 = some (zeroed .running)
        ∧ (zeroed .running).unit = .matrix ∧ quadOf (zeroed .running).core = 0) := by decide +kernel

theorem test_units : runs (.vectorGrant 0) (onQuad (vand .waiting) id) (fun t => (t.quad 0).vGrant == some 0 && t.agenda == [{ due := 1, ev := .iterationCommit 0, arg := [] }]) = true
    ∧ runs (.leaseGrant 0) (onQuad (zeroed .waiting) id) (fun t => (t.quad 0).lease == some (0, 7) && (t.quad 0).leaseFrom == 1) = true
    ∧ runs (.copyEngineStart 0) (onQuad (copied .waiting false) id) (fun t => (t.cmds.get? 0).any fun c => c.state == .running) = true
    ∧ runs (.vectorSliceExpiry 0) ({ onQuad (vand .running) fun q => { q with vGrant := some 0 } with now := 4096 }) (fun t => (t.quad 0).vGrant == none) = true
    ∧ runs (.leaseIdleEnd 0) { there.modQuad 0 fun q => { q with lease := some (0, 7) } with now := 64 } (fun t => (t.quad 0).lease == none) = true := by decide +kernel

/-- What an iteration of a running command answers: done, waits, or a fault's detail. -/
def iterates (c : Cmd) (f : State → State) : Nat × Nat × Bool :=
  match (f (commanded c)).iterate c with
  | (_, x, .ok _) => (0, x.id, x.done)
  | (_, x, .error .wait) => (1, x.id, x.done)
  | (_, x, .error (.fault n _)) => (n, x.id, x.done)
  | (_, x, .error (.fetch ..)) => (2, x.id, x.done)
  | (_, x, .error (.walk _)) => (3, x.id, x.done)
  | (_, x, .error (.hold ..)) => (4, x.id, x.done)

theorem witness_EngineCommandsRunAndComplete :
    ((commanded (vand .running)).cmds.get? 0 = some (vand .running) ∧ (vand .running).done = false ∧ iterates (vand .running) id = (0, 0, true))
    ∧ (let c := { copied .running false with hl := BitVec.ofNat 256 (5 + 2 * 2 ^ 48 + 2 ^ 64 + 2 ^ 80 + 2 ^ 96 + 2 ^ 112), strides := List.replicate 15 0 }; c.unit = .copy ∧ (iterates c id).2.2 = false)
    ∧ (let c := { vand .running with ha := 0x20002 }; (iterates c fun s => s.setRing 0 2 (BitVec.ofNat 256 (ring 4 0 0))).1 = 1) := by decide +kernel

/-- A copy of two elements, after its first: it goes on; its context is being saved; a vector command whose slice is over. -/
theorem witness_EngineCommandsRunAndComplete_boundary :
    (let c := { copied .running false with hl := BitVec.ofNat 256 (5 + 2 * 2 ^ 48 + 2 ^ 64 + 2 ^ 80 + 2 ^ 96 + 2 ^ 112), strides := List.replicate 15 0 }
     let after := fun (s : State) => (s.iterate c).1
     ((after (commanded c)).cluster 0).saving = none
      ∧ ((after ((commanded c).modCluster 0 fun q => { q with saving := some 0 })).cluster 0).saving ≠ none)
    ∧ (let c := { vand .running with hl := BitVec.ofNat 256 (5 + 2 * 2 ^ 48 + 2 ^ 64 + 2 ^ 80 + 2 ^ 96 + 2 ^ 112), strides := List.replicate 15 0 }
       let s := { commanded c with now := 4096 }
       (iterates c fun s => { s with now := 4096 }).2.2 = false ∧ c.unit = .vector ∧ ((s.iterate c).1.quad 0).vStart + 4096 ≤ (s.iterate c).1.now) := by decide +kernel

theorem witness_EngineCommandsRunAndComplete_one :
    (let c := vand .running; let s := commanded c
     s.cmds.get? c.id = some c ∧ c.state = .running ∧ c.prog = [0, 0, 0, 0, 0] ∧ c.hl = 0 ∧ s.badBytes = [] ∧ s.mem.wf = true ∧ c.unit = .vector ∧ c.vcore < 24
      ∧ (c.hd :: c.ha :: [c.hb]).all (fun h => h.toNat % 16 == 1 && h.toNat / 2 ^ 4 % 16 == 9 && h.toNat / 2 ^ 48 % 2 ^ 16 == 1 && h.toNat / 2 ^ 64 % 2 ^ 16 == 1) = true
      ∧ ([(c.hd, 0), (c.ha, 4), (c.hb, 8)].all fun h => match s.cmdLocal c (withCore c.vcore (h.1.toNat / 2 ^ 16 % 2 ^ 32)) 4 with | .ok p => p == (0, 2 * 16384 + h.2) | .error _ => false) = true) := by
  decide +kernel

theorem test_iteration : (match exec (.iterationCommit 0) (commanded (vand .running)) with | .next t => leNat (t.mem.readBytes (poolKey 0 (2 * 16384)) 4) | _ => 0) = 0x113003
    ∧ runs (.engineFault 0 18 7) (commanded (vand .running)) (fun t => (t.cmds.get? 0).any fun c => c.state == .faulted && c.owed && c.detail == 18 && c.tval == 7) = true := by decide +kernel

/-- The same command finished, with the given control bits. -/
def finished (n : Nat) (comp : Bool) (target : Word) : State :=
  commanded { command (.vand 1 2 3 0 4 false) .finished with control := BitVec.ofNat 64 (0x12340000 + n), hasComp := comp, target := target, flags := 3 }

/-- Command 0 of a state. -/
def nought (s : State) : Cmd := (s.cmds.get? 0).getD s.blankCmd

theorem witness_EngineCommandsRunAndComplete_delivery :
    (let s := finished 1 true 16; let c := nought s
     s.cmds.get? 0 = some c ∧ c.state = .finished ∧ c.sent = false ∧ c.hasComp = true ∧ c.control.getLsbD 3 = false ∧ c.control.getLsbD 8 = false
      ∧ (s.queueOf c.core c.unit).all (fun y => decide (c.id ≤ y.id)) = true ∧ s.cmdRemoteOpen c = false ∧ (s.core c.core).log.length < 64
      ∧ (match (s.access { core := c.core, part := c.part, asid := c.asid, priv := c.priv } .store 8 c.target).2 with | .ok x => x.target == .hbm 16 | .error _ => false) = true
      ∧ s.melts = [] ∧ s.partials = [] ∧ s.mem.wf = true)
    ∧ (nought (finished 1 false 0)).hasComp = false
    ∧ (let s := finished 0x108 true 0; let c := nought s
       c.control.getLsbD 3 = true ∧ c.control.getLsbD 8 = true ∧ s.slotOf c.uid = some 0 ∧ (s.slot 0).uint.pending.length < 8 ∧ nameDevice c.target = s.plat.device) := by
  decide +kernel

/-- A completion word on no page, and a strand that has eight interrupts pending. -/
theorem witness_EngineCommandsRunAndComplete_refused :
    (let s := finished 1 true (2 ^ 40); let c := nought s
     c.control.getLsbD 3 = false ∧ (match (s.access { core := c.core, part := c.part, asid := c.asid, priv := c.priv } .store 8 c.target).2 with | .ok _ => false | .error e => e.cls == 4) = true)
    ∧ (let s := (finished 0x108 true 0).modSlot 0 fun t => { t with uint := { t.uint with pending := List.replicate 8 (0, 0) } }
       8 ≤ (s.slot 0).uint.pending.length ∧ s.slotOf (nought s).uid = some 0) := by decide +kernel

/-- R246: SEQ, the flags and STATUS 0. -/
theorem test_completion : runs (.engineCompletion 0) (finished 1 true 16) (fun t => t.mem.readBytes 16 8 == leBytes 8 0x12340300 && t.cmds.isEmpty && (t.core 0).log.length == 1) = true
    ∧ runs (.engineCompletion 0) (finished 0x108 true 0) (fun t => (t.slot 0).uint.pending == [(0x12340300, 0)]) = true := by decide +kernel

-- ==== results of iterations ====

/-- A LOCAL image at `k` of the own scratchpad: format, rows, columns, row stride (R234). -/
def tile (fmt rows cols stride k : Nat) : HandleImage :=
  BitVec.ofNat 256 (1 + fmt * 2 ^ 4 + (31 * 2 ^ 22 + k) * 2 ^ 16 + rows * 2 ^ 48 + cols * 2 ^ 64 + stride * 2 ^ 80)

/-- A GLOBAL image of an INT32 column of `rows` at address 0, its rows 8 bytes apart (R235). -/
def column (rows : Nat) : HandleImage := BitVec.ofNat 256 (3 + 9 * 2 ^ 4 + rows * 2 ^ 80 + 2 ^ 96 + 8 * 2 ^ 112)

/-- A running command without loops, and the state whose scratchpad holds, from `k` on, the codes of `size` bytes of each list. -/
def tileCmd (i : Instr) (hd ha hb : HandleImage) : Cmd := { command i .running with hd := hd, ha := ha, hb := hb }

def tiled (c : Cmd) (l : List (Nat × Nat × List Nat)) : State :=
  { engined with cmds := engined.cmds.set 0 c, nextCmd := 1
                 mem := l.foldl (fun m p => m.writeBytes (poolKey 0 (2 * 16384 + p.1)) (p.2.2.flatMap fun v => leBytes p.2.1 v)) engined.mem }

/-- The condition `LocalTile` as a test. -/
def localTileB (s : State) (c : Cmd) (h : HandleImage) (fmt rows cols stride core off : Nat) : Bool :=
  let f := fun (lo n : Nat) => h.toNat / 2 ^ lo % 2 ^ n
  let a := withCore c.vcore (f 16 32)
  let bytes := (rows - 1) * stride + elemBytes fmt * cols
  decide (f 0 4 = 1 ∧ f 4 4 = fmt ∧ f 48 16 = rows ∧ f 64 16 = cols ∧ f 80 32 = stride ∧ f 112 64 = 0 ∧ 0 < rows ∧ 0 < cols ∧ fmt ≠ 5 ∧ a % 2 ^ 20 + bytes ≤ 2 ^ 20)
    && (match s.cmdLocal c a bytes with | .ok p => p == (core, off) | .error _ => false)

theorem localTile_of (s : State) (c : Cmd) (h : HandleImage) (fmt rows cols stride core off : Nat) (hb : localTileB s c h fmt rows cols stride core off = true) :
    LocalTile s c h fmt rows cols stride core off := by
  unfold localTileB at hb
  simp only [Bool.and_eq_true, decide_eq_true_eq] at hb
  obtain ⟨⟨h1, h2, h3, h4, h5, h6, h7, h8, h9, h10⟩, hm⟩ := hb
  refine ⟨h1, h2, h3, h4, h5, h6, h7, h8, h9, h10, ?_⟩
  split at hm
  · simp_all
  · cases hm

/-- The condition `OneIteration` as a test. -/
def oneIterationB (s : State) (c : Cmd) : Bool :=
  s.cmds.get? c.id == some c && decide (c.state = .running) && c.prog == [0, 0, 0, 0, 0] && c.hl == 0 && decide (c.unit = cmdUnit c.ins) && decide (c.vcore < 24) && s.badBytes.isEmpty
    && s.melts.isEmpty && s.partials.isEmpty && s.mem.wf && s.cores.all fun p => p.2.atomics.all fun r => r.old == none

theorem oneIteration_of (s : State) (c : Cmd) (h : oneIterationB s c = true) : OneIteration s c := by
  simp only [oneIterationB, Bool.and_eq_true, beq_iff_eq, decide_eq_true_eq, List.isEmpty_iff, List.all_eq_true] at h
  obtain ⟨⟨⟨⟨⟨⟨⟨⟨⟨⟨h1, h2⟩, h3⟩, h4⟩, h5⟩, h6⟩, h7⟩, h8⟩, h9⟩, h10⟩, h11⟩ := h
  exact ⟨h1, h2, h3, h4, h5, h6, h7, h8, h9, h10, h11⟩

/-- The codes that the command's iteration leaves, from `k` of the scratchpad on. -/
def computes (c : Cmd) (l : List (Nat × Nat × List Nat)) (k size n : Nat) : List Nat :=
  match exec (.iterationCommit 0) (tiled c l) with
  | .next t => if (nought t).state = .finished then (List.range n).map fun j => leNat (t.mem.readBytes (poolKey 0 (2 * 16384 + k + j * size)) size) else []
  | _ => []

/-- Two FP32 elements at 0, 16 and 32, the second operand's one broadcast to both: 1.5 and -2.0; 3.0 in D. -/
def twoBy (i : Instr) (fb : Nat) : Cmd := tileCmd i (tile 0 1 2 8 0) (tile 0 1 2 8 16) (tile fb 1 1 4 32)

def twoData (b : Nat) : List (Nat × Nat × List Nat) := [(0, 4, [0x40400000, 0]), (16, 4, [0x3fc00000, 0xc0000000]), (32, 4, [b])]

theorem witness_EngineCommandsRunAndComplete_vector :
    (let c := twoBy (.vadd 1 2 3 0 4 false) 0; let s := tiled c (twoData 0x40000000)
     oneIterationB s c = true ∧ localTileB s c c.hd 0 1 2 8 0 (2 * 16384) = true ∧ localTileB s c c.ha 0 1 2 8 0 (2 * 16384 + 16) = true ∧ localTileB s c c.hb 0 1 1 4 0 (2 * 16384 + 32) = true ∧ 4 * 2 ≤ 8)
    ∧ (let c := twoBy (.vscale 1 2 3 0 4 false) 9; let s := tiled c (twoData 3)
       oneIterationB s c = true ∧ localTileB s c c.hb 9 1 1 4 0 (2 * 16384 + 32) = true)
    ∧ (let c := tileCmd (.vcmp 1 2 3 0 4 false .lt) (tile 9 1 2 8 0) (tile 0 1 2 8 16) (tile 0 1 1 4 32); let s := tiled c (twoData 0)
       oneIterationB s c = true ∧ localTileB s c c.hd 9 1 2 8 0 (2 * 16384) = true)
    ∧ (let c := tileCmd (.vred 1 2 0 4 false .sum) (tile 0 1 1 4 0) (tile 0 1 4 16 16) 0; let s := tiled c [(16, 4, [0x3f800000, 0x40000000, 0x40400000, 0x40800000])]
       oneIterationB s c = true ∧ localTileB s c c.hd 0 1 1 4 0 (2 * 16384) = true ∧ localTileB s c c.ha 0 1 4 16 0 (2 * 16384 + 16) = true) := by decide +kernel

/-- By hand, of 1.5 and -2.0: the sums, differences, products, maxima and minima with 2.0; fused with 3.0 and 0 in D; the choice by D; absolute value, negation; 2.0 as a conversion leaves it. -/
theorem test_vector_pairs : computes (twoBy (.vadd 1 2 3 0 4 false) 0) (twoData 0x40000000) 0 4 2 = [0x40600000, 0] ∧ computes (twoBy (.vsub 1 2 3 0 4 false) 0) (twoData 0x40000000) 0 4 2 = [0xbf000000, 0xc0800000]
    ∧ computes (twoBy (.vmul 1 2 3 0 4 false) 0) (twoData 0x40000000) 0 4 2 = [0x40400000, 0xc0800000] ∧ computes (twoBy (.vfma 1 2 3 0 4 false) 0) (twoData 0x40000000) 0 4 2 = [0x40c00000, 0xc0800000]
    ∧ computes (twoBy (.vmax 1 2 3 0 4 false) 0) (twoData 0x40000000) 0 4 2 = [0x40000000, 0x40000000] ∧ computes (twoBy (.vmin 1 2 3 0 4 false) 0) (twoData 0x40000000) 0 4 2 = [0x3fc00000, 0xc0000000]
    ∧ computes (twoBy (.vsel 1 2 3 0 4 false) 0) (twoData 0x40000000) 0 4 2 = [0x3fc00000, 0x40000000] ∧ computes (twoBy (.vscale 1 2 3 0 4 false) 9) (twoData 3) 0 4 2 = [0x41400000, 0xc1800000] := by decide +kernel

theorem test_vector_single : computes (twoBy (.vabs 1 2 0 4 false) 0) (twoData 0) 0 4 2 = [0x3fc00000, 0x40000000] ∧ computes (twoBy (.vneg 1 2 0 4 false) 0) (twoData 0) 0 4 2 = [0xbfc00000, 0x40000000]
    ∧ computes (twoBy (.vrcp 1 2 0 4 false) 0) [(16, 4, [0x40000000, 0xc0800000])] 0 4 2 = [0x3f000000, 0xbe800000] ∧ computes (twoBy (.vrsq 1 2 0 4 false) 0) [(16, 4, [0x40800000, 0x3e800000])] 0 4 2 = [0x3f000000, 0x40000000]
    ∧ computes (twoBy (.vcvt 1 2 0 4 false) 0) (twoData 0) 0 4 2 = [0x3fc00000, 0xc0000000] := by decide +kernel

theorem test_vector_others : computes (tileCmd (.vcmp 1 2 3 0 4 false .lt) (tile 9 1 2 8 0) (tile 0 1 2 8 16) (tile 0 1 1 4 32)) (twoData 0) 0 4 2 = [0, 1]
    ∧ computes (tileCmd (.vred 1 2 0 4 false .sum) (tile 0 1 1 4 0) (tile 0 1 4 16 16) 0) [(16, 4, [0x3f800000, 0x40000000, 0x40400000, 0x40800000])] 0 4 1 = [0x41200000]
    ∧ computes (tileCmd (.vred 1 2 0 4 false .max) (tile 0 1 1 4 0) (tile 0 1 4 16 16) 0) [(16, 4, [0x3f800000, 0xc0000000, 0x40400000, 0x40000000])] 0 4 1 = [0x40400000]
    ∧ computes (tileCmd (.vred 1 2 0 4 false .min) (tile 0 1 1 4 0) (tile 0 1 4 16 16) 0) [(16, 4, [0x3f800000, 0xc0000000, 0x40400000, 0x40000000])] 0 4 1 = [0xc0000000] := by decide +kernel

/-- Accumulators of 16 by 16 at 0, A at 1,024, B at 2,048. -/
def square (i : Instr) (fmt w : Nat) : Cmd :=
  tileCmd i (tile 0 16 16 64 0) (tile fmt 16 w (w * elemBytes fmt) 1024) (tile fmt w 16 (16 * elemBytes fmt) 2048)

/-- Row 0 of A begins with 2, row 1 with an infinity; B begins with 3 and 1; the first accumulator is 1. -/
def squareData (size two inf three one : Nat) (w : Nat) : List (Nat × Nat × List Nat) :=
  [(0, 4, [0x3f800000]), (1024, size, [two]), (1024 + w * size, size, [inf]), (2048, size, [three, one])]

theorem witness_EngineCommandsRunAndComplete_matrix :
    ([(Instr.mma 1 2 3 0 0 false, 1, 16), (.mma 1 2 3 0 0 false, 2, 16), (.mmas 1 2 3 0 0 false, 3, 32), (.mmas 1 2 3 0 0 false, 4, 32)].all fun x =>
      let c := square x.1 x.2.1 x.2.2
      let s := tiled c [(0, 4, [0x3f800000])]
      oneIterationB s c && localTileB s c c.hd 0 16 16 64 0 (2 * 16384) && localTileB s c c.ha x.2.1 16 x.2.2 (x.2.2 * elemBytes x.2.1) 0 (2 * 16384 + 1024)
        && localTileB s c c.hb x.2.1 x.2.2 16 (16 * elemBytes x.2.1) 0 (2 * 16384 + 2048)) = true
    ∧ ([Instr.mdrain 1 2 0 0 false, .maccld 1 2 0 0 false, .mzero 1 0 0 false].all fun i =>
      let c := tileCmd i (tile 0 16 16 64 0) (tile 0 16 16 64 1024) 0
      let s := tiled c [(1024, 4, [0x3f800000])]
      oneIterationB s c && localTileB s c c.hd 0 16 16 64 0 (2 * 16384) && localTileB s c c.ha 0 16 16 64 0 (2 * 16384 + 1024)) = true
    ∧ (engineValue 0 bf16 0x4000).finite = true ∧ (engineValue 0 bf16 0x7f80).finite = false := by decide +kernel

/-- 1 + 2 x 3 and 2 x 1 in row 0; nothing but a mark, of core 0 and k 0, in row 1. -/
theorem test_matrix : (match exec (.iterationCommit 0) (tiled (square (.mma 1 2 3 0 0 false) 1 16) (squareData 2 0x4000 0x7f80 0x4040 0x3f80 16)) with
      | .next t => (List.range 3).map (fun j => leNat (t.mem.readBytes (poolKey 0 (2 * 16384 + j * 4)) 4)) == [0x40e00000, 0x40000000, 0]
          && (t.core 0).marks.get? (2 * 16384 / 1024 * 16 + 1) == some (0, 0) && (t.core 0).marks.get? (2 * 16384 / 1024 * 16) == none
      | _ => false) = true := by decide +kernel

/-- One element of MMAS of E4M3, by hand: 1 + 2 x 3 + 1 x 1; an infinity of E5M2 in its place reads as 0. -/
theorem test_matrix_scaled :
    (let m : Mode := { rnd := 0, sat := false, daz := false, core := 0, conv := false }
     let row (f : Nat) (l : List Nat) : List Exact := (l ++ List.replicate (32 - l.length) 0).map fun c => (readElem m f c false none (tscale 0)).forArray
     (kSteps (kWidth 3) 1 0x3f800000 (row 3 [0x40, 0x38]) (row 3 [0x44, 0x38])).1 = 0x41000000
      ∧ (kSteps (kWidth 4) 1 0x3f800000 (row 4 [0x40, 0x7c]) (row 4 [0x42, 0x3c])).1 = 0x40e00000) := by decide +kernel

theorem test_mdrain : computes (tileCmd (.mdrain 1 2 0 0 false) (tile 0 16 16 64 0) (tile 0 16 16 64 1024) 0) [(1024, 4, [0x3f800000, 5])] 0 4 3 = [0x3f800000, 5, 0] := by decide +kernel

theorem test_maccld : computes (tileCmd (.maccld 1 2 0 0 false) (tile 0 16 16 64 0) (tile 0 16 16 64 1024) 0) [(1024, 4, [0x3f800000, 0x7f800000])] 0 4 3 = [0x3f800000, 0, 0] := by decide +kernel

theorem test_mzero : computes (tileCmd (.mzero 1 0 0 false) (tile 0 16 16 64 0) 0 0) [(0, 4, [7, 8])] 0 4 2 = [0, 0] := by decide +kernel

/-- An index at 32, a column of 3 rows at address 0. -/
def indexed (i : Instr) (hd ha : HandleImage) : Cmd := tileCmd i hd ha (tile 9 1 1 4 32)

theorem witness_EngineCommandsRunAndComplete_copy :
    (let c := tileCmd (.cpy 1 2 0 4 false) (tile 3 2 3 8 0) (tile 3 2 3 4 16) 0; let s := tiled c [(16, 1, [1, 2, 3, 9, 4, 5, 6])]
     oneIterationB s c = true ∧ localTileB s c c.hd 3 2 3 8 0 (2 * 16384) = true ∧ localTileB s c c.ha 3 2 3 4 0 (2 * 16384 + 16) = true ∧ elemBytes 3 * 3 ≤ 8)
    ∧ (let c := indexed (.cpyg 1 2 3 0 4 false) (tile 9 1 1 4 0) (column 3)
       [(2, some 16), (3, none), (0xffffffff, none)].all fun p =>
         let s := tiled c [(32, 4, [p.1])]
         let i := (BitVec.ofNat 32 (leNat (s.bytesAt (poolKey 0 (2 * 16384 + 32)) 4))).toInt
         oneIterationB s c && localTileB s c c.hb 9 1 1 4 0 (2 * 16384 + 32) && localTileB s c c.hd 9 1 1 4 0 (2 * 16384) && decide (c.unit = .copy) && c.pieces.isEmpty && (s.merged.get? c.group).isNone
           && (s.core c.core).l1d.isEmpty
           && (match p.2 with
             | some a => decide (0 ≤ i ∧ i < 3) && (match (s.cmdAccess c .load 4 (BitVec.ofNat 64 (i.toNat * 8))).2 with | .ok x => x.target == .hbm a | _ => false)
             | none => !decide (0 ≤ i ∧ i < 3))) = true
    ∧ (let c := indexed (.cpys 1 2 3 0 4 false) (column 3) (tile 9 1 1 4 16)
       let s := tiled c [(32, 4, [2])]
       oneIterationB s c && localTileB s c c.ha 9 1 1 4 0 (2 * 16384 + 16) && (match (s.cmdAccess c .store 4 16).2 with | .ok x => x.target == .hbm 16 | _ => false)) = true
    ∧ (let c := indexed (.cpyr 1 2 0 4 false) (column 1) (tile 9 1 1 4 16)
       let s := tiled c []
       oneIterationB s c && localTileB s c c.ha 9 1 1 4 0 (2 * 16384 + 16) && (match (s.cmdAccess c .rmw 4 0).2 with | .ok x => x.target == .hbm 0 | _ => false)) = true
    ∧ (let f := fun (lo n : Nat) => (column 3).toNat / 2 ^ lo % 2 ^ n
       f 0 4 = 3 ∧ f 4 4 = 9 ∧ f 8 8 = 0 ∧ f 16 64 = 0 ∧ f 80 16 = 3 ∧ f 96 16 = 1 ∧ f 112 32 = 8 ∧ f 144 40 = 0) := by decide +kernel

/-- What is in memory at 16 after the command's iteration. -/
def leavesAt16 (c : Cmd) (l : List (Nat × Nat × List Nat)) (old key : Nat) : Nat :=
  let s := tiled c l
  match exec (.iterationCommit 0) { s with mem := s.mem.writeBytes key (leBytes 4 old) } with
  | .next t => leNat (t.readMerged key 4).2
  | _ => 0

theorem test_copies : computes (tileCmd (.cpy 1 2 0 4 false) (tile 3 2 3 8 0) (tile 3 2 3 4 16) 0) [(16, 1, [1, 2, 3, 9, 4, 5, 6])] 0 1 12 = [1, 2, 3, 0, 0, 0, 0, 0, 4, 5, 6, 0]
    ∧ computes (indexed (.cpyg 1 2 3 0 4 false) (tile 9 1 1 4 0) (column 3)) [(0, 4, [7]), (32, 4, [3])] 0 4 1 = [0]
    ∧ leavesAt16 (indexed (.cpys 1 2 3 0 4 false) (column 3) (tile 9 1 1 4 16)) [(16, 4, [77]), (32, 4, [2])] 5 16 = 77
    ∧ leavesAt16 (indexed (.cpys 1 2 3 0 4 false) (column 3) (tile 9 1 1 4 16)) [(16, 4, [77]), (32, 4, [3])] 5 16 = 5 := by decide +kernel

/-- What else an iteration meets: a page that must be walked first; a window whose commands form a group; a record whose data another command has left. -/
theorem witness_EngineCommandsRunAndComplete_walk :
    (iterates (indexed (.cpyg 1 2 3 0 4 false) (tile 9 1 1 4 0) (column 3)) fun s => s.modCore 0 fun k => { k with tlb := [] }).1 = 3
    ∧ (let s := (commanded (copied .running false)).modCluster 0 fun q => { q with saving := some 0 }
       (s.cluster 0).saving ≠ none ∧ s.draining 0 = false)
    ∧ (let s := recordAt (command (.vand 1 2 3 0 4 false) .faulted) 0 id
       let l := s.bytesAt (poolKey 0 (2 * 16384 + 192)) 192
       let y : SpentSet := { ctx := contextKey 0 1, record := leNat l, granules := [] }
       ({ s with spent := [y] } : State).spent.find? (fun y => y.ctx == contextKey 0 1 && y.record == leNat l) = some y)
    ∧ (commanded (vand .running)).cores.all (fun c => c.2.log.all fun e => decide (e.id ≠ 0)) = true := by decide +kernel

-- ==== contexts ====

/-- A context table entry of context `c`, with RUN or without, its CCB at 0x4000 and its image at 0x10000. -/
def tableEntry (c run : Nat) : BitVec 256 := BitVec.ofNat 256 (c + 2 ^ 16 + run * 2 ^ 20 + 0x4000 * 2 ^ 64 + 0x10000 * 2 ^ 128)

/-- Entry 0 of cluster 0, as `f` changes the cluster, the strand of context 1 having 0x10000 in s1 and 0x2000 in s2; an image of context 2 and one
virtual core stands in HBM, with a LIVE record of slot 3 whose pc is 64 and whose s2 is FULL, 9. -/
def imagedAs (e : BitVec 256) (f : Cluster → Cluster) : State :=
  let s := (mapped 0x3f (regs [(1, 0x10000), (2, 0x2000)])).modCluster 0 fun c => f { c with ctable := [(0, e)] }
  let key := hbmKey 0 0x10000
  let l := key + sectionAt 0 + 2048 * 3
  { s with mem := (((s.mem.writeBytes key [2, 0, 1, 0, 0, 0, 0, 0, 0x82, 0x89]).writeBytes l (leBytes 8 64 ++ leBytes 8 (2 ^ 63))).writeBytes (l + 0x188) [9]).writeBytes (l + 0x600) [4] }

/-- A dropped entry of the first page of 1 GiB. -/
def gonePage : TlbEntry := { part := 0, asid := 0, page := 0, bits := 30, leaf := 0x3f }

/-- Sixteen walks of other pages on die 0. -/
def walking : State := { unmapped with walks := List.replicate 16 { die := 0, part := 0, asid := 0, page := 5, done := 9 } }

theorem witness_ContextsMoveThroughImages_tlb :
    (there.src.pred 0 = true ∧ there.ready [srcA 1 true, srcB 2 true] [] false = true ∧ privGe there.me.status.priv .s = true ∧ there.me.front.wait = .none
      ∧ (there.rd 2).toNat < 4096 ∧ (there.rd 1).toNat < 2 ^ 48 ∧ (strand (at_ .u 0)).me.status.priv = .u ∧ (strand (at_ .u 0)).me.status.tl < 2)
    ∧ (let s := strand fun t => { t with front := { t.front with wait := .drain 4 [gonePage] } }; s.me.front.wait = .drain 4 [gonePage] ∧ s.drained 0 4 [gonePage] = true)
    ∧ (let s := (strand fun t => { t with front := { t.front with wait := .drain 4 [gonePage] }, pend := { t.pend with out := [{ tag := 3, reg := 3, kind := .load, seq := 0 }] } }); s.drained 0 4 [gonePage] = false)
    ∧ (plain.ready [srcA 1 true] [3] true = true ∧ (plain.core plain.myCore).tlb.find? (fun e => e.hits 0 plain.me.id.asid (plain.rd 1)) ≠ none)
    ∧ ((there.core there.myCore).tlb = [] ∧ (there.cluster 0).tlb = [] ∧ (match (there.walk there.myCore 0 there.me.id.asid (there.rd 1)).2.result with | .error r => r == 1 | .ok _ => false) = true
      ∧ there.walks = [] ∧ ({ there with arg := [0, strandKey 0 1 1, 3] } : State).arg = [0, strandKey 0 1 1, 3])
    ∧ (let mine := walking.walks.filter fun w => w.die == dieOf walking.myCore
       mine.find? (fun w => w.part == 0 && w.asid == 0 && w.page == (walking.rd 1).toNat / 65536) = none ∧ 16 ≤ mine.length ∧ walking.ready [srcA 1 true] [3] true = true)
    ∧ (let s := { unmapped with walks := [{ die := 0, part := 0, asid := 0, page := 0, done := 9 }] }; let mine := s.walks.filter fun w => w.die == dieOf s.myCore
       mine.find? (fun w => w.part == 0 && w.asid == 0 && w.page == (s.rd 1).toNat / 65536) = some { die := 0, part := 0, asid := 0, page := 0, done := 9 } ∧ mine.length < 16) := by decide +kernel

/-- A store through the dropped entry that its core still buffers; a strand that waits for a walk of the page. -/
theorem witness_ContextsMoveThroughImages_tlb_waits :
    (let e : SbEntry := { id := 3, part := 0, uid := strandKey 0 1 1, slot := 0, seq := 0, priv := .m, va := 16, pa := 16, target := .hbm 16, bytes := [1], strong := false, scope := .core, device := false }
     let s := (strand fun t => { t with front := { t.front with wait := .drain 4 [gonePage] } }).modCore 0 fun c => { c with sb := [e] }
     s.me.front.wait = .drain 4 [gonePage] ∧ ∃ c ∈ s.cores, ∃ x ∈ c.2.sb, x.part = s.me.id.part ∧ x.id < 4 ∧ ∃ y ∈ [gonePage], y.hits s.me.id.part (s.asidFor x.uid) x.va = true)
    ∧ (walking.walks.filter fun w => w.part == 0 && w.page * 65536 / 2 ^ 30 == 0).length = 16 := by decide +kernel

theorem witness_ContextsMoveThroughImages_tlb_checks :
    (let s := strand (regs [(1, 2 ^ 48), (2, 4096)]); s.me.front.wait = .none ∧ s.ready [srcA 1 true, srcB 2 true] [] false = true ∧ privGe s.me.status.priv .s = true
      ∧ 4096 ≤ (s.rd 2).toNat ∧ 2 ^ 48 ≤ (s.rd 1).toNat ∧ (s.rd 1).toNat < 2 ^ 63 ∧ s.me.status.tl < 2)
    ∧ (let s := strand (regs [(1, 2 ^ 63)]); 2 ^ 63 ≤ (s.rd 1).toNat)
    ∧ (let s := unmapped.modCluster 0 fun c => { c with tlb := [{ part := 0, asid := 0, page := 0, bits := 30, leaf := 0x3f }] }
       (s.core s.myCore).tlb.find? (fun e => e.hits 0 s.me.id.asid (s.rd 1)) = none ∧ ((s.cluster (clusterOf s.myCore)).tlb.find? (fun e => e.hits 0 s.me.id.asid (s.rd 1))).isSome = true)
    ∧ (let s := { unmapped with mem := tables }; (match (s.walk s.myCore 0 s.me.id.asid (s.rd 1)).2.result with | .ok p => p == (0x3f, 30) | .error _ => false) = true) := by decide +kernel

/-- R347, R348: an entry of the page goes; what a probe of the page of PAs 0 to 2^30 - 1 answers. -/
theorem test_tlb : runs (.tlbinv 1 0 false false 0 .page) plain (fun t => (t.core 0).tlb.isEmpty && t.flow == .held) = true
    ∧ delivers (.tlbprobe 3 1 false 0) plain = some (2 * 2 ^ 14 + 256 + 15 * 4 + 1) ∧ runs (.tlbWalk 0 0 0 .load) { there with arg := [0, strandKey 0 1 1, 5] } (fun t => t.agenda.any fun d => d.ev == .deliver (strandKey 0 1 1) 5 (.val 256)) = true := by decide +kernel

theorem witness_ContextsMoveThroughImages_instructions :
    (let s := imagedAs (tableEntry 2 1) fun c => { c with holder := some 0 }
     s.src.pred 0 = true ∧ s.ready [srcA 1 true] [3] true = true ∧ privGe s.me.status.priv .s = true ∧ imageOperand (s.rd 1) = true
      ∧ (match s.entryStatus 0 (s.entryNamed s.me.id.part (s.rd 1)) with | .ok p => p == (0, 0) | .error _ => false) = true ∧ (s.cluster 0).holder = some 0)
    ∧ (let s := imagedAs (tableEntry 2 1) fun c => { c with headed := [0] }; (s.cluster 0).holder ≠ some 0 ∧ 0 ∈ (s.cluster 0).headed)
    ∧ (let s := imagedAs (tableEntry 2 0) id; ((s.cluster 0).ctable.get 0 0).getLsbD 20 = false ∧ quietB s = true ∧ s.headerOk 0 0 = true ∧ s.imageNat (s.imageOf 0 0) 2 1 ≠ 0)
    ∧ (match (imagedAs (tableEntry 1 1) id).entryStatus 1 ((imagedAs (tableEntry 1 1) id).entryNamed 0 0x10000) with | .error n => n == 4 | .ok _ => false) = true
    ∧ (let s := strand (fun t => at_ .u 0 (regs [(1, 1)] t)); s.me.status.priv = .u ∧ s.me.status.tl < 2) ∧ imageOperand ((strand (regs [(1, 1)])).rd 1) = false
    ∧ ({ there with plat := { there.plat with drvfeat := 0 } } : State).feature 7 = false := by decide +kernel

/-- A descriptor at 0x2000 that unfolds the image of entry 0. -/
def folding : State :=
  let s := imagedAs (tableEntry 2 0) id
  { s with mem := s.mem.writeBytes 0x2000 (leBytes 8 0x10000) }

theorem witness_ContextsMoveThroughImages_foldset :
    (let s := folding
     s.feature 7 = true ∧ s.ready [srcA 2 true] [] false = true ∧ (s.rd 2).toNat % 8 = 0 ∧ (s.rd 2).toNat < 2 ^ 63 ∧ quietB s = true ∧ piecesOf (s.rd 2).toNat 200 = [((s.rd 2).toNat, 200)]
      ∧ (s.releaseMe .device).cmds = [] ∧ (s.releaseMe .device).partials = [] ∧ (s.releaseMe .device).melts = [] ∧ s.mem.wf = true
      ∧ meets (s.releaseMe .device) .load 1 (s.rd 2) = (some { pa := 0x2000, target := .hbm 0x2000, melt := false, device := false }, none)
      ∧ imageOperand (BitVec.ofNat 64 (leNat ((s.bytesAt 0x2000 200).take 8))) = true ∧ s.entryNamed 0 (BitVec.ofNat 64 (leNat ((s.bytesAt 0x2000 200).take 8))) = some (0, 0)
      ∧ s.foldAllowed 0 0 (descFold (s.bytesAt 0x2000 200)) = true) := by decide +kernel

/-- What neither cluster holds nor has saved; an image whose header is wrong. -/
theorem witness_ContextsMoveThroughImages_instructions_more :
    (let s := imagedAs (tableEntry 2 1) id
     (s.cluster 0).holder ≠ some 0 ∧ 0 ∉ (s.cluster 0).headed ∧ s.mem.wf = true ∧ ((s.cluster 0).ctable.get 0 0).getLsbD 20 = true)
    ∧ (let s := imagedAs (tableEntry 3 0) id; s.headerOk 0 0 = false ∧ ((s.cluster 0).ctable.get 0 0).getLsbD 20 = false ∧ quietB s = true ∧ s.me.status.tl < 2)
    ∧ (let s := { imagedAs (tableEntry 2 1) id with agenda := [{ due := 5, ev := .contextSave 0 0, arg := [3, 1] }] }
       s.entryNamed s.me.id.part (s.rd 1) = some (0, 0) ∧ s.entryKey 0 0 ≠ myContext s ∧ (s.cluster 0).saving ≠ some 0 ∧ ∃ x ∈ s.agenda, x.ev = .contextSave 0 0 ∧ x.arg = [3, 1])
    ∧ (let s := folding; s.mustWalk 1 (s.rd 2) = false ∧ (s.rd 2).toNat % 8 = 0)
    ∧ (let s := strand (regs [(2, 2 ^ 63 + 1)]); s.feature 7 = true ∧ (s.rd 2).toNat % 8 ≠ 0 ∧ s.ready [srcA 2 true] [] false = true) := by decide +kernel

theorem test_image_instructions : runs (.ctxsave 3 1 false 0) (imagedAs (tableEntry 2 1) fun c => { c with holder := some 0 }) (fun t => (t.cluster 0).saving == some 0) = true
    ∧ runs (.ctxload 3 1 false 0) (imagedAs (tableEntry 2 0) id) (fun t => (t.cluster 0).ctable == [(0, tableEntry 2 1)] && (t.cluster 0).imaged == [0]) = true
    ∧ trapped (.ctxload 3 2 false 0) (strand (regs [(2, 1)])) = some (3072 + 9 * 32 + 7, 1)
    ∧ runs (.foldset 2 false 0) folding (fun t => t.mem.readBytes (hbmKey 0 0x10000) 4 == [2, 0, 1, 0]) = true := by decide +kernel

/-- Cluster 0 saves entry 0, the context of the strand of slot 0. -/
def saving (arg : List Nat) : State :=
  let s := (imagedAs (tableEntry 1 1) fun c => { c with holder := some 0, saving := some 0 }).modSlot 0 fun t => { t with front := { t.front with wait := .none } }
  { s with arg := arg, mem := [] }

theorem witness_ContextsMoveThroughImages_save :
    (let s := saving [0, 5, 6]
     (s.cluster 0).saving = some 0 ∧ (s.context (s.entryKey 0 0)).dead = false ∧ s.arg = [0, 5, 6] ∧ (s.stopHolder 0 (s.entryKey 0 0)).saveReady 0 (s.entryKey 0 0) = true
      ∧ s.present 0 (s.entryKey 0 0) = [(0, 0)] ∧ s.slotsOf 0 (s.entryKey 0 0) = [0] ∧ (s.slot 0).phase = .live ∧ s.mem.wf = true)
    ∧ (let s := (saving [0, 5, 6]).modSlot 0 fun t => { t with pend := { t.pend with out := [{ tag := 3, reg := 3, kind := .load, seq := 0 }] } }
       (s.stopHolder 0 (s.entryKey 0 0)).saveReady 0 (s.entryKey 0 0) = false)
    ∧ (saving [1, 5, 6, 14, 1]).arg = [1, 5, 6, 14, 1] ∧ ((imagedAs (tableEntry 1 1) id).cluster 0).saving = none
    ∧ (let s := (saving [1, 5, 6]).modContext 1 fun c => { c with dead := true }
       (s.cluster 0).saving = some 0 ∧ (s.context (s.entryKey 0 0)).dead = true ∧ s.arg = [1, 5, 6] ∧ s.mem.wf = true) := by decide +kernel

/-- A context that has come to its end, with a command that runs and with none. -/
theorem witness_ContextsMoveThroughImages_ended :
    (let s := saving [2]
     let s := { (s.modCluster 0 fun c => { c with sliceEnd := 9 }).modContext 1 fun c => { c with live := 0 } with cmds := [(0, command (.vand 1 2 3 0 4 false) .running)] }
     (s.cluster 0).saving = some 0 ∧ s.arg = [2] ∧ (s.context (s.entryKey 0 0)).live = 0 ∧ s.commandsIn 0 (s.entryKey 0 0) = true ∧ s.now < (s.cluster 0).sliceEnd)
    ∧ (let s := ((saving [2]).modContext 1 fun c => { c with live := 0 }).modCore 0 fun c => { c with poolFor := some (1, 3) }
       (s.cluster 0).saving = some 0 ∧ s.arg = [2] ∧ (s.context (s.entryKey 0 0)).live = 0 ∧ s.commandsIn 0 (s.entryKey 0 0) = false ∧ (s.core 0).poolFor = some (s.entryKey 0 0, 3)) := by
  decide +kernel

theorem witness_ContextsMoveThroughImages_restore :
    (let s := imagedAs (tableEntry 2 1) fun c => { c with holder := some 0, saving := some 0 }
     (s.cluster 0).holder = some 0 ∧ (s.context (s.entryKey 0 0)).dead = false ∧ s.arg = [] ∧ (s.cluster 0).saving = some 0)
    ∧ (let s := { imagedAs (tableEntry 2 1) fun c => { c with holder := some 0, saving := some 0 } with arg := [1] }
       let key := s.imageOf 0 0; let l := s.bytesAt (key + sectionAt 0 + 2048 * 3) 2048
       s.arg = [1] ∧ (s.cluster 0).saving = some 0 ∧ tableRun ((s.cluster 0).ctable.get 0 0) = true ∧ s.imageNat key 2 1 = 1 ∧ s.imageNat key 3 1 = 0 ∧ s.imageNat key 0x18 8 = 0
        ∧ s.liveRecords key 0 = [3] ∧ (recWord l 0).toNat % 8 = 0 ∧ (recWord l 0).toNat < 2 ^ 63 ∧ s.cmds = [] ∧ s.cores.all (fun c => c.2.l1d.isEmpty) = true ∧ key + 0x10000000 < 2 ^ 60) := by
  decide +kernel

/-- R334, R335: a restore of one record and no pool block moves 8 + 4 + 2 KiB before its strand is there again. -/
theorem test_restore : runs (.contextRestore 0 0) (imagedAs (tableEntry 2 1) fun c => { c with holder := some 0, saving := some 0 })
      (fun t => t.agenda == [{ due := moveTime 14, ev := .contextRestore 0 0, arg := [1] }] && (t.cluster 0).saving == some 0) = true := by decide +kernel

/-- A strand of context 1, in slot 0, whose context has been bound to entry 0. -/
def boundTo : State := imagedAs (tableEntry 1 1) id

theorem witness_ContextsEndAndErrorsAreContained :
    (let s := boundTo; (s.context 1).kill = none ∧ (s.context 1).dead = false ∧ s.bound 0 1 = true ∧ s.bound 0 9 = false ∧ contextKey 0 1 = 1 ∧ (s.context 9).kill = none)
    ∧ (let r : KillRec := boundTo.killOf 0 7 8; let s := boundTo.modContext 1 fun c => { c with kill := some r }; (s.context 1).kill = some r ∧ s.ccbWord 0 1 80 = 0 ∧ s.mem.wf = true)
    ∧ tableZero (tableEntry 1 1) = true ∧ tableZero (tableEntry 1 1 ||| BitVec.ofNat 256 (2 ^ 21)) = false
    ∧ (let s := boundTo; let room := (s.part ((s.ownerOf 0).getD 0)).capacity
       (s.cluster 0).saving ≠ some 0 ∧ (s.cluster 0).holder ≠ some 0 ∧ tableWeight (tableEntry 1 1) ≠ 0 ∧ tableImage (tableEntry 1 1) + 0x1382000 ≤ room
        ∧ tableCcb (tableEntry 1 1) + 256 ≤ room ∧ ¬(tableImage (tableEntry 1 1 ||| BitVec.ofNat 256 (2 ^ 176)) + 0x1382000 ≤ room))
    ∧ (let s := imagedAs (tableEntry 2 1) fun c => { c with holder := some 0 }
       (s.cluster 0).holder = some 0 ∧ (s.cluster 0).saving = none ∧ s.imageNat (s.imageOf 0 0) 0x28 8 = 0 ∧ s.imageNat (s.imageOf 0 0) 0x18 8 = 0)
    ∧ (let s := imagedAs (tableEntry 2 1) fun c => { c with holder := some 0 }
       ({ s with mem := s.mem.writeBytes (hbmKey 0 0x10028) [1] } : State).imageNat (s.imageOf 0 0) 0x28 8 ≠ 0)
    ∧ (boundTo.slotOf (strandKey 0 1 1) = some 0 ∧ (1 ≤ 7 ∧ 7 < 8) ∧ strandKey 0 1 1 / 2 ^ 32 = 1 ∧ ({ there with arg := [3] } : State).arg = [3]) := by decide +kernel

theorem test_context_end : runs (.ctxkill 0 1) boundTo (fun t => (t.context 1).dead && (t.slot 0).phase == .free && ((t.context 1).kill.any fun r => r.reason == 2)) = true
    ∧ runs (.killComplete 0 1) (boundTo.modContext 1 fun c => { c with kill := some (boundTo.killOf 0 7 8) }) (fun t => t.ccbWord 0 1 128 == 16384 + 7 && t.ccbWord 0 1 152 == 8) = true
    ∧ runs (.contextTableWrite 0 0 (tableEntry 3 0)) boundTo (fun t => (t.cluster 0).ctable == [(0, tableEntry 3 0)]) = true
    ∧ runs .eccCorrected { there with arg := [3] } (fun t => t.plat.cecount == 3) = true
    ∧ runs (.uncorrectableError 1 0 (strandKey 0 1 1) 7 64) boundTo (fun t => (t.me.regs.get 7).poison && t.plat.cecount == 2 ^ 32) = true := by decide +kernel

-- ==== partitions, the host and the platform ====

/-- The partition of the strand as `f` changes it, with nothing else of it in the machine's slots. -/
def paged (f : Partition → Partition) : State := there.modPart 0 fun p => f { p with done := true }

/-- A partition page that QNEW makes a good new set of quanta for. -/
def fit (st : PState) (q : BitVec 64) : State := paged fun p => { p with state := st, qnew := q }

def badQuanta (s : State) (part : Nat) : Bool :=
  let p := s.part part
  p.qnew == 0 || (s.parts.any fun x => x.1 != part && x.2.quanta &&& p.qnew != 0) || p.qnew &&& s.plat.disabled != 0

def leavingTable (s : State) : Bool :=
  let p := s.part 0
  (List.range 64).any fun q => p.quanta.getLsbD q && !p.qnew.getLsbD q && (List.range 16).any fun e => tableWeight ((s.cluster q).ctable.get 0 e) != 0

theorem witness_PartitionsAreCommanded :
    ((paged fun p => { p with done := false }).part 0).done = false ∧ ((fit .stopped 1).part 0).done = true ∧ ((fit .stopped 1).part 0).state ≠ .free ∧ ((fit .free 1).part 0).state ≠ .stopped
    ∧ (let s := fit .free 0; (s.part 0).state = .free ∧ s.feature 0 = true ∧ s.plat.recovery = false ∧ badQuanta s 0 = true) ∧ badQuanta (fit .free 3) 0 = false
    ∧ (let s := fit .running 2; (s.part 0).state = .running ∧ badQuanta s 0 = false ∧ (s.part 0).qnew &&& (s.part 0).quanta = 0)
    ∧ (let s := fit .stopped 3; (s.part 0).state = .stopped ∧ badQuanta s 0 = false ∧ (s.part 0).qnew &&& (s.part 0).quanta ≠ 0 ∧ leavingTable s = false)
    ∧ (let s := ((fit .stopped 1).modPart 0 fun p => { p with quanta := 3 }).modCluster 1 fun c => { c with ctable := [(2, tableEntry 2 0)] }
       (s.part 0).quanta.getLsbD 1 = true ∧ (s.part 0).qnew.getLsbD 1 = false ∧ tableWeight ((s.cluster 1).ctable.get 0 2) ≠ 0 ∧ badQuanta s 0 = false ∧ (s.part 0).qnew &&& (s.part 0).quanta ≠ 0)
    ∧ (let s := fit .stopped 3; s.partials = [] ∧ s.melts = [] ∧ s.cores.all (fun c => c.2.l1d.isEmpty) = true) := by decide +kernel

theorem test_pctl : runs (.create 3) (there.modPart 3 fun p => { p with qnew := 6, done := true }) (fun t => (t.part 3).state == .stopped && (t.part 3).quanta == 6 && (t.part 3).smgen == 1 && !(t.part 3).done) = true
    ∧ runs (.create 0) (fit .stopped 2) (fun t => (t.part 0).result == 2) = true ∧ runs (.resize 0) (fit .running 2) (fun t => (t.part 0).result == 3) = true
    ∧ runs (.start 0) (fit .stopped 0) (fun t => (t.part 0).state == .running) = true ∧ runs (.stop 0) (fit .running 0) (fun t => (t.part 0).cmd == 3 && !(t.part 0).done) = true
    ∧ runs (.reset 0) (fit .stopped 0) (fun t => (t.part 0).state == .resetting && (t.part 0).quanta == 1 && t.slots.isEmpty) = true
    ∧ runs (.destroy 0) (fit .stopped 0) (fun t => (t.part 0).back == .free) = true := by decide +kernel

theorem witness_PartitionsAreCommanded_ends :
    (let ends := fun (n : BitVec 4) => paged fun p => { p with done := false, cmd := n }
     ((ends 1).part 0).cmd = 1 ∧ ((ends 3).part 0).cmd = 3 ∧ (ends 3).stillStopping 0 = false ∧ ((ends 4).part 0).cmd = 4 ∧ ((ends 6).part 0).cmd = 6 ∧ ((ends 6).part 0).done = false)
    ∧ ((0 < 64 ∧ 31 < 32 ∧ 63 < 64) ∧ (1 ≠ 0 ∧ 0xfff8 % 8 = 0))
    ∧ (let s := { there with arg := [3] }; s.arg = [3] ∧ 3 < 4 ∧ 3 ∉ s.plat.lostPairs) ∧ 3 ∈ ({ there with plat := { there.plat with lostPairs := [3] } } : State).plat.lostPairs := by decide +kernel

/-- A STOP that is not at its end, and a host write that meets a melt granule. -/
theorem witness_PartitionsAreCommanded_stopping :
    (let s := (paged fun p => { p with done := false, cmd := 3 }).modCluster 0 fun c => { c with saving := some 0 }; (s.part 0).cmd = 3 ∧ (s.part 0).done = false ∧ s.stillStopping 0 = true)
    ∧ (let s : State := { there with melts := [granule true 1] }; (s.meltAt (hbmKey 0 2050) 2).isSome = true)
    ∧ (there.core deviceCore).l1d = [] ∧ there.cores.all (fun c => c.2.atomics.isEmpty) = true ∧ there.mem.wf = true := by decide +kernel

theorem test_partition_ends : runs (.pctlCommandDone 0) (paged fun p => { p with done := false, cmd := 6, back := .free }) (fun t => (t.part 0).state == .free && (t.part 0).quanta == 0 && (t.part 0).done) = true
    ∧ runs (.controlRegisterWrite 0 .m (0x1f0000000000 + 0x18) 8 5) there (fun t => (t.part 0).qnew == 5) = true
    ∧ runs (.controlRegisterWrite 0 .s (0x1f0000000000 + 0x18) 8 5) there (fun t => (t.part 0).qnew == (there.part 0).qnew) = true
    ∧ runs .dieLinkLoss { there with arg := [3] } (fun t => t.plat.linkev == 1 && t.plat.lostPairs == [3]) = true := by decide +kernel

/-- A record of the host for home (2, 3), of LEN 1 and a payload at 0x8000. -/
def hostRecord : List Byte := leBytes 4 2 ++ leBytes 4 3 ++ leBytes 4 4 ++ leBytes 4 5 ++ leBytes 2 1 ++ leBytes 6 0 ++ leBytes 8 0x8000 ++ leBytes 8 9 ++ leBytes 24 0

/-- Does a record of the host have the form, the zeros and the place that R373 asks for? -/
def recordChecks (s : State) (addr : Nat) (l : List Byte) : Bool × Bool × Bool :=
  let len := structNat l 16 2
  let pa := structNat l 24 8
  (l.length == 64 && addr % 64 == 0, decide (len ≤ 1024) && structNat l 18 6 == 0 && structNat l 40 24 == 0, pa % 64 == 0 && s.windowOk 0 pa (64 * len))

theorem witness_HostReachesMemory_writes :
    (let s := paged fun p => { p with fheap := BitVec.ofNat 64 (4 * 65536 + 2) }; let p := s.part 0; let base := p.fheap.toNat / 2 ^ 16 % 2 ^ 33 * 65536; let top := base + p.fheap.toNat % 2 ^ 16 * 65536
     base = 0x40000 ∧ top = 0x60000 ∧ ([1, 2] : List Byte).length = 2 ∧ top + 2 ≤ p.capacity ∧ ¬(base - 1 + 2 ≤ base ∨ top ≤ base - 1 ∨ base = top) ∧ s.melts = [] ∧ s.partials = [] ∧ s.mem.wf = true ∧ s.arg = []
      ∧ p.capacity < p.capacity + 2 ∧ ({ s with arg := [1, 4] } : State).arg = [1, 4])
    ∧ (let s := { (paged fun p => { p with hostOpen := [(1, 4)] }) with melts := [granule true 1], arg := [1, 4] }; (s.meltAt (hbmKey 0 2050) 2).isSome = true ∧ s.arg = [1, 4]
       ∧ 2050 + 2 ≤ (s.part 0).capacity)
    ∧ (let s := paged fun p => { p with hostq := [(0, [.hostOrderedWrite 0 0 false 5 [1]])] }; s.arg = [] ∧ (s.part 0).hostq.get [] 0 ≠ [] ∧ (s.part 0).hostq.get [] 1 = []) := by decide +kernel

theorem witness_HostReachesMemory_records :
    (let s := fit .running 1
     recordChecks s 64 hostRecord = (true, true, true) ∧ s.arg = [] ∧ (s.part 0).records < 256 ∧ (s.part 0).state = .running ∧ s.partials = [] ∧ s.melts = [] ∧ (s.homeFor 0 2 3).device = s.plat.device)
    ∧ (recordChecks there 32 hostRecord).1 = false ∧ (recordChecks there 64 (hostRecord.take 63 ++ [1])).2.1 = false ∧ (recordChecks there 64 ((hostRecord.take 24 ++ leBytes 8 0x8001) ++ hostRecord.drop 32)).2.2 = false
    ∧ 256 ≤ ((paged fun p => { p with records := 256 }).part 0).records ∧ ((fit .stopped 1).part 0).state ≠ .running ∧ ((fit .stopped 1).part 0).state ≠ .resizing
    ∧ (let s := (fit .running 1).modPart 0 fun p => { p with hostq := [(0, [.hostDepositRecord 0 0 false 64 hostRecord])] }
       (s.part 0).hostq.get [] 0 = [.hostDepositRecord 0 0 false 64 hostRecord] ∧ ({ s with arg := [2] } : State).arg = [2])
    ∧ ((fit .running 1).part 0).hostq.get [] 0 = [] ∧ (let s := (fit .resizing 1).modPart 0 fun p => { p with back := .running }; (s.part 0).state = .resizing ∧ (s.part 0).back = .running) := by decide +kernel

theorem witness_HostReachesMemory_reads :
    (there.windowOk 0 (there.part 0).capacity 8 = false ∧ there.windowOk 0 0x8000 64 = true ∧ there.melts = [] ∧ there.partials = [] ∧ there.arg = [] ∧ (there.part 0).hostOpen = []
      ∧ (there.core deviceCore).l1d = [])
    ∧ (let s := paged fun p => { p with hostOpen := [(1, 3)] }; ∃ w ∈ (s.part 0).hostOpen, w.1 = 1 ∧ w.2 < 9)
    ∧ (let s := paged fun p => { p with hostq := [(1, [.hostOrderedWrite 0 1 false 5 [1]])] }; (s.part 0).hostq.get [] 1 ≠ [] ∧ s.arg = [] ∧ (s.part 0).hostq.get [] 0 = [])
    ∧ ({ there with arg := [9] } : State).arg = [9]
    ∧ (let s := paged fun p => { p with hdm := 3 }; let v := (s.part 0).hdm.toNat; v % 2 = 1 ∧ v / 2 ^ 30 % 2 ^ 19 * 2 ^ 30 = 0 ∧ v / 2 % 2 ^ 15 * 2 ^ 30 = 2 ^ 30 ∧ s.mem.wf = true ∧ s.melts = [] ∧ s.partials = [])
    ∧ (there.part 0).hdm.toNat % 2 = 0 ∧ (List.replicate 64 (0 : Byte)).length = 64 := by decide +kernel

theorem test_host : runs (.hostOrderedWrite 0 0 false 5 [1, 2]) there (fun t => t.mem == [(5, 1), (6, 2)]) = true
    ∧ runs (.hostBulkWrite 0 1 5 [1, 2]) { there with arg := [1, 4] } (fun t => t.mem == [(5, 1), (6, 2)] && (t.part 0).bulks == [(1, 1)]) = true
    ∧ runs (.hostDepositRecord 0 0 true 64 hostRecord) there (fun t => (t.part 0).rodep == 1 && (t.part 0).hostOpen.length == 1 && t.agenda.length == 1) = true
    ∧ runs (.hostDepositRecord 0 0 false 32 hostRecord) there (fun t => (t.part 0).hdeperr == 0x100000001) = true
    ∧ runs (.hostWindowRead 0 0 1 16 2) plain (fun t => t.host == [{ part := 0, port := 0, bar := 1, addr := 16, data := some [1, 2] }]) = true
    ∧ runs (.bulksync 0 1) there (fun t => t.host == [{ part := 0, port := 1, bar := 0, addr := 0x10018, data := some (leBytes 8 0) }]) = true
    ∧ runs (.cxlMemAccess 0 true 7 1 [3]) (paged fun p => { p with hdm := 3 }) (fun t => t.mem == [(7, 3)]) = true
    ∧ runs (.cxlSnoop 0 1 (3 :: List.replicate 63 0)) there (fun t => t.mem == [(hostKey 0 64, 3)]) = true := by decide +kernel

/-- A host write to a home that a granule holds waits with the port; writes that a resize and the state of a command refuse. -/
theorem test_host_waits : runs (.hostOrderedWrite 0 0 false 5 [1]) (paged fun p => { p with hostq := [(0, [.hostDepositRecord 0 0 false 64 hostRecord])] })
      (fun t => t.mem.isEmpty && ((t.part 0).hostq.get [] 0).length == 2) = true
    ∧ runs (.controlRegisterWrite 0 .m (0x1f0000000000 + 0x10) 8 9) (paged fun p => { p with done := false, cmd := 3 }) (fun t => (t.part 0).cmd == 3 && (t.part 0).result == 1) = true
    ∧ runs (.controlRegisterWrite 0 .m (0x1f0000000000 + 0x10) 8 9) (paged id) (fun t => (t.part 0).cmd == 9 && (t.part 0).result == 2) = true := by decide +kernel

/-- The nonce of partition 0, and a request that is under way. -/
def attesting (n : Nat) : State := { paged fun p => { p with nonce := List.replicate 32 7, attest := n, report := List.replicate 32 8 } with arg := [0] }

/-- The device after its boot, its mailbox open, with what a step has fixed. -/
def opened (l : List Nat) : State := { there with parts := [], plat := { there.plat with mailbox := true }, arg := l }

theorem witness_PlatformActs :
    (let s := attesting 1; s.arg = [0] ∧ (s.part 0).attest = 1 ∧ (s.part 0).nonce.length = 32 ∧ (s.part 0).report.length = 32) ∧ ((attesting 0).part 0).attest ≠ 1
    ∧ (({ there with arg := [1] } : State).arg = [1] ∧ ({ there with arg := [1, 3] } : State).arg = [1, 3] ∧ ({ there with arg := [0, 3] } : State).arg = [0, 3])
    ∧ (1 ≤ 65535 ∧ 65535 < 65536 ∧ 2 ^ 64 - 1 < 2 ^ 64 ∧ there.plat.throttle.toNat < 65536 ∧ there.plat.plimit.toNat = 2600000)
    ∧ (let s := attesting 1; ((s.modPart 0 fun p => { p with nonce := [] }).part 0).nonce = [])
    ∧ (let s := opened [2, 1]; s.plat.mailbox = true ∧ s.arg = [2, 1] ∧ (BitVec.ofNat 64 1 : Word) &&& ~~~s.plat.devfeat = 0 ∧ bitsOf (BitVec.ofNat 64 1) 9 55 = 0 ∧ s.parts = [])
    ∧ (let s := { (fit .running 1) with arg := [2, 1] }; ∃ p ∈ s.parts, p.2.state ≠ .free ∨ p.2.done = false)
    ∧ (bitsOf (BitVec.ofNat 64 512) 9 55 ≠ 0 ∧ (opened [1, 9, 1]).arg = [1, 9, 1] ∧ (opened [1, 9, 0]).arg = [1, 9, 0] ∧ (opened [0, 9]).arg = 0 :: [9] ∧ (opened [3]).arg = [3]
      ∧ ({ opened [1, 9] with plat := { there.plat with mailbox := false } } : State).plat.mailbox = false)
    ∧ (({ there with plat := { there.plat with poweredOff := true } } : State).plat.poweredOff = true ∧ there.plat.poweredOff = false ∧ there.plat.recovery = false
      ∧ ({ there with plat := { there.plat with recovery := true } } : State).plat.recovery = true)
    ∧ (let s := paged fun p => { p with state := .running, done := false, cmd := 4 }; (s.part 0).done = false ∧ ({ s with arg := [0, 0 + 1] } : State).arg = [0, 0 + 1] ∧ ((fit .running 1).part 0).done = true)
    ∧ (839 < 840 ∧ 840 ≤ 840 ∧ 919 < 920 ∧ 920 ≤ 920 ∧ (there.parts.any fun x => x.2.state == .running) = true) := by decide +kernel

theorem test_platform : runs .attestRequest (attesting 2) (fun t => (t.part 0).attest == 1 && (t.part 0).report == List.replicate 32 7) = true
    ∧ runs .attestReady (attesting 1) (fun t => (t.part 0).attest == 2) = true
    ∧ runs .throttle { there with arg := [2600001, 3] } (fun t => t.plat.throttle == 3 && t.plat.power == 2600001) = true
    ∧ runs .thermalStop { there with arg := [840] } (fun t => t.agenda == [{ due := 0, ev := .stop 0, arg := [] }]) = true
    ∧ runs .thermalPowerOff { there with arg := [920] } (fun t => t.plat.poweredOff) = true ∧ runs .thermalPowerOff { there with arg := [919] } (fun t => !t.plat.poweredOff) = true
    ∧ runs .deviceReset { there with plat := { there.plat with flash := none } } (fun t => t.parts.isEmpty && t.plat.recovery && t.plat.drvfeat == 0) = true
    ∧ runs .deviceReset { there with plat := { there.plat with flash := some 9 } } (fun t => !t.plat.recovery && t.plat.image == 9 && t.plat.mailbox) = true
    ∧ runs .firmwareUpdate (opened [1, 9]) (fun t => t.plat.flash == some 9) = true
    ∧ runs .firmwareUpdate (opened [1, 9, 1]) (fun t => t.plat.flash == none) = true ∧ runs .firmwareUpdate (opened [2, 1]) (fun t => t.plat.drvfeat == 1) = true
    ∧ runs .firmwareUpdate { (fit .running 1) with arg := [2, 1], plat := { there.plat with mailbox := true } } (fun t => t.plat.drvfeat == there.plat.drvfeat) = true
    ∧ runs .thermalStop { (paged fun p => { p with state := .running, done := false }) with arg := [840] } (fun t => t.agenda == [{ due := 64, ev := .thermalStop, arg := [0, 1] }]) = true
    ∧ (let s : State := { there with plat := { there.plat with recovery := true } }; s.works .firmwareUpdate = true ∧ s.works (.create 0) = false ∧ s.works (.thermalStop) = true)
    ∧ runs .cecountClear (({ there with plat := { there.plat with cecount := 5 } } : State)) (fun t => t.plat.cecount == 0) = true := by decide +kernel

-- ==== the fabric ====

/-- The own group has a route (R381), so that device 1 is one hop away. -/
def wired (s : State) : State := { s with fab := { s.fab with routes := [(0, 2 ^ 63)] } }

/-- The page of `plain`, of device 1, and its reserved PAs. -/
def faraway : State := wired (mapped (BitVec.ofNat 64 (0x3f + 2 ^ 49)) (regs [(1, 16), (2, 0x8877)]))

/-- A request that is on its way for the strand, and one of its stores that waits for its turn. -/
def pending (f : Flit) (kind : Nat) : Unacked :=
  { flit := { f with size := 8, part := 0 }, uid := strandKey 0 1 1, tag := 0, tval := 16, kind := kind, sent := 0, since := 0, acked := false, out := true, strong := false, device := false,
    via := 0, first := 0 }

/-- A buffered store of 8 bytes of device 1. -/
def remoteBuffer (s : State) : State :=
  let e : SbEntry := { id := 7, uid := strandKey 0 1 1, slot := 0, seq := 0, part := 0, priv := .m, va := 16, pa := BitVec.ofNat 64 (2 ^ 49 + 16), target := .remote 1 16, bytes := List.replicate 8 0xee,
                       strong := true, device := false, scope := .device }
  s.modCore 0 fun c => { c with sb := [e] }

theorem witness_RemoteRequestsAreSent :
    (let s := faraway
     s.cmds = [] ∧ s.src.pred 0 = true ∧ s.windowOpen s.myCore 1 = true ∧ s.ready [srcA 1 true] [3] true = true ∧ s.ready [srcA 1 true, srcD 2 true] [] false = true
      ∧ s.ready [srcA 1 true, srcB 2 true] [3] true = true ∧ s.ready [srcA 1 true, srcB 2 true, srcPlain 3] [3] true = true ∧ s.ready [srcA 1 true, srcB 2 true] [] false = true
      ∧ meets s .load 8 (cmAddress (s.rd 1) 0 8) = (some { pa := BitVec.ofNat 64 (2 ^ 49 + 16), target := .remote 1 16, melt := false, device := false }, none)
      ∧ meets s .store 8 (s.rd 1) = (some { pa := BitVec.ofNat 64 (2 ^ 49 + 16), target := .remote 1 16, melt := false, device := false }, none)
      ∧ meets s .rmw 4 (s.rd 1) = (some { pa := BitVec.ofNat 64 (2 ^ 49 + 16), target := .remote 1 16, melt := false, device := false }, none)
      ∧ s.routeTo 1 0 none = some (0, [1]) ∧ s.routeTo 1 2 none = some (0, [1]) ∧ s.storesHeld s.myCore < 32 ∧ s.allPerformed false .system = true ∧ s.atomicsHeld s.myCore < 32
      ∧ (s.rd 1).toNat / 2 ^ 32 ≠ 0xffffffff ∧ s.feature 3 = true ∧ s.mustWalk 8 (s.rd 1) = false ∧ s.remoteStores s.myCore 1 16 8 = [] ∧ s.partials = [] ∧ s.melts = []
      ∧ s.replicas = [] ∧ s.badBytes = [] ∧ (s.core s.myCore).sb = [] ∧ s.cores.all (fun c => c.2.l1d.isEmpty && c.2.atomics.isEmpty) = true)
    ∧ (let s := remoteBuffer faraway; (s.core 0).sb.length = 1 ∧ (s.core 0).sb.all (fun e => e.id == 7 && e.target == .remote 1 16 && !s.storeHeld 0 e) = true ∧ s.routeTo 1 2 none = some (0, [1]))
    ∧ (remoteBuffer plain).routeTo 1 2 none = none
    ∧ (let u := pending (blankFlit .store 1 2 0) 0
       (faraway.modCore 0 fun c => { c with unacked := List.replicate 256 u }).windowOpen 0 1 = false)
    ∧ (mapped (BitVec.ofNat 64 (0x3f + 2 ^ 49)) id).routeTo 1 0 none = none
    ∧ (let s := plain; s.feature 3 = true ∧ meets s .store 8 (s.rd 1) = (some { pa := 16, target := .hbm 16, melt := false, device := false }, none) ∧ quietB s = true ∧ 5 ≤ Scope.group.code
        ∧ s.remoteOpen s.myCore s.me.id.uid = false ∧ s.ready [srcA 1 true, srcB 2 true] [3] true = true)
    ∧ ({ there with plat := { there.plat with drvfeat := 0 } } : State).feature 3 = false ∧ there.me.status.tl < 2 := by decide +kernel

/-- An access to a page of TYPE 01 behind an earlier one at another device; a load that own stores hold in part or whole; a full store buffer; a strong store
that follows one to another device. -/
theorem witness_RemoteRequestsAreSent_order :
    (let s := (wired (mapped (BitVec.ofNat 64 (0x3f + 2 ^ 8 + 2 ^ 49)) (regs [(1, 16), (2, 0x8877)]))).modCore 0 fun c => { c with unacked := [{ pending (blankFlit .store 2 0 0) 1 with device := true }] }
     meets s .load 8 (s.rd 1) = (some { pa := BitVec.ofNat 64 (2 ^ 49 + 16), target := .remote 1 16, melt := false, device := true }, none) ∧ s.deviceOpen (some 1) = true ∧ s.deviceOpen (some 2) = false)
    ∧ (let f := { blankFlit .store 1 0 16 with data := List.replicate 8 9 }; let s := faraway.modCore 0 fun c => { c with unacked := [pending f 1] }
       s.remoteStores s.myCore 1 16 8 = [] ++ [(16, List.replicate 8 9)] ∧ (16 ≤ 16 ∧ 16 + 8 ≤ 16 + 8) ∧ s.remoteStores s.myCore 1 12 8 = [] ++ [(16, List.replicate 8 9)] ∧ ¬(16 ≤ 12)
        ∧ s.deviceOpen (some 1) = false ∧ s.remoteOpen s.myCore s.me.id.uid = true ∧ s.allPerformed false .system = false)
    ∧ (let f := blankFlit .store 2 0 16; let s := faraway.modCore 0 fun c => { c with unacked := [pending f 1] }
       ∃ y ∈ (s.core s.myCore).unacked, y.flit.kind = .store ∧ y.acked = false ∧ y.uid = s.me.id.uid ∧ y.flit.dst ≠ 1)
    ∧ (let e := fun n => ({ id := n, uid := strandKey 0 1 1, slot := 0, seq := 0, part := 0, priv := .m, va := 0, pa := 0, target := .hbm 0, bytes := [1], strong := false, device := false, scope := .core } : SbEntry)
       32 ≤ (faraway.modCore 0 fun c => { c with sb := (List.range 32).map e }).storesHeld 0)
    ∧ (∀ x ∈ (faraway.core faraway.myCore).unacked, (x.out = true ∨ x.acked = true) ∧ x.since < faraway.nextTag) := by decide +kernel

/-- Routes within the own group and to others, in each MODE, links up and down. -/
theorem witness_RemoteRequestsAreSent_routes :
    (let s := wired there; (s.fab.routes.get 0 0).getLsbD 63 = true ∧ s.plat.device = 0 ∧ s.fab.llink = 0 ∧ s.fab.downs = [] ∧ s.fab.waiting = [])
    ∧ (let s := wired there; let s := { s with fab := { s.fab with llink := 1 } }; s.fab.llink.getLsbD 0 = true ∧ s.fab.llink.getLsbD 1 = false ∧ s.routeTo 1 0 none = some (1, [2, 1]))
    ∧ (let s := { there with fab := { there.fab with routes := [(0, 2 ^ 63), (1, 2 ^ 63 + 2 ^ 62 + 5), (5, 2 ^ 63)] } }; let e := s.fab.routes.get 0 1
       e.toNat / 2 ^ 61 % 4 = 2 ∧ e.toNat % 1024 = 5 ∧ (s.fab.routes.get 0 5).getLsbD 63 = true ∧ (s.fab.routes.get 0 5).getLsbD 60 = false ∧ s.routeTo 33 0 none = some (1, [160, 32, 33]))
    ∧ (let s := { there with fab := { there.fab with routes := [(1, 2 ^ 63 + 2 ^ 61 + 2 ^ 60 + 5), (5, 2 ^ 63)] } }; let e := s.fab.routes.get 0 1; e.toNat / 2 ^ 61 % 4 = 1 ∧ e.getLsbD 60 = true ∧ (s.routeTo 33 0 none).map (·.1) = some 1)
    ∧ (let s := { there with fab := { there.fab with routes := [(1, 2 ^ 63)] } }; s.routeTo 33 0 none = some (0, [32, 33]))
    ∧ (2 ^ 63 + 3 * 2 ^ 61 : Nat) / 2 ^ 61 % 4 = 3 := by decide +kernel

/-- R387: a load of another device's memory sends no byte and waits; a store leaves the buffer with its bytes. -/
theorem test_remote : runs (.ld 3 1 0 false true .w) faraway (fun t => ((t.core 0).unacked.map fun u => (u.flit.kind, u.flit.addr.toNat, u.flit.size, u.kind)) == [(.load, 16, 4, 0)] && (t.me.reg 3).mark == .pending) = true
    ∧ runs (.storePerform 0 7) (remoteBuffer faraway) (fun t => ((t.core 0).unacked.map fun u => (u.flit.kind, u.flit.data, u.kind)) == [(.store, List.replicate 8 0xee, 1)] && (t.core 0).seqs == [(1, 1)]) = true
    ∧ runs (.ffence 3 1 2 false false 0 .system) faraway (fun t => ((t.core 0).unacked.map fun u => (u.flit.kind, u.kind)) == [(.ffence, 3)]) = true
    ∧ runs (.amoAdd 3 1 2 false false 0 .w .system) faraway (fun t => ((t.core 0).unacked.map fun u => (u.flit.rmw, u.kind)) == [(some (.amo .add), 2)]) = true := by decide +kernel

/-- A request of core 4 of device 1 on the 8 bytes at 16 of partition 0. -/
def asked (kind : FlitKind) (seq : Nat) : Flit :=
  { blankFlit kind 0 0 16 with src := 1, core := 4, seq := BitVec.ofNat 16 seq, size := 8, data := List.replicate 8 9, value := 2, rmw := some (.amo .add) }

/-- This device, which admits group 0, in a state of the partition. -/
def serving (st : PState) (f : State → State) : State := f ((wired plain).modPart 0 fun p => { p with state := st, fadmit := [(0, 1)] })

theorem witness_FabricServesAndFails_requests :
    (let s := serving .running id; let f := asked .load 0; let x := s.source (sourceKey f)
     s.arg = [] ∧ isRequest f.kind = true ∧ laterEpoch x.epoch f.epoch = false ∧ f.epoch = x.epoch ∧ x.kept.find? (fun p => p.1 == f.seq) = none ∧ f.seq = x.next ∧ x.held = []
      ∧ s.admits f.part f.src = true ∧ (s.part f.part).state = .running ∧ s.servedTarget f = some (.hbm 16) ∧ s.melts = [] ∧ s.partials = [] ∧ s.badBytes = [] ∧ s.mem.wf = true
      ∧ f.size = 8 ∧ f.data.length = f.size ∧ f.rmw = some (.amo .add) ∧ s.routeTo f.src 1 none = some (0, [1]))
    ∧ (let s := serving .running id; ((asked .load 255).seq - (s.source (sourceKey (asked .load 255))).next).toNat < 256 ∧ 256 ≤ ((asked .load 256).seq - (s.source (sourceKey (asked .load 256))).next).toNat)
    ∧ (let f := asked .load 0; let s := serving .running fun s => s.setSource (sourceKey f) { FabSource.blank with epoch := 1 }; laterEpoch (s.source (sourceKey f)).epoch f.epoch = true)
    ∧ (let f := asked .load 0; let g := asked .response 0; let s := serving .running fun s => s.setSource (sourceKey f) { FabSource.blank with next := 1, kept := [(0, g)] }
       (s.source (sourceKey f)).kept.find? (fun p => p.1 == f.seq) = some (f.seq, g) ∧ f.epoch = (s.source (sourceKey f)).epoch)
    ∧ plain.admits 0 1 = false ∧ ((serving .stopped id).part 0).state = .stopped := by decide +kernel

/-- Fetches, plain and consuming, and what answers when two requests of a core are open. -/
theorem witness_FabricServesAndFails_more :
    (let f := asked .fetch 0; let s := serving .running id; let x := s.source (sourceKey f)
     f.kind = .fetch ∧ f.value.getLsbD 0 = false ∧ ({ f with value := 3 } : Flit).value.getLsbD 0 = true ∧ (∀ e ∈ x.snaps, e.1 ≠ 1) ∧ s.fab.sources = [] ∧ s.servedTarget f = some (.hbm 16))
    ∧ (let u := pending (blankFlit .store 1 0 16) 1; let y := { pending (blankFlit .store 1 0 32) 1 with out := false, strong := true, since := 1 }
       let s := (wired there).modCore 0 fun c => { c with unacked := [u, y] }
       (s.core 0).unacked = [u, y] ∧ s.answeredBy { blankFlit .acknowledge 0 0 0 with src := 1 } = some u ∧ u ≠ y ∧ u.uid ≠ 0 ∧ s.routeTo 1 0 none = some (0, [1])
        ∧ (∀ e ∈ (s.core 0).sb, e.id < s.nextTag)) := by decide +kernel

theorem test_requests : runs (.fabricRequest (asked .store 0)) (serving .running id) (fun t => t.mem.readBytes 16 8 == List.replicate 8 9 && (t.fab.sent.map fun o => o.flit.kind) == [.acknowledge]) = true
    ∧ runs (.fabricRequest (asked .load 0)) (serving .running id) (fun t => (t.fab.sent.map fun o => o.flit.data) == [[1, 2, 3, 4, 5, 6, 7, 8]]) = true
    ∧ runs (.fabricRequest (asked .load 0)) plain (fun t => ((t.source (sourceKey (asked .load 0))).kept.map fun p => (p.2.kind, p.2.value)) == [(.refusal, 2)]) = true := by decide +kernel

/-- A request of the strand of slot 0 that device 1 has not answered, for s3. -/
def waitingFor (kind : FlitKind) (k : Nat) (f : State → State) : State :=
  let u := pending (blankFlit kind 1 0 16) k
  let u := { u with flit := { u.flit with size := 4, src := 0 }, tag := 5 }
  f ((wired (strand fun t => { t with pend := { t.pend with out := [{ tag := 5, reg := 3, kind := .load, seq := 0 }] } })).modCore 0 fun c => { c with unacked := [u] })

def answer (kind : FlitKind) : Flit := { blankFlit kind 0 0 16 with src := 1, data := [1, 2, 3, 4], value := 2 }

theorem witness_FabricServesAndFails_responses :
    (let s := waitingFor .load 0 id; let f := answer .response
     ((s.answeredBy f).any fun u => decide (u.kind < 8 ∧ u.uid ≠ 0 ∧ s.slotOf u.uid = some 0 ∧ ((s.slot 0).pend.out.find? fun o => o.tag == u.tag) = some { tag := 5, reg := 3, kind := .load, seq := 0 }
        ∧ (s.core f.core).unacked.count u = 1 ∧ u.flit.kind = .load ∧ u.flit.size ≤ 8 ∧ u.flit.value.getLsbD 1 = false)) = true ∧ (1 ≤ 3 ∧ 3 < 8))
    ∧ ((waitingFor .atomic 2 id).core 0).unacked.all (fun u => u.flit.kind == .atomic) = true ∧ ((waitingFor .ffence 3 id).core 0).unacked.all (fun u => u.flit.kind == .ffence) = true
    ∧ there.answeredBy (answer .response) = none
    ∧ (let s := waitingFor .load 0 fun s => { s with now := 50000, arg := [0, 0] }
       (s.core 0).unacked.length = 1 ∧ (s.core 0).unacked.all (fun u => !u.acked && u.flit.dst == 1 && u.uid != 0 && u.sent + 50000 ≤ s.now && u.flit.seq == 0 && u.flit.epoch == 0) = true
        ∧ s.routeTo 1 0 (some 0) = some (1, [2, 1]) ∧ s.arg = [0, 0])
    ∧ (let s := waitingFor .load 0 fun s => { s with now := 49999, fab := { s.fab with routes := [] } }; s.routeTo 1 0 (some 0) = none ∧ s.now < 0 + 50000) := by decide +kernel

/-- A resend over the only route whose links are down, and one whose group has lost its entry; the end after 10 ms, and by failed tag checks. -/
theorem witness_FabricServesAndFails_lost :
    (let s := waitingFor .load 0 fun s => { s with now := 50000, fab := { s.fab with llink := 0xffffffff } }; s.routeTo 1 0 (some 0) = none ∧ (s.fab.routes.get 0 0).getLsbD 63 = true
      ∧ (s.fab.routes.get 0 0).toNat / 2 ^ 61 % 4 ≠ 3)
    ∧ (let s := waitingFor .load 0 fun s => { s with now := 50000, fab := { s.fab with routes := [] } }; s.routeTo 1 0 (some 0) = none ∧ (s.fab.routes.get 0 0).getLsbD 63 = false)
    ∧ (let s := waitingFor .load 0 fun s => { s with now := 10000000, arg := [0, 0, 1] }; ∃ u, (s.core 0).unacked = [u] ∧ u.out = true ∧ u.uid ≠ 0 ∧ u.first + 10000000 ≤ s.now
        ∧ s.arg = [u.flit.seq.toNat, u.flit.epoch.toNat, 1]) := by
  refine ⟨by decide +kernel, by decide +kernel, _, rfl, by decide +kernel, by decide +kernel, by decide +kernel, by decide +kernel⟩

theorem test_responses : runs (.fabricResponse (answer .response)) (waitingFor .load 0 id) (fun t => t.me.val 3 == 0x04030201 && (t.me.reg 3).mark == .full && (t.core 0).unacked.isEmpty) = true
    ∧ runs (.fabricResponse (answer .refusal)) (waitingFor .load 0 id) (fun t => (t.me.reg 3).mark == .idle && t.owed == [(strandKey 0 1 1, 2, 16)]) = true
    ∧ runs (.fabricResend 0 1 0) (waitingFor .load 0 fun s => { s with now := 50000 }) (fun t => t.fab.sent.length == 1) = true
    ∧ runs (.uncertain 0 1) (waitingFor .store 1 fun s => { s with now := 10000000, arg := [0, 0] }) (fun t => (t.core 0).epochs == [(1, 1)] && t.owed == [(strandKey 0 1 1, 8, 16)]) = true := by decide +kernel

theorem witness_FabricServesAndFails_links :
    (let s := wired there; (answer .response).dst = s.plat.device ∧ (asked .load 0).dst = s.plat.device ∧ (blankFlit .load 1 0 16).dst ≠ s.plat.device ∧ ({ blankFlit .load 1 0 16 with hop := 6 } : Flit).hop = 6
      ∧ (blankFlit .load 1 0 16).hop ≠ 6 ∧ s.fab.waiting = [])
    ∧ (let o : OutFlit := { flit := blankFlit .load 1 0 16, route := [], link := 3 }; let s := { there with fab := { there.fab with waiting := [o], used := [(pairKey 3 0 0, (1, 1))] }, arg := [0] }
       s.fab.waiting = [o] ∧ o.link = 3 ∧ s.linkLost 3 = false ∧ s.degraded 3 = false ∧ s.usedOf 3 0 0 = (1, 1) ∧ flitData o.flit ≤ 1 ∧ s.arg = [0] ∧ o.flit.vc = 0 ∧ o.flit.hop = 0)
    ∧ (let o : OutFlit := { flit := blankFlit .load 1 0 16, route := [], link := 3 }; let s := { there with fab := { there.fab with waiting := [o], llink := 2 ^ 35, used := [(pairKey 3 0 0, (2, 1))] }, arg := [0] }
       s.degraded 3 = true ∧ s.linkLost 3 = false ∧ (1, 0) ≠ ((0, 0) : Nat × Nat) ∧ (({ there with fab := { there.fab with llink := 2 ^ 3 } } : State).linkLost 3) = true)
    ∧ groupOf there.plat.device = 0 ∧ (1 : Nat) ≠ groupOf there.plat.device
    ∧ (let s := { there with arg := [0, 3] }; s.arg = [0, 3] ∧ s.linkLost (linkOf false 3) = false ∧ 1 ≠ memberOf s.plat.device ∧ (wired s).localHops 1 ≠ none)
    ∧ (({ there with arg := [1, 3, 7] } : State).fab.lanes.get 0 (linkOf true 3) ||| BitVec.ofNat 8 (2 ^ (7 % 8)) ≠ 255)
    ∧ (({ there with fab := { there.fab with lanes := [(linkOf true 3, 127)] } } : State).fab.lanes.get 0 (linkOf true 3) ||| BitVec.ofNat 8 (2 ^ (7 % 8)) = 255)
    ∧ (13 < 14 ∧ 14 ≤ 14 ∧ 27 < 28) := by decide +kernel

/-- A flit whose tag fails; one that this device's link 3 brought. -/
theorem witness_FabricServesAndFails_flits : ({ there with arg := [1] } : State).arg = [1] ∧ (let s := { there with arg := [0, 4] }; s.arg = [0, 3 + 1] ∧ (asked .load 0).dst = s.plat.device ∧ isRequest (asked .load 0).kind = true)
    ∧ (let s := waitingFor .load 0 fun s => { s with arg := [0, 0, 1] }; s.arg = [0, 0, 1] ∧ (s.core 0).unacked.length = 1)
    ∧ (serving .running id).mem.wf = true ∧ ((serving .running id).core deviceCore).l1d = [] ∧ (serving .running id).cores.all (fun c => c.2.atomics.isEmpty) = true := by decide +kernel

/-- Flits that this device passes on: over a link that is up, over the detour of one that is down, and at the last classes; a credit and a link-state flit that arrive. -/
theorem witness_FabricServesAndFails_forward :
    (let s := wired there; s.linkLost (s.firstLink 5) = false ∧ (blankFlit .load 5 0 0).hop.toNat < 6 ∧ groupOf 5 = groupOf s.plat.device)
    ∧ (let s := wired there; let s := { s with fab := { s.fab with llink := 2 ^ 4 } }; s.linkLost (s.firstLink 5) = true ∧ s.detour (memberOf 5) = some 1 ∧ (0 : Nat) + 1 + [9].length ≤ 5)
    ∧ (let s := wired there; let s := { s with fab := { s.fab with llink := 0xffffffff } }; s.linkLost (s.firstLink 5) = true ∧ s.detour (memberOf 5) = none)
    ∧ ({ blankFlit .credit 0 0 0 with value := 65537 } : Flit).dst = there.plat.device ∧ (blankFlit .linkState 0 0 0).kind = .linkState ∧ ({ blankFlit .load 5 0 0 with hop := 5 } : Flit).hop.toNat < 6 := by
  decide +kernel

/-- R380, R381: the data and control entries of a class come back; a flit takes the detour of a link that is down. -/
theorem test_flits : runs (.flitForward { blankFlit .credit 0 0 0 with vc := 2, hop := 3, value := 4 * 65536 + 1 } []) { there with arg := [0, 4] }
      (fun t => t.agenda == [{ due := 0, ev := .credit 3 2 1 4, arg := [3] }]) = true
    ∧ (let s := wired there; runs (.flitForward (blankFlit .load 5 0 0) [5]) { s with fab := { s.fab with llink := 2 ^ 4 } } (fun t => (t.fab.sent.map fun o => (o.link, o.route)) == [(0, [5])])) = true := by
  decide +kernel

theorem test_flit_tags : runs (.fabricRequest (asked .load 0)) { there with arg := [1] } (fun t => t.plat.linkev == 65536 && t.fab.dropped == there.fab.dropped + 1) = true := by decide +kernel

theorem test_links : runs (.flitForward (answer .response) []) (waitingFor .load 0 id) (fun t => t.agenda == [{ due := 0, ev := .fabricResponse (answer .response), arg := [] }]) = true
    ∧ runs (.flitForward (blankFlit .load 5 0 0) [5]) (wired there) (fun t => (t.fab.sent.map fun o => (o.flit.hop, o.route)) == [(1, [])]) = true
    ∧ runs (.credit 3 0 1 0) { there with fab := { there.fab with used := [(pairKey 3 0 2, (2, 1))] }, arg := [2] } (fun t => t.usedOf 3 0 2 == (1, 1)) = true
    ∧ runs .linkDown { there with arg := [0, 3] } (fun t => t.linkLost 3) = true
    ∧ runs .fabricLaneLoss { there with arg := [0, 3, 2] } (fun t => t.fab.lanes == [(3, 4)] && !t.linkLost 3) = true
    ∧ runs .linkDegraded { there with arg := [0, 3, 27, 14] } (fun t => t.degraded 3 && !t.linkLost 3) = true
    ∧ runs (.linkState 0 2 false 3) there (fun t => t.fab.downs == [(2, 3)]) = true := by decide +kernel

-- ==== drift transport ====

/-- Queue 0 of partition 0 (R394): VALID, of ASID 0 and port 2, toward queue 9; its receive buffer is the 64 bytes at 0x3000 of the page that ASID 0 maps. -/
def drifting (q : DriftQueue) (extra : List (Nat × Nat)) (f : Slot → Slot) : State :=
  let s := (((mapped 0x3f f).modCluster 0 fun c => { c with ctable := [(0, tableEntry 1 0)] }).modPart 0 fun p => { p with qbase := BitVec.ofNat 64 (2 ^ 18 + 1) }).setQueue 0 0 q
  let m := (tables.writeBytes (2 ^ 18 + 16) (leBytes 8 (9 + 2 * 2 ^ 24 + 2 ^ 31))).writeBytes (2 ^ 18 + 24) (leBytes 8 0x3000 ++ leBytes 8 64)
  { s with mem := extra.foldl (fun m p => m.writeBytes p.1 (leBytes 8 p.2)) m }

/-- An XPOST of queue 0: OP 1, no trigger, 4 bytes at 0x3000, at 64; s2 is its address. -/
def posting (q : DriftQueue) (op : Nat) : State := drifting q [(64, op), (64 + 16, 0x3000), (64 + 24, 4)] (regs [(2, 64), (4, 2 ^ 32), (5, 4096)])

theorem witness_DriftQueuesMoveData_post :
    (let s := posting DriftQueue.empty 1; let l := s.bytesAt 64 64
     s.feature 4 = true ∧ s.src.pred 0 = true ∧ s.ready [srcA 1 true, srcB 2 true] [3] true = true ∧ s.partials = [] ∧ s.melts = [] ∧ (s.rd 2).toNat % 64 = 0 ∧ (s.rd 2).toNat < 2 ^ 63
      ∧ piecesOf (s.rd 2).toNat 64 = [((s.rd 2).toNat, 64)] ∧ meets s .load 1 (s.rd 2) = (some { pa := 64, target := .hbm 64, melt := false, device := false }, none)
      ∧ s.queueOk 0 (s.rd 1).toNat s.me.id.asid = true ∧ s.queueFailed 0 0 = false ∧ (s.dqueue 0 0).error = false ∧ (s.dqueue 0 0).held.length < 256 ∧ quietB s = true
      ∧ structNat l 0 1 = 1 ∧ structNat l 1 1 = 0 ∧ structNat l 2 2 = 0 ∧ structNat l 4 4 = 0 ∧ structNat l 8 8 = 0 ∧ structNat l 24 8 = 4 ∧ structNat l 56 8 = 0)
    ∧ structNat ((posting DriftQueue.empty 4).bytesAt 64 64) 0 1 > 3 ∧ ((posting DriftQueue.empty 1).rd 5).toNat ≥ 4096
    ∧ (drifting DriftQueue.empty [(2 ^ 18 + 16, 2 ^ 31 + 2 ^ 47)] id).queueFailed 0 0 = true ∧ (drifting DriftQueue.empty [(2 ^ 18 + 16, 2 ^ 31 + 2 ^ 47)] id).queueOk 0 0 0 = true
    ∧ ((drifting DriftQueue.empty [(2 ^ 18 + 16, 2 ^ 31 + 2 ^ 47)] id).dqueue 0 0).old = none ∧ ((posting DriftQueue.empty 1).core 0).sb = []
    ∧ ({ there with plat := { there.plat with drvfeat := 0 } } : State).feature 4 = false := by decide +kernel

/-- A posted request of the strand. -/
def work (trig cnt : Nat) (fired : Bool) : WorkReq :=
  { op := 2, trig := trig, trigq := 0, trigcnt := cnt, va := 0x3000, len := 4, roff := 8, imm := 7, seq := 5, uid := strandKey 0 1 1, cluster := 0, priv := .s, fired := fired, off := 0 }

theorem witness_DriftQueuesMoveData_wait :
    (let s := posting { DriftQueue.empty with held := List.replicate 256 (work 0 0 false) } 1; 256 ≤ (s.dqueue 0 0).held.length)
    ∧ (posting DriftQueue.empty 1).ready [srcA 1 true] [3] true = true ∧ (DriftQueue.empty).begun ≤ (DriftQueue.empty).acked
    ∧ (let q := { DriftQueue.empty with begun := 1 }; q.acked < q.begun ∧ ((drifting q [] id).dqueue 0 0) = q)
    ∧ ((posting DriftQueue.empty 1).rd 4).toNat = 2 ^ 32 ∧ ((posting DriftQueue.empty 1).rd 2).toNat < 2 ^ 32
    ∧ ((posting DriftQueue.empty 1).descWord 0 0 56).toNat % 2 ^ 32 = 0 := by decide +kernel

/-- Status BADQ, POSTED with one held request, and OK (R413). -/
theorem test_drift_instructions : runs (.xpost 3 1 2 false false 0) (posting DriftQueue.empty 1) (fun t => (t.dqueue 0 0).held.length == 1 && (t.me.reg 3).mark == .pending) = true
    ∧ runs (.xflush 3 1 false 0) (drifting { DriftQueue.empty with begun := 1 } [] id) (fun t => (t.dqueue 0 0).flushes.length == 1) = true
    ∧ runs (.xwait 3 1 2 false false 0) (posting DriftQueue.empty 1) (fun t => ((t.dqueue 0 0).waits.map (·.2.2)) == [64]) = true
    ∧ delivers (.xwait 3 5 2 false false 0) (posting DriftQueue.empty 1) = some 1 := by decide +kernel

theorem witness_DriftQueuesMoveData_trigger :
    (let s := drifting { DriftQueue.empty with held := [work 0 0 false] } [] id; (s.dqueue 0 0).held = [work 0 0 false] ∧ s.queueFailed 0 0 = false ∧ (s.dqueue 0 0).error = false ∧ s.mem.wf = true
      ∧ s.awayEntry 0 (strandKey 0 1 1 / 2 ^ 32) = none)
    ∧ (let s := drifting DriftQueue.empty [(2 ^ 18 + 56, 3)] id; ((s.descWord 0 0 56).toNat / 2 ^ 0 % 2 ^ 32 + 2 ^ 32 - 3 % 2 ^ 32) % 2 ^ 32 < 2 ^ 31 ∧ ¬((s.descWord 0 0 56).toNat / 2 ^ 0 % 2 ^ 32 + 2 ^ 32 - 4 % 2 ^ 32) % 2 ^ 32 < 2 ^ 31
        ∧ ((s.descWord 0 0 56).toNat / 2 ^ 32 % 2 ^ 32 + 2 ^ 32 - 0 % 2 ^ 32) % 2 ^ 32 < 2 ^ 31)
    ∧ (let s := (drifting { DriftQueue.empty with held := [work 0 0 false] } [] id).modCluster 0 fun c => { c with ctable := [(0, tableEntry 1 1)], imaged := [0] }
       s.awayEntry 0 (strandKey 0 1 1 / 2 ^ 32) = some 0 ∧ leNat (s.bytesAt (s.imageOf 0 0 + 0x18) 8) = 0)
    ∧ (let s := (drifting { DriftQueue.empty with held := [work 0 0 false] } [(0x10018, 32)] id).modCluster 0 fun c => { c with ctable := [(0, tableEntry 1 1)], imaged := [0] }
       leNat (s.bytesAt (s.imageOf 0 0 + 0x18) 8) = 32) := by decide +kernel

/-- The send window is open while nothing is on its way, however wide it is. -/
theorem window_open (s : State) (q : DriftQueue) (h : q.next = q.acked) : q.next - q.acked < s.windowOf q := by
  unfold State.windowOf
  omega

/-- A packet that queue 0 has sent, and one for it. -/
def packet (kind : Nat) : DriftPacket := { kind := kind, last := true, dq := 0, psn := 0, sq := 9, roff := 8, imm := 7, data := [1, 2, 3, 4], op := 2 }

def kept : DriftQueue := { DriftQueue.empty with next := 1, store := [{ num := 0, pkt := packet 4, first := 0 }] }

theorem witness_DriftQueuesMoveData_send :
    (let s := drifting { DriftQueue.empty with held := [work 0 0 true] } [] id
     (s.dqueue 0 0).held = [work 0 0 true] ∧ (s.dqueue 0 0).next = (s.dqueue 0 0).acked ∧ s.partials = [] ∧ s.queueFailed 0 0 = false
      ∧ s.readAs 0 0 .s (piecesOf 0x3000 4) = some [0, 0, 0, 0] ∧ s.readAs 0 0 .s (piecesOf 0x40000000 4) = none ∧ s.descWord 0 0 40 = 0
      ∧ (4 ≤ 0 + ([0, 0, 0, 0] : List Byte).length ∧ ¬16385 ≤ 0 + 8192))
    ∧ (let s := drifting DriftQueue.empty [(2 ^ 18 + 40, 64), (2 ^ 18 + 48, 8)] id; s.descWord 0 0 40 ≠ 0 ∧ (s.descWord 0 0 48).getLsbD 3 = true)
    ∧ (kept.store.find? fun x => x.pkt.psn == (packet 4).psn) = some { num := 0, pkt := packet 4, first := 0 } ∧ ((drifting kept [] id).now < 0 + 1000000000)
    ∧ (0 + 1000000000 ≤ ({ drifting kept [] id with now := 1000000000 } : State).now) := by decide +kernel

theorem test_drift_send : runs (.driftTrigger 0 0) (drifting { DriftQueue.empty with held := [work 2 0 false] } [] id) (fun t => (t.dqueue 0 0).held == [work 2 0 true]) = true
    ∧ runs (.driftTrigger 0 0) (drifting { DriftQueue.empty with held := [work 1 4 false] } [(2 ^ 18 + 56, 3)] id) (fun t => (t.dqueue 0 0).held == [work 1 4 false]) = true
    ∧ runs (.driftRetransmit 0 0 0) (drifting kept [] id) (fun t => (t.drift.sent.map fun f => (f.port, f.pkt)) == [(2, packet 4)]) = true
    ∧ runs (.driftQueueError 0 0) ({ drifting kept [] id with now := 1000000000 } : State) (fun t => t.queueFailed 0 0) = true := by decide +kernel

theorem witness_DriftQueuesMoveData_receive :
    (let s := drifting DriftQueue.empty [] id; let p := packet 4; let va := (s.descWord 0 0 24).toNat + p.roff.toNat
     p.dq < 4096 ∧ s.queueFailed 0 p.dq = false ∧ (s.dqueue 0 p.dq).error = false ∧ s.queueOk 0 p.dq 0 = true ∧ s.asidBound 0 0 = true ∧ (s.dqueue 0 0).old = none ∧ p.psn = (s.dqueue 0 p.dq).expect ∧ p.roff.toNat + p.data.length ≤ (s.descWord 0 p.dq 32).toNat
      ∧ s.mem.wf = true ∧ piecesOf va p.data.length = [(va, p.data.length)] ∧ s.reachAs 0 0 .s .store (BitVec.ofNat 64 va) p.data.length = some (.hbm 0x3008) ∧ s.asidHeld 0 0 = false ∧ plain.asidBound 0 0 = false ∧ s.arg = [] ∧ s.partials = []
      ∧ hbmKey 0 0x3008 + p.data.length ≤ hbmKey 0 (s.descAt 0 0) ∧ s.descWord 0 0 40 = 0 ∧ (s.writeAs 0 0 .s (piecesOf 0x40000000 4) p.data).isNone = true)
    ∧ (let s := drifting DriftQueue.empty [] id; (s.descWord 0 0 32).toNat < 61 + (packet 4).data.length)
    ∧ (let q := { DriftQueue.empty with expect := 1 }; (packet 4).psn ≠ q.expect ∧ (q.expect - (packet 4).psn).toNat < 2 ^ 31) ∧ 2 ^ 31 ≤ ((0 : BitVec 32) - 1).toNat
    ∧ (plain.queueOk 0 0 0 = false ∧ plain.queueFailed 0 0 = false) ∧ (4096 ≤ 4096 ∧ 4095 < 4096) := by decide +kernel

theorem witness_DriftQueuesMoveData_answers :
    (let s := drifting kept [] id; let q := s.dqueue 0 0; q.acked + (0 - BitVec.ofNat 32 q.acked).toNat + 1 ≤ q.next ∧ q.next < q.acked + (1 - BitVec.ofNat 32 q.acked).toNat + 1
      ∧ (q.store.any fun k => k.pkt.psn == 0) = true ∧ (q.store.all fun k => k.pkt.psn != 1) = true ∧ s.mem.wf = true ∧ q.half ≤ s.now)
    ∧ ((drifting { DriftQueue.empty with half := 5 } [] id).now < ((drifting { DriftQueue.empty with half := 5 } [] id).dqueue 0 0).half) := by decide +kernel

/-- A context of ASID 0 holds cluster 0. -/
theorem witness_DriftQueuesMoveData_held :
    (let s := (drifting DriftQueue.empty [] id).modCluster 0 fun c => { c with ctable := [(0, tableEntry 1 1)], holder := some 0 }
     s.asidHeld 0 0 = true ∧ (s.writeAs 0 0 .s (piecesOf 0x40000000 4) (packet 1).data).isNone = true)
    ∧ (drifting DriftQueue.empty [] id).melts = [] ∧ (drifting DriftQueue.empty [] id).mustWalk 1 64 = false := by decide +kernel

/-- A queue whose ERROR the supervisor has cleared, and one whose ERROR stands. -/
theorem witness_DriftQueuesMoveData_cleared :
    (let s := drifting { kept with error := true } [] id; (s.dqueue 0 0).error = true ∧ (s.dqueue 0 0).old = none ∧ s.queueFailed 0 0 = false ∧ s.mem.wf = true ∧ s.melts = [] ∧ s.partials = []
      ∧ s.cores.all (fun c => c.2.atomics.isEmpty) = true)
    ∧ (let s := drifting { kept with error := true } [(2 ^ 18 + 16, 2 ^ 31 + 2 ^ 47)] id; (s.dqueue 0 0).old = none ∧ (s.dqueue 0 0).error = true ∧ s.queueFailed 0 0 = true) := by decide +kernel

/-- R412: a packet of the queue's earlier life is not sent again. -/
theorem test_drift_cleared : runs (.driftRetransmit 0 0 0) (drifting { kept with error := true } [] id) (fun t => t.dqueue 0 0 == DriftQueue.empty && t.drift.sent.isEmpty) = true := by
  decide +kernel

theorem test_drift_receive : runs (.driftData 0 (packet 4)) (drifting DriftQueue.empty [] id) (fun t => t.mem.readBytes 0x3008 4 == [1, 2, 3, 4] && t.arrivals 0 0 == 1 && (t.drift.sent.map fun f => f.pkt.kind) == [2]) = true
    ∧ runs (.driftData 0 { packet 1 with psn := 5 }) (drifting { DriftQueue.empty with expect := 6 } [] id) (fun t => t.arrivals 0 0 == 0 && (t.drift.sent.map fun f => f.pkt.kind) == [2]) = true
    ∧ runs (.driftAck 0 0 0) (drifting kept [] id) (fun t => (t.dqueue 0 0).acked == 1 && (t.dqueue 0 0).store.isEmpty) = true
    ∧ runs (.driftNack 0 0 0) (drifting kept [] id) (fun t => t.queueFailed 0 0) = true ∧ runs (.ecnMark 0 0) (drifting kept [] id) (fun t => (t.dqueue 0 0).half == 100000) = true
    ∧ runs (.ecnWindowRestore 0 0) (drifting { DriftQueue.empty with half := 5 } [] id) (fun t => (t.dqueue 0 0).half == 5) = true := by decide +kernel

-- ==== peals and calving ====

/-- A graph of ranks 0 and 1, this device's being 0 (R398, R399): a SEND and a RECV.RED of two INT32 elements at the first of its one buffer. -/
def sendNode : List Byte := [1, 0, 0, 0, 0, 0] ++ leBytes 2 1 ++ leBytes 16 0 ++ leBytes 4 2 ++ leBytes 4 0xffffffff

def recvNode : List Byte := [2, 0, 0, 0, 0, 0] ++ leBytes 2 1 ++ leBytes 16 0 ++ leBytes 4 2 ++ leBytes 4 0xffffffff

def graphHeader (nbase : Nat) : List Byte := leBytes 2 2 ++ [BitVec.ofNat 8 nbase, 0, 9, 5, 0, 0] ++ leBytes 4 5 ++ leBytes 4 2 ++ leBytes 8 0 ++ leBytes 8 77 ++ leBytes 8 0x5000 ++ leBytes 24 0

def loadable (nbase : Nat) : State :=
  { mapped 0x3f (regs [(1, 0x4000), (2, 1), (3, 0x6000), (4, 2 ^ 63), (5, 0x40000000)]) with
    mem := ((tables.writeBytes 0x4000 (graphHeader nbase ++ sendNode ++ recvNode)).writeBytes 0x5008 [1]).writeBytes 0x6000 (leBytes 8 0x7000) }

/-- The peal that the graph describes. -/
def peal : Peal :=
  { ctx := 1, nbase := 1, rop := 0, rfmt := 9, scope := 5, group := 5, nrank := 2, rank := 0, sig := 77, ranks := [0, 1], nodes := [graphNode sendNode, graphNode recvNode], readyAt := 0 }

theorem witness_PealsRunAtEveryRank_load :
    (let s := loadable 1
     s.feature 5 = true ∧ s.src.pred 0 = true ∧ s.ready [srcA 1 true] [6] true = true ∧ (s.rd 1).toNat < 2 ^ 63 ∧ (s.rd 1).toNat % 64 = 0
      ∧ s.melts = [] ∧ s.partials = [] ∧ s.mem.wf = true ∧ s.cores.all (fun c => c.2.atomics.isEmpty) = true ∧ (match (s.readPeal (s.rd 1).toNat).2 with | .ok p => p == (1, peal) | .error _ => false) = true ∧ 2 ^ 63 ≤ (s.rd 4).toNat ∧ (s.rd 2).toNat % 64 ≠ 0 ∧ s.me.status.tl < 2
      ∧ s.readAs 0 s.me.id.asid s.me.status.priv (piecesOf (s.rd 5).toNat 64) = none ∧ (s.rd 5).toNat % 64 = 0)
    ∧ (let s := loadable 0; (match s.readAs 0 s.me.id.asid s.me.status.priv (piecesOf (s.rd 1).toNat 64) with | some h => !Machine.headerOk h | none => false) = true)
    ∧ (let s := { loadable 1 with mem := (loadable 1).mem.writeBytes (0x4000 + 64) [5] }; (match (s.readPeal 0x4000).2 with | .error e => e == (0, 2) | .ok _ => false) = true)
    ∧ ({ there with plat := { there.plat with drvfeat := 0 } } : State).feature 5 = false := by decide +kernel

/-- The loaded peal, with runs. -/
def pealed (l : List (Nat × PealRun)) : State := { loadable 1 with engine := { (loadable 1).engine with peals := [(1, peal)], runs := l } }

/-- A run of it whose base table is filled. -/
def pealRun (begun : Bool) (st : Option Nat) : PealRun :=
  { peal := 1, seq := 0, base := [0x7000], asid := 0, cluster := 0, priv := .s, begun := begun, cnt := [0, 0], ended := [false, false], flags := 0, status := st }

theorem witness_PealsRunAtEveryRank_run :
    (let s := pealed []
     (1 ≤ (s.rd 2).toNat ∧ (s.rd 2).toNat < 128 ∧ s.engine.peals.get? (s.me.id.part * 128 + (s.rd 2).toNat) = some peal ∧ peal.ctx = 1 ∧ s.me.id.ctx = 1 ∧ s.me.id.part = 0 ∧ peal.readyAt ≤ s.now)
      ∧ s.ready [srcA 2 true, srcB 3 true] [6] true = true ∧ s.partials = [] ∧ s.melts = [] ∧ (s.rd 3).toNat < 2 ^ 63 ∧ (s.rd 3).toNat % 8 = 0
      ∧ piecesOf (s.rd 3).toNat 8 = [((s.rd 3).toNat, 8)] ∧ meets s .load 1 (s.rd 3) = (some { pa := 0x6000, target := .hbm 0x6000, melt := false, device := false }, none)
      ∧ s.runsOf 1 = [] ∧ s.engine.held = [] ∧ s.engine.waits = [] ∧ s.remoteOpen s.myCore s.me.id.uid = false ∧ quietB s = true)
    ∧ (let s := pealed ((List.range 4).map fun k => (k, pealRun false none)); 4 ≤ (s.runsOf 1).length)
    ∧ ((loadable 1).engine.peals.get? 1 = none)
    ∧ (let s := pealed [(7, pealRun true (some 0))]; s.runsOf 1 = [(7, pealRun true (some 0))] ∧ s.pealOf (pealRun true (some 0)) = some peal ∧ s.engine.waits = [] ∧ s.ready [srcA 2 true] [6] true = true)
    ∧ (let s := pealed [(7, pealRun true none)]; s.runsOf 1 = [(7, pealRun true none)] ∧ (pealRun true none).status = none) := by decide +kernel

/-- A graph in this device's memory, at a page that no load may read; a strand whose request to another device is open. -/
theorem witness_PealsRunAtEveryRank_load_more :
    (let s := loadable 1; s.me.front.got = [] ∧ s.pealMissing 0x4000 = none ∧ s.pealMissing 0x40000000 = none ∧ s.engine.peals = [])
    ∧ (let s := (pealed []).modCore 0 fun c => { c with unacked := [pending (blankFlit .store 1 0 0) 1] }; s.remoteOpen s.myCore s.me.id.uid = true) := by decide +kernel

theorem test_peal_instructions : runs (.pealLoad 6 1 false 0) (loadable 1) (fun t => t.engine.peals.all (fun p => p.1 == 1) && t.engine.peals.length == 1 && (t.me.reg 6).mark == .pending) = true
    ∧ runs (.pealRun 6 2 3 false false 0) (pealed []) (fun t => t.engine.runs.all (fun p => p.2.base == [0x7000] && p.2.cnt == [0, 0] && p.2.begun) && t.engine.runs.length == 1 && t.groupSeq 0 5 == 1) = true
    ∧ runs (.pealWait 6 2 false 0) (pealed [(7, pealRun true (some 0))]) (fun t => t.engine.runs.isEmpty && (t.me.reg 6).mark == .pending) = true
    ∧ trapped (.pealLoad 6 2 false 0) (loadable 1) = some (3072 + 3 * 32, 1) := by decide +kernel

/-- Run 7 as it runs, with what has arrived, and with node 0 replaced. -/
def acting (n : Option GraphNode) (held : List (Nat × PealFlit)) (base : Word) : State :=
  let s := wired (pealed [(7, { pealRun true none with base := [base] })])
  { s with engine := { s.engine with peals := [(1, match n with | some n => { peal with nodes := [n, graphNode recvNode] } | none => peal)], held := held } }

def pealFlit (src : Nat) : PealFlit := { group := 5, seq := 0, tag := 1, sig := 77, nrank := 2, rop := 0, rfmt := 9, src := src, data := [3, 4], notice := 0 }

theorem witness_PealsRunAtEveryRank_nodes :
    (let s := acting none [(0, pealFlit 1)] 0x7000; let r := { pealRun true none with base := [0x7000] }
     s.run 7 = some r ∧ r.begun = true ∧ r.status = none ∧ r.peal / 128 = 0 ∧ r.cnt.getD 0 1 = 0 ∧ r.cnt.getD 1 1 = 0 ∧ r.ended.getD 1 false = false ∧ s.pealOf r = some peal
      ∧ peal.nodes[0]? = some (graphNode sendNode) ∧ peal.nodes[1]? = some (graphNode recvNode) ∧ s.engine.waits = [] ∧ s.engine.runs.length = 1 ∧ s.awayEntry r.cluster peal.ctx = none
      ∧ (graphNode sendNode).op = 1 ∧ (graphNode sendNode).partner peal.nrank peal.rank = some 1 ∧ s.pealRead r 0 0 false 2 = some [0, 0] ∧ s.routeTo 1 3 none = some (0, [1])
      ∧ (graphNode recvNode).op = 2 ∧ (graphNode recvNode).acts peal.nrank peal.rank = true ∧ (s.engine.held.find? fun x => heldFor 0 peal.group r.seq x && peal.takes (graphNode recvNode) x.2) = some (0, pealFlit 1)
      ∧ (s.pealWrite r 0 0 false ((([0, 0] : List Word).zip ((pealFlit 1).data ++ List.replicate (2 - 2) 0)).map fun y => (pealReduce 0 9 y.1 y.2).1)).isSome = true ∧ s.mem.wf = true)
    ∧ (let s := acting none [] 0x7000; (s.engine.held.find? fun x => heldFor 0 peal.group 0 x && peal.takes (graphNode recvNode) x.2) = none)
    ∧ (let n := { graphNode recvNode with op := 4 }; n.acts 2 0 = true ∧ peal.takes n (pealFlit 1) = true ∧ { graphNode sendNode with partk := 1 }.acts 3 2 = false)
    ∧ (let n := { graphNode sendNode with op := 3, partk := 0xff, tag := 0 }; let s := acting (some n) [] 0x7000; let r := { pealRun true none with base := [0x7000] }
       n.acts 2 0 = true ∧ s.pealRead r 0 0 false 2 = some [0, 0] ∧ (s.pealWrite r 0 0 false [0, 0]).isSome = true)
    ∧ (let s := acting none [] 0x40000000; s.pealRead { pealRun true none with base := [0x40000000] } 0 0 false 2 = none)
    ∧ (let s := (acting none [] 0x7000).modCluster 0 fun c => { c with ctable := [(0, tableEntry 1 1)], imaged := [0] }
       s.awayEntry 0 peal.ctx = some 0 ∧ leNat (s.bytesAt (s.imageOf 0 0 + 0x18) 8) = 0 ∧ s.mem.wf = true) := by decide +kernel

/-- Node 0 of the run of peal 1 stands in the pending list of the context's image, whose PFAULT is as given. -/
def listing (base : Word) (away : Bool) (fault : Nat) : State :=
  let s := (acting none [] base).modCluster 0 fun c => { c with ctable := [(0, tableEntry 1 1)], holder := if away then none else some 0, imaged := if away then [0] else [] }
  { s with mem := (((s.mem.writeBytes 0x10018 [1]).writeBytes 0x10028 (leBytes 8 fault)).writeBytes 0x10400 (leBytes 2 2 ++ leBytes 2 0 ++ leBytes 4 1 ++ leBytes 8 0)) }

theorem witness_PealsRunAtEveryRank_listed :
    (let s := listing 0x7000 true 0; s.entryOfKey 0 1 = some 0 ∧ s.awayEntry 0 peal.ctx = some 0 ∧ 0 < leNat (s.bytesAt (s.imageOf 0 0 + 0x18) 8)
      ∧ leNat (s.bytesAt (s.imageOf 0 0 + 0x400) 2) = 2 ∧ leNat (s.bytesAt (s.imageOf 0 0 + 0x404) 4) = 1 ∧ leNat (s.bytesAt (s.imageOf 0 0 + 0x408) 8) = 0)
    ∧ ({ graphNode sendNode with partk := 1 }.acts 3 2 = false ∧ (acting none [] 0x7000).engine.runs.length = 1)
    ∧ (let s := acting none [] 0x7000; s.awayEntry 0 peal.ctx = none ∧ s.entryOfKey 0 1 = none ∧ (s.core portCore).unacked = []) := by decide +kernel

theorem witness_ContextsEndAndErrorsAreContained_pending :
    (let s := listing 0x7000 false 5; (s.cluster 0).holder = some 0 ∧ (s.cluster 0).saving = none ∧ leNat (s.bytesAt (s.imageOf 0 0 + 0x28) 8) ≠ 0)
    ∧ (let s := listing 0x7000 false 0; leNat (s.bytesAt (s.imageOf 0 0 + 0x28) 8) = 0 ∧ leNat (s.bytesAt (s.imageOf 0 0 + 0x18) 8) = 1 ∧ s.mem.wf = true ∧ s.imageOf 0 0 + 0x2000 < 2 ^ 55
        ∧ leNat (s.bytesAt (s.imageOf 0 0 + 0x400) 2) = 2 ∧ ((s.runsOf (pealKey 0 1)).find? fun x => x.2.seq % 2 ^ 32 == 0 / 65536 % 2 ^ 32) = some (7, { pealRun true none with base := [0x7000] })
        ∧ (s.pealOf { pealRun true none with base := [0x7000] }).bind (fun p => p.nodes[0]?) = some (graphNode sendNode)
        ∧ s.nodeFault { pealRun true none with base := [0x7000] } (graphNode sendNode) = none)
    ∧ (let s := listing 0x40000000 false 0; s.nodeFault { pealRun true none with base := [0x40000000] } (graphNode sendNode) = some (0x40000000, 2) ∧ s.ccbWord 0 1 64 = 0
        ∧ (hbmKey 0 (s.context 1).ccb.toNat + 0x100 ≤ s.imageOf 0 0 ∨ s.imageOf 0 0 + 0x2000 ≤ hbmKey 0 (s.context 1).ccb.toNat) ∧ s.melts = [] ∧ s.partials = [])
    ∧ (let w := work 3 0 false; let s := (drifting { DriftQueue.empty with held := [w] } [(0x10018, 1), (0x10400, 1), (0x10408, 0)] id).modCluster 0 fun c => { c with ctable := [(0, tableEntry 1 1)], holder := some 0 }
       leNat (s.bytesAt (s.imageOf 0 0 + 0x400) 2) = 1 ∧ ((s.dqueue 0 0).held.find? fun w => w.trig == 3 && w.cluster == 0 && w.uid / 2 ^ 32 == 1) = some w ∧ s.entryKey 0 0 = 1
        ∧ piecesOf (w.va.toNat + w.off) (w.len - w.off) = [(0x3000, 4)]
        ∧ (match (s.walk 0 0 ((s.descWord 0 0 16).toNat / 2 ^ 32 % 4096) 0x3000).2.result with | .ok _ => true | .error _ => false) = true
        ∧ (match (s.walk 0 0 ((s.descWord 0 0 16).toNat / 2 ^ 32 % 4096) 0x40000000).2.result with | .ok _ => false | .error r => r == 2) = true) := by decide +kernel

/-- R336: the node comes to its turn; its buffer's fault stands in PFAULT, its address beside it; the drift request is sendable. -/
theorem test_pending : runs (.pfaultClear 0 0) (listing 0x7000 false 0) (fun t => leNat (t.bytesAt (t.imageOf 0 0 + 0x18) 8) == 0 && t.agenda.any fun d => d.ev == .pealNode 0 7 0) = true
    ∧ runs (.pfaultClear 0 0) (listing 0x40000000 false 0) (fun t => leNat (t.bytesAt (t.imageOf 0 0 + 0x20) 8) == 0x40000000 && leNat (t.bytesAt (t.imageOf 0 0 + 0x28) 8) == 2 ^ 63 + 4 * 32 + 2) = true
    ∧ runs (.pfaultClear 0 0) (listing 0x7000 false 5) (fun t => t.agenda == [{ due := 64, ev := .pfaultClear 0 0, arg := [] }]) = true := by decide +kernel

/-- Writes that follow the read of the source, and the taking of the arrival, and one that faults. -/
theorem witness_PealsRunAtEveryRank_writes :
    (let s := acting none [(0, pealFlit 1)] 0x7000; let r := { pealRun true none with base := [0x7000] }
     let u : State := { s with engine := { s.engine with held := s.engine.held.erase (0, pealFlit 1) } }
     s.partials = [] ∧ s.melts = [] ∧ s.cores.all (fun c => c.2.atomics.isEmpty) = true
      ∧ u.pealRead r 0 0 false 2 .store = some [0, 0] ∧ ((u.pealMerge r 0 0 false 2 .store).pealWrite r 0 0 false [3, 4]).isSome = true ∧ (u.pealWrite r 0 0 false [3, 4]).isSome = true
      ∧ ((s.pealMerge r 0 0 false 2).pealWrite r 0 0 false [0, 0]).isSome = true)
    ∧ (let s := acting none [(0, pealFlit 1)] 0x40000000; let r := { pealRun true none with base := [0x40000000] }
       (s.pealWrite r 0 0 false [0, 0]).isNone = true ∧ s.pealRead r 0 0 false 2 = none ∧ s.pealRead r 0 0 false 2 .store = none) := by decide +kernel

theorem test_peal_nodes : runs (.pealNode 0 7 0) (acting none [] 0x7000) (fun t => ((t.core portCore).unacked.map fun u => (u.flit.kind, u.flit.dst)) == [(.collective, 1)]
      && (t.run 7).any fun r => r.ended == [true, false]) = true
    ∧ runs (.pealNode 0 7 1) (acting none [(0, pealFlit 1)] 0x7000) (fun t => t.mem.readBytes 0x7000 8 == [3, 0, 0, 0, 4, 0, 0, 0]) = true
    ∧ (pealReduce 2 9 0xfffffffe 1).1 = 0xfffffffe := by decide +kernel

theorem witness_PealsRunAtEveryRank_arrivals :
    (let s := acting none [] 0x7000; let r := { pealRun true none with base := [0x7000] }; let f := pealFlit 1
     s.runAt 0 f.group f.seq = some (7, r) ∧ r.status = none ∧ r.begun = true ∧ s.pealOf r = some peal ∧ s.engine.held.length < 4096 ∧ s.engine.waits = [] ∧ s.engine.runs.length = 1
      ∧ f.sig = peal.sig ∧ f.nrank = peal.nrank ∧ f.rop = peal.rop ∧ f.rfmt = peal.rfmt ∧ (peal.nodes.any fun n => n.op == 2 && n.tag == f.tag && n.partner 2 0 == some f.src) = true
      ∧ (pealFlit 0).src ≠ 1 ∧ (peal.nodes.any fun n => n.isRecv && n.tag == f.tag && n.partner 2 0 == some (pealFlit 0).src) = false)
    ∧ (let s := pealed []; s.runAt 0 5 0 = none ∧ (0 + 2 ^ 32 - s.engine.seqs.get 0 (0 * 2 ^ 24 + 5)) % 2 ^ 32 < 2 ^ 31 ∧ ¬((2 ^ 32 - 1 + 2 ^ 32 - s.engine.seqs.get 0 (0 * 2 ^ 24 + 5)) % 2 ^ 32 < 2 ^ 31))
    ∧ ((pealed [(7, pealRun false none)]).runAt 0 5 0 = some (7, pealRun false none)) ∧ ((pealed [(7, pealRun true (some 0))]).runAt 0 5 0 = some (7, pealRun true (some 0)))
    ∧ (let s := { pealed [(7, pealRun true none)] with engine := { (pealed [(7, pealRun true none)]).engine with waits := [(1, strandKey 0 1 1, 4)] } }
       s.engine.waits = [((pealRun true none).peal, strandKey 0 1 1, 4)] ∧ s.runsOf 1 = [(7, pealRun true none)] ∧ s.engine.runs = [(7, pealRun true none)]) := by decide +kernel

/-- The device holds 4,096 flits of runs that have not begun; two runs of a peal, of which the second waits. -/
theorem witness_PealsRunAtEveryRank_limits :
    (let s := pealed []; let s := { s with engine := { s.engine with held := List.replicate 4096 (0, pealFlit 1) } }
     4096 ≤ s.heldEarly ∧ s.runAt 0 5 0 = none ∧ (pealFlit 1).notice = 0 ∧ s.argAt 0 = 0 ∧ ({ blankFlit .collective 0 0 0 with peal := some (pealFlit 1) } : Flit).dst = s.plat.device)
    ∧ (acting none [] 0x7000).heldEarly < 4096
    ∧ (let r := { pealRun true none with base := [0x7000] }; let r2 := { pealRun false none with seq := 1 }; let s := pealed [(7, r), (8, r2)]
       s.runAt 0 5 0 = some (7, r) ∧ s.pealOf r = some peal ∧ s.engine.runs = [(7, r), (8, r2)] ∧ r2.peal = r.peal ∧ s.engine.held = [] ∧ s.engine.waits = []) := by decide +kernel

/-- R402, R405: the run that has waited begins when the one before it ends. -/
theorem test_peal_queue : runs (.pealNotice 0 5 0 true) (pealed [(7, pealRun true none), (8, { pealRun false none with seq := 1 })])
      (fun t => (t.run 7).any (fun r => r.status == some 2) && (t.run 8).any fun r => r.begun) = true
    ∧ runs (.pealArrival 0 (pealFlit 1)) (let s := pealed []; { s with engine := { s.engine with held := List.replicate 4096 (0, pealFlit 1) } })
        (fun t => t.agenda == [{ due := 64, ev := .pealArrival 0 (pealFlit 1), arg := [] }]) = true := by decide +kernel

theorem test_peal_arrivals : runs (.pealArrival 0 (pealFlit 1)) (acting none [] 0x7000) (fun t => t.engine.held.length == 1) = true
    ∧ runs (.pealArrival 0 (pealFlit 0)) (acting none [] 0x7000) (fun t => (t.run 7).any fun r => r.status == some 1) = true
    ∧ runs (.pealNotice 0 5 0 true) (acting none [] 0x7000) (fun t => (t.run 7).any fun r => r.status == some 2) = true := by decide +kernel

/-- A range descriptor (R417) at 0x4000: from hash M, to the first slice of a device. -/
def calving (m dev extra : Nat) (f : Partition → Partition) : State :=
  let s := (wired (mapped 0x3f (regs [(1, 0x4000)]))).modPart 0 f
  { s with mem := State.reset.mem.writeBytes 0x4000 (leBytes 4 m ++ leBytes 4 extra ++ leBytes 2 dev) }

theorem witness_CalvingsMoveRanges :
    (let s := calving 0x80000000 0 0 id; let l := s.bytesAt 0x4000 64
     s.feature 6 = true ∧ s.src.pred 0 = true ∧ s.ready [srcA 1 true] [6] true = true ∧ s.partials = [] ∧ s.melts = [] ∧ (s.rd 1).toNat % 64 = 0 ∧ (s.rd 1).toNat < 2 ^ 63 ∧ piecesOf (s.rd 1).toNat 64 = [((s.rd 1).toNat, 64)]
      ∧ meets s .load 1 (s.rd 1) = (some { pa := 0x4000, target := .hbm 0x4000, melt := false, device := false }, none)
      ∧ descOk l = true ∧ ((s.part 0).ranges.any fun x => x.toNat / 2 ^ 32 == structNat l 0 4) = false ∧ (s.part 0).ranges.length < 64 ∧ structNat l 8 2 = s.plat.device
      ∧ 0 ∈ (s.part 0).slices ∧ structNat l 16 2 = 0 ∧ s.copies = [] ∧ s.movesOpen s.nextTag = false ∧ s.mustWalk 1 (s.rd 1) = false)
    ∧ descOk ((calving 0x80000000 0 1 id).bytesAt 0x4000 64) = false
    ∧ (((calving 0 0 0 id).part 0).ranges.any fun x => x.toNat / 2 ^ 32 == 0) = true
    ∧ (let s := calving 0x80000000 0 0 fun p => { p with inRange := (List.range 64).map fun i => (i, BitVec.ofNat 64 (i * 2 ^ 32 + 2 ^ 31)) }; 64 ≤ (s.part 0).ranges.length)
    ∧ (let s := calving 0x80000000 0 0 fun p => { p with quanta := 2 ^ 63 }; 0 ∉ (s.part 0).slices)
    ∧ (let s := calving 0x80000000 1 0 id; structNat (s.bytesAt 0x4000 64) 8 2 ≠ s.plat.device ∧ s.routeTo 1 0 none = some (0, [1]))
    ∧ (let c : Calving := { part := 0, uid := strandKey 0 1 1, tag := 4, lo := 1, hi := 2, entry := 0, devs := [1], open_ := [1], phase := 2, old := 0, origin := none }; let s := { there with calves := [(3, c)], arg := [0, 3] }
       s.arg = [0, 3] ∧ s.calves.get? 3 = some c ∧ c.part = 0 ∧ c.phase = 2 ∧ c.open_ ≠ [] ∧ there.calves.get? 3 = none
        ∧ { c with phase := 1 }.phase ≠ 2 ∧ ({ s with arg := [0, 3, 1] } : State).arg = [0, 3, 1])
    ∧ ({ there with plat := { there.plat with drvfeat := 0 } } : State).feature 6 = false := by decide +kernel

/-- A transfer of the range is under way. -/
theorem witness_CalvingsMoveRanges_busy :
    (let s := { calving 0 0 0 id with copies := [(7, { req := tupReq .take .w, slice := 0, age := 2, waiter := none })] }
     let c : Calving := { part := 0, uid := strandKey 0 1 1, tag := 4, lo := 0, hi := 2 ^ 32, entry := 0, devs := [], open_ := [], phase := 1, old := 0, origin := none }
     s.rangeBusy c = true ∧ c.phase = 1) := by decide +kernel

/-- A calving of the partition is under way; a range whose home is another device; one that waits for the device that holds it. -/
theorem witness_CalvingsMoveRanges_others :
    (let c : Calving := { part := 0, uid := strandKey 0 1 1, tag := 4, lo := 1, hi := 2, entry := 0, devs := [1], open_ := [1], phase := 0, old := 0, origin := none }
     let s := { calving 0x80000000 0 0 id with calves := [(3, c)] }
     (∃ x ∈ s.calves, x.2.part = s.me.id.part ∧ x.2.phase ≠ 2) ∧ { c with phase := 3 }.phase = 3 ∧ (s.core portCore).unacked = [] ∧ s.calves.get? 3 = some c ∧ c.phase ≠ 2 ∧ c.phase ≠ 3)
    ∧ (let s := calving 0x80000000 0 0 fun p => { p with inRange := [(0, BitVec.ofNat 64 (2 ^ 31 + 2 ^ 15))] }
       rangeEntry (s.part 0).inRange 0x80000000 = some (BitVec.ofNat 64 (2 ^ 31 + 2 ^ 15)) ∧ (BitVec.ofNat 64 (2 ^ 31 + 2 ^ 15) : Word).getLsbD 30 = false ∧ (2 ^ 31 + 2 ^ 15) / 2 ^ 15 % 2 ^ 15 ≠ s.plat.device
        ∧ ((s.part 0).ranges.any fun x => x.toNat / 2 ^ 32 == 0x80000000) = false ∧ 0 ∈ (s.part 0).slices)
    ∧ (let s := { calving 0 0 0 id with copies := [(7, { req := tupReq .take .w, slice := 0, age := 2, waiter := none })] }
       ∃ x ∈ s.copies, x.2.req.part = 0 ∧ 0 ≤ (homeHash x.2.req.f0 x.2.req.f1).toNat) := by decide +kernel

/-- R392, R418: the device that holds the range is asked to run the calving. -/
theorem test_calve_remote : runs (.calve 6 1 false 0) (calving 0x80000000 0 0 fun p => { p with inRange := [(0, BitVec.ofNat 64 (2 ^ 31 + 2 ^ 15))] })
      (fun t => ((t.core portCore).unacked.map fun u => (u.flit.kind, u.flit.dst, u.flit.size)) == [(.tuple, 1, 2)] && t.calves.all (fun c => c.2.old == 1 && c.2.phase == 3) && t.calves.length == 1
        && (t.part 0).rtgen == (there.part 0).rtgen) = true := by decide +kernel

/-- R417, R418: the generation rises; no slice of the partition is status 4, and MIN taken is 2. -/
theorem test_calve : runs (.calve 6 1 false 0) (calving 0x80000000 0 0 id) (fun t => (t.part 0).rtgen == (there.part 0).rtgen + 1 && (rangeEntries (t.part 0).inRange).length == 2) = true
    ∧ runs (.calve 6 1 false 0) (calving 0x80000000 1 0 id) (fun t => ((t.core portCore).unacked.map fun u => (u.flit.kind, u.flit.dst)) == [(.tuple, 1)]) = true
    ∧ runs .calveIncomplete { there with arg := [0, 3] } (fun t => t.calves.isEmpty) = true := by decide +kernel

-- ==== decoding and steps ====

/-- The detail and the word of a malformed bundle. -/
def malformed (depth : Nat) (w0 w1 : BitVec 32) : Option (Nat × BitVec 32) :=
  match decodeBundle depth w0 w1 with
  | .error m => some (m.detail.toNat, m.word)
  | .ok _ => none

def cReason (w0 w1 : BitVec 32) : Option Nat := match decodeC w0 w1 with | .error r => some r | .ok _ => none

def aReason (w : BitVec 32) : Option Nat := match decodeA w with | .error r => some r | .ok _ => none

theorem witness_DecodingReadsWhatIsEncoded : (Instr.mmas 8 2 3 5 22 true).isInstruction = true ∧ (Instr.mmas 8 2 3 5 22 true).wellFormed = true
    ∧ (Instr.lit 31 7 (2 ^ 48 - 1)).isInstruction = true ∧ (Instr.lit 31 7 (2 ^ 48 - 1)).wellFormed = true := by decide +kernel

theorem witness_WordsHaveOneMeaning : malformed 1 0x84050010 0 = none ∧ malformed 1 0x03000002 0x07200005 = none ∧ malformed 1 0x88280000 0x1234 = none := by decide +kernel

/-- R45: each reason of a bundle once, and the ends of the unassigned opcodes. -/
theorem witness_MalformedBundlesAreReported :
    (malformed 1 0x16000000 0 = some (0, 0x16000000) ∧ cReason 0x16000000 0 = some 0)
    ∧ (malformed 1 0 0x1c000000 = some (16, 0x1c000000) ∧ aReason 0x1c000000 = some 0)
    ∧ [11, 15, 20, 47, 63, 75, 79, 88, 95, 104, 111, 121, 127].all (fun n => cReason (BitVec.ofNat 32 (n * 2 ^ 24)) 0 == some 0 && (copOf (BitVec.ofNat 32 (n * 2 ^ 24))).toNat == n) = true
    ∧ [0x07, 0x1f, 0x22, 0x2f, 0x35, 0x37, 0x39, 0x3b, 0x3d, 0x3f].all (fun n => aReason (BitVec.ofNat 32 (n * 2 ^ 26)) == some 0 && (aopOf (BitVec.ofNat 32 (n * 2 ^ 26))).toNat == n) = true
    ∧ ((copOf 0x08280000).toNat = 8 ∧ loneBit 0x08280000 = false ∧ loneBit 0x84050010 = true ∧ cReason 0x84050010 0 = none ∧ malformed 1 0x84050010 1 = some (4, 0x84050010))
    ∧ malformed 1 0x3049000a 0x01253000 = some (6, 0x3049000a) ∧ malformed 0 0x86000000 0 = some (7, 0x86000000) ∧ cReason 0x86000000 0 = none
    ∧ malformed 1 0x89483200 0 = some (8, 0x89483200) ∧ cReason 0x89483200 0 = none := by decide +kernel

/-- R343: a UIRET beside an A-instruction with any predicate destination, p0 too, or with s3. -/
theorem test_uiret_pairs : malformed 1 0x72000050 0x140a9d49 = some (6, 0x72000050) ∧ malformed 1 0x72000050 0x04600005 = some (6, 0x72000050) ∧ malformed 1 0x72000050 0x04a00005 = none := by decide +kernel

/-- The device about to issue a given bundle. -/
def fetched (w0 w1 : BitVec 32) : State := State.reset.withBundle w0 w1

theorem witness_StepsIssueTheDecodedBundle :
    (let s := fetched 0 0x04600005
     s.agenda.all (fun d => !d.ready s.now) = true ∧ s.nextCore = some 0 ∧ s.mayIssue 0 = true ∧ s.boundary 0 = none ∧ (s.slot 0).fetched.isSome = true ∧ (s.core 0).q = 0
      ∧ ((s.slot 0).fetched.map (·.fault)) = some none ∧ (s.slot 0).status.tl < 2
      ∧ (match (s.slot 0).fetched with | some f => (match decode (s.slot 0).depth ((f.bytes.drop ((s.slot 0).pc.toNat % 64)).take 8) with | .ok b => b.c == .cnop && b.a == some (.addi 3 0 false 5) | .error _ => false) | none => false) = true
      ∧ runs (.addi 3 0 false 5) (s.atIssue 0) (fun u => u.flow == .seq && runs .cnop { u with flow := .seq } fun t => t.flow == .seq) = true ∧ runs .cnop (s.atIssue 0) (fun t => t.flow == .seq) = true)
    ∧ (let s := fetched 0x16000000 0; (match (s.slot 0).fetched with | some f => (match decode (s.slot 0).depth ((f.bytes.drop ((s.slot 0).pc.toNat % 64)).take 8) with | .ok _ => false | .error m => m.detail == 0) | none => false) = true)
    ∧ (let s := fetched 0xb4000008 0; s.nextCore = some 0 ∧ s.mayIssue 0 = true ∧ runs (.ifence 0) (s.atIssue 0) (fun t => t.flow != .wait && t.flow != .held) = true) := by decide +kernel

/-- A bundle that acts and awaits an answer (MTS of MSGOUT); no slot of the core waits or has a failure; a due step in recovery. -/
theorem witness_StepsIssueTheDecodedBundle_held :
    (let s := fetched 0x8a484100 0; let s := s.modSlot 0 fun t => regs [(1, 3)] { t with msgdst := 23 }
     (match (s.slot 0).fetched with | some f => (match decode 0 ((f.bytes.drop 0).take 8) with | .ok b => b.a == none && runs b.c (s.atIssue 0) (fun t => t.flow == .held) | .error _ => false) | none => false) = true
      ∧ (List.range 8).all (fun k => (s.slot k).front.wait == .none && !s.failing k && !s.interrupted k) = true)
    ∧ (let d : Due := { due := 0, ev := .create 0, arg := [] }; let s := { there with agenda := [] ++ d :: [], plat := { there.plat with recovery := true } }
       d.ready s.now = true ∧ s.works d.ev = false ∧ there.works d.ev = true) := by decide +kernel

/-- A word of a feature that is not accepted (XPOST), and a block whose fetch has faulted. -/
def absent : State := let s := fetched 0x61000000 0; { s with plat := { s.plat with drvfeat := 0 } }

theorem witness_StepsIssueTheDecodedBundle_faults :
    (let s := absent; (match (s.slot 0).fetched with | some f => s.absentWord ((f.bytes.drop ((s.slot 0).pc.toNat % 64)).take 8) == some 0x61000000 && f.fault == none | none => false) = true
      ∧ s.mayIssue 0 = true ∧ s.boundary 0 = none ∧ s.nextCore = some 0 ∧ (s.slot 0).status.tl < 2)
    ∧ (let s := fetched 0 0x04600005; (match (s.slot 0).fetched with | some f => s.absentWord ((f.bytes.drop ((s.slot 0).pc.toNat % 64)).take 8) == none | none => false) = true)
    ∧ (let s := (fetched 0 0).modSlot 0 fun t => { t with front := { t.front with fetch := some { va := 0, bytes := [], fault := some (3, 16, 0) } } }
       ((s.slot 0).fetched.map (·.fault)) = some (some (3, 16, 0)) ∧ s.mayIssue 0 = true ∧ s.boundary 0 = none) := by decide +kernel

/-- R427: an opcode of a feature that is not accepted is unassigned. -/
theorem test_step_absent : (match step absent with | .next t => (t.slot 0).status.tl == 1 && (t.slot 0).bank1.tcause == 3072 && (t.slot 0).bank1.tval == 0x61000000 | _ => false) = true := by decide +kernel

theorem test_step_pair : (match step (fetched 0 0x04600005) with | .next t => (t.slot 0).val 3 == 5 && (t.slot 0).pc == 8 && (t.core 0).q == 1 | _ => false) = true := by decide +kernel

theorem test_step_malformed : (match step (fetched 0x16000000 0) with | .next t => (t.slot 0).status.tl == 1 && (t.slot 0).bank1.tcause == 3072 && (t.slot 0).bank1.tval == 0x16000000 | _ => false) = true := by decide +kernel

theorem witness_StepsRunWhatIsDue :
    (let d : Due := { due := 0, ev := .cecountClear, arg := [] }; let s := { State.reset with agenda := [{ d with due := 5 }, d] }
     s.agenda = [{ d with due := 5 }] ++ d :: [] ∧ ({ d with due := 5 } : Due).ready s.now = false ∧ d.ready s.now = true) ∧ State.reset.agenda = [] ∧ State.reset.nextCore = none := by decide +kernel

/-- The memory of `plain` lists rising addresses and no zero byte, and a step follows. -/
theorem witness_StepsKeepMemoryCanonical : plain.mem.wf = true ∧ (match step plain with | .next _ => true | _ => false) = true := by decide +kernel

theorem test_reset_state : State.reset.mem.wf = true ∧ (State.reset.part 5).state = .free ∧ State.reset.partWord 5 0x10 = 0x10000 := by decide +kernel

end Sys2Proof.Tests
end

/-! PROOF. Guards (R26): which instructions look at their guard before anything else, and what a false guard leaves of them. -/

namespace Sys2Proof

-- ==== the guard of an instruction ====

/-- The guard field of the instructions that look at it before anything else (R26). SEL's G is no guard (R75); RET looks at its frame depth
first (R39, R89), and the instructions of a feature whether the driver has accepted it (R427): see `Instr.featureGuard`. -/
def Instr.guardField : Instr → Option PReg
  | .jmpr _ _ g | .callr _ _ g | .lit _ g _ | .lith _ g _ | .mfs _ _ g | .mts _ _ _ g | .fence g _ | .ifence g | .cflush _ _ g _
  | .cinv _ _ g _ | .red _ _ _ _ _ g _ _ | .cas _ _ _ _ _ g _ _ | .amoAdd _ _ _ _ _ g _ _ | .amoSwap _ _ _ _ _ g _ _
  | .amoAnd _ _ _ _ _ g _ _ | .amoOr _ _ _ _ _ g _ _ | .amoXor _ _ _ _ _ g _ _ | .amoMin _ _ _ _ _ g _ _ | .amoMax _ _ _ _ _ g _ _
  | .tdep _ _ _ _ _ g _ | .trd _ _ _ _ _ g _ | .ttake _ _ _ _ _ g _ | .tcancel _ _ _ g | .mint _ _ g | .mintC _ _ _ g | .land _ _ _ _ _ g _
  | .unmint _ _ _ g | .fillm _ _ _ _ g _ | .ldM _ _ _ _ _ g | .meltq _ _ _ g | .spawn _ _ _ _ _ g _ | .exit g | .yield g | .suspend _ _ g
  | .barset _ _ _ _ g _ | .bar _ _ g _ | .barq _ _ _ g _ | .setpri _ _ g | .trap _ g | .rett g | .uiret g | .tlbinv _ _ _ _ g _
  | .tlbprobe _ _ _ g | .ctxsave _ _ _ g | .ctxload _ _ _ g | .halt g | .add _ _ _ _ _ g | .sub _ _ _ _ _ g | .mul _ _ _ _ _ g
  | .mulh _ _ _ _ _ g | .div _ _ _ _ _ g | .divu _ _ _ _ _ g | .rem _ _ _ _ _ g | .remu _ _ _ _ _ g | .and _ _ _ _ _ g | .or _ _ _ _ _ g
  | .xor _ _ _ _ _ g | .andn _ _ _ _ _ g | .shl _ _ _ _ _ g | .shr _ _ _ _ _ g | .sar _ _ _ _ _ g | .rot _ _ _ _ _ g | .clz _ _ _ g
  | .popc _ _ _ g | .min _ _ _ _ _ g | .max _ _ _ _ _ g | .minu _ _ _ _ _ g | .maxu _ _ _ _ _ g | .mov _ _ _ g | .cmp _ _ _ _ _ g _
  | .pand _ _ _ g | .por _ _ _ g | .pnot _ _ g | .fadd _ _ _ _ _ g | .fsub _ _ _ _ _ g | .fmul _ _ _ _ _ g | .fdiv _ _ _ _ _ g
  | .fsqrt _ _ _ g | .fmin _ _ _ _ _ g | .fmax _ _ _ _ _ g | .fsgn _ _ _ _ _ g | .fclass _ _ _ g | .fcvt _ _ _ _ g | .icvt _ _ _ _ g
  | .ffma _ _ _ _ _ g | .fcmp _ _ _ _ _ g _ | .hset _ _ _ _ g | .hget _ _ _ _ g | .rset _ _ _ g | .rpush _ g | .lease _ g | .unlease g
  | .engstat _ _ _ _ _ g | .resume _ _ _ _ g => some g
  | _ => none

/-- The feature bit that an instruction needs (R427), with the guard that it looks at once the driver has accepted the feature. -/
def Instr.featureGuard : Instr → Option (Nat × PReg)
  | .ffence _ _ _ _ _ g _ => some (3, g)
  | .xpost _ _ _ _ _ g | .xflush _ _ _ g | .xwait _ _ _ _ _ g => some (4, g)
  | .pealLoad _ _ _ g | .pealRun _ _ _ _ _ g | .pealWait _ _ _ g => some (5, g)
  | .calve _ _ _ g => some (6, g)
  | .foldset _ _ g => some (7, g)
  | _ => none

end Sys2Proof

namespace Sys2Proof.Machine

-- ==== every such meaning is a guarded one ====

/-- R26: the meaning of an instruction with a guard is an effect under that guard: operands, waits and traps are all inside it. The
split on `h` leaves the constructors that have one. -/
theorem exec_eq_guarded {i : Instr} {g : PReg} (s : State) (h : i.guardField = some g) :
    ∃ k, exec i s = .next (s.guarded g k) := by
  cases i <;> cases h
  all_goals exact ⟨_, rfl⟩

/-- R427: the meaning of a feature's instruction asks for the feature, and then for its guard. -/
theorem exec_eq_needs_guarded {i : Instr} {b : Nat} {g : PReg} (s : State) (h : i.featureGuard = some (b, g)) :
    ∃ k, exec i s = .next (s.needs b (s.guarded g k)) := by
  cases i <;> cases h
  all_goals exact ⟨_, rfl⟩

/-- R89: a RET of a frame that has a caller is guarded like any other instruction. -/
theorem exec_ret_eq_guarded (s : State) (g : PReg) (h : s.me.depth ≠ 0) : ∃ k, exec (.ret g) s = .next (s.guarded g k) :=
  ⟨_, congrArg Host.Outcome.next (if_neg h)⟩

theorem State.needs_of_feature {s : State} {b : Nat} (k : State) (h : s.feature b = true) : s.needs b k = k :=
  if_pos h

-- ==== a false guard ====

/-- What a false guard leaves of any guarded effect: the run goes on with the next bundle, and nothing else of the state differs. -/
theorem next_of_guard_false {s : State} {g : PReg} {o : Out} (hg : s.src.pred g = false) (h : ∃ k, o = .next (s.guarded g k)) :
    o = .next { s with flow := .seq } := by
  obtain ⟨k, rfl⟩ := h
  exact congrArg Host.Outcome.next (State.guarded_false k hg)

theorem exec_of_guard_false {s : State} {i : Instr} {g : PReg} (h : i.guardField = some g) (hg : s.src.pred g = false) :
    exec i s = .next { s with flow := .seq } :=
  next_of_guard_false hg (exec_eq_guarded s h)

theorem exec_ret_of_guard_false {s : State} {g : PReg} (hd : s.me.depth ≠ 0) (hg : s.src.pred g = false) :
    exec (.ret g) s = .next { s with flow := .seq } :=
  next_of_guard_false hg (exec_ret_eq_guarded s g hd)

theorem exec_of_featureGuard_false {s : State} {i : Instr} {b : Nat} {g : PReg} (h : i.featureGuard = some (b, g))
    (hf : s.feature b = true) (hg : s.src.pred g = false) : exec i s = .next { s with flow := .seq } := by
  obtain ⟨k, hk⟩ := exec_eq_needs_guarded s h
  exact next_of_guard_false hg ⟨k, hk.trans (congrArg Host.Outcome.next (State.needs_of_feature _ hf))⟩

/-- A function that gives the same value along a list gives it at each of its members. -/
theorem eq_of_mem_of_map_eq {α β : Type} {f : α → β} {v : β} {l : List α} {i : α} (h : i ∈ l) (hl : l.map f = l.map fun _ => v) :
    f i = v :=
  List.map_inj_left.1 hl i h

/-- Settles O8: the listed instructions are those of `Instr.guardField` and `Instr.featureGuard`, and RET below the outermost frame. -/
theorem falseGuardHasNoEffect : Obligations.FalseGuardHasNoEffect := by
  intro s g d a b h p q x y ix l sz sc m op k cc fc fk ik w r n i hg hi
  simp only [List.mem_append, List.mem_ite_nil_right] at hi
  rcases hi with ((((((hi | hi) | ⟨hd, hi⟩) | ⟨hf, hi⟩) | ⟨hf, hi⟩) | ⟨hf, hi⟩) | ⟨hf, hi⟩) | ⟨hf, hi⟩
  · exact exec_of_guard_false (eq_of_mem_of_map_eq hi rfl) hg
  · exact exec_of_guard_false (eq_of_mem_of_map_eq hi rfl) hg
  · obtain rfl := List.mem_singleton.1 hi
    exact exec_ret_of_guard_false hd hg
  all_goals exact exec_of_featureGuard_false (eq_of_mem_of_map_eq hi rfl) hf hg

end Sys2Proof.Machine

/-! PROOF. Words (R37-R49): a word that one of the two opcode maps accepts is the encoding of the instruction that the map reads from it, so
the words of a bundle that decodes are those of its instructions. -/

namespace Sys2Proof

-- ==== a word is its fields, joined (R41, R44) ====

theorem field_append_field {w : BitVec 32} {hi lo m n : Nat} (h : hi = lo + n) :
    field w hi m ++ field w lo n = field w lo (m + n) :=
  BitVec.extractLsb'_append_extractLsb'_eq_extractLsb' h

theorem bit_bitAt (w : BitVec 32) (i : Nat) : bit (bitAt w i) = field w i 1 := by
  ext j hj
  simp [bit, bitAt, field, Nat.lt_one_iff.1 hj]

theorem field_all (w : BitVec 32) : field w 0 32 = w := by
  simp [field]

theorem CR.pack_unpack (w : BitVec 32) : CR.pack (loneBit w) (copOf w) (CR.unpack w) = w := by
  simp only [CR.pack, CR.unpack, loneBit, copOf, bit_bitAt]
  iterate 8 rw [field_append_field]
  · exact field_all w
  all_goals rfl

theorem CM.pack_unpack (w : BitVec 32) : CM.pack (loneBit w) (copOf w) (CM.unpack w) = w := by
  simp only [CM.pack, CM.unpack, loneBit, copOf, bit_bitAt]
  iterate 7 rw [field_append_field]
  · exact field_all w
  all_goals rfl

theorem CB.pack_unpack (w : BitVec 32) : CB.pack (loneBit w) (copOf w) (CB.unpack w) = w := by
  simp only [CB.pack, CB.unpack, loneBit, copOf, bit_bitAt]
  iterate 4 rw [field_append_field]
  · exact field_all w
  all_goals rfl

theorem AR.pack_unpack (w : BitVec 32) : AR.pack (aopOf w) (AR.unpack w) = w := by
  simp only [AR.pack, AR.unpack, aopOf, bit_bitAt]
  iterate 7 rw [field_append_field]
  · exact field_all w
  all_goals rfl

theorem AI.pack_unpack (w : BitVec 32) : AI.pack (aopOf w) (AI.unpack w) = w := by
  simp only [AI.pack, AI.unpack, aopOf, bit_bitAt]
  iterate 4 rw [field_append_field]
  · exact field_all w
  all_goals rfl

theorem AE.pack_unpack (w : BitVec 32) : AE.pack (aopOf w) (AE.unpack w) = w := by
  simp only [AE.pack, AE.unpack, aopOf, bit_bitAt]
  iterate 7 rw [field_append_field]
  · exact field_all w
  all_goals rfl

-- ==== a C-word without its L bit (R37) ====

/-- The word with bit 31 clear: the C-word as `encode` writes it, whether its bundle is lone or not. -/
def clearL (w : BitVec 32) : BitVec 32 := (w.setWidth 31).setWidth 32

theorem loneBit_eq_getElem (w : BitVec 32) : loneBit w = w[31] := rfl

@[simp] theorem loneBit_clearL (w : BitVec 32) : loneBit (clearL w) = false := by
  simp [loneBit, bitAt, clearL]

theorem bitAt_clearL {w : BitVec 32} {i : Nat} (h : i < 31) : bitAt (clearL w) i = bitAt w i := by
  simp [bitAt, clearL, h]
  omega

theorem field_clearL {w : BitVec 32} {lo n : Nat} (h : lo + n ≤ 31) : field (clearL w) lo n = field w lo n := by
  ext j hj
  have hb : lo + j < 31 := by omega
  simp [field, clearL, hb]
  omega

theorem clearL_of_not_lone {w : BitVec 32} (h : loneBit w = false) : clearL w = w := by
  ext i hi
  by_cases hi31 : i = 31
  · subst hi31
    simp [clearL, ← loneBit_eq_getElem, h]
  · have hb : i < 31 := by omega
    simp [clearL, hb, BitVec.getLsbD_eq_getElem hi]

theorem asLone_clearL {w : BitVec 32} (h : loneBit w = true) : asLone (clearL w) = w := by
  have hL : 0x80000000 = BitVec.twoPow 32 31 := rfl
  ext i hi
  by_cases hi31 : i = 31
  · subst hi31
    simp [asLone, hL, ← loneBit_eq_getElem, h]
  · have hb : i < 31 := by omega
    simp [asLone, clearL, hL, hi31, hb, BitVec.getLsbD_eq_getElem hi]

theorem CR.eq_pack_of_lone {w : BitVec 32} {n : Nat} (h : (copOf w).toNat = n) (hl : loneBit w = true) :
    w = CR.pack true (BitVec.ofNat 7 n) (CR.unpack w) := by
  rw [← hl, ← (BitVec.toNat_eq_nat.1 h).2, CR.pack_unpack]

theorem CR.clearL_eq_pack {w : BitVec 32} {n : Nat} (h : (copOf w).toNat = n) :
    clearL w = CR.pack false (BitVec.ofNat 7 n) (CR.unpack w) := by
  rw [← (BitVec.toNat_eq_nat.1 h).2]
  simpa [copOf, CR.unpack, field_clearL, bitAt_clearL] using (CR.pack_unpack (clearL w)).symm

theorem CM.clearL_eq_pack {w : BitVec 32} {n : Nat} (h : (copOf w).toNat = n) :
    clearL w = CM.pack false (BitVec.ofNat 7 n) (CM.unpack w) := by
  rw [← (BitVec.toNat_eq_nat.1 h).2]
  simpa [copOf, CM.unpack, field_clearL, bitAt_clearL] using (CM.pack_unpack (clearL w)).symm

theorem CB.clearL_eq_pack {w : BitVec 32} {n : Nat} (h : (copOf w).toNat = n) :
    clearL w = CB.pack false (BitVec.ofNat 7 n) (CB.unpack w) := by
  rw [← (BitVec.toNat_eq_nat.1 h).2]
  simpa [copOf, CB.unpack, field_clearL, bitAt_clearL] using (CB.pack_unpack (clearL w)).symm

-- ==== sub-fields: what a code was read from, it writes (R47-R49) ====

@[simp] theorem Size.bits_ofBits (x : BitVec 2) : (Size.ofBits x).bits = x := by
  revert x; decide

@[simp] theorem WSize.bit_ofBit (b : Bool) : (WSize.ofBit b).bit = b := by
  cases b <;> rfl

@[simp] theorem Scope.bits_ofBits (x : BitVec 3) : (Scope.ofBits x).bits = x := by
  revert x; decide

theorem TMode.bits_of_ofBits {x : BitVec 2} {m : TMode} : TMode.ofBits x = some m → m.bits = x := by
  revert x m; decide

theorem RedOp.bits_of_ofBits {x : BitVec 5} {op : RedOp} : RedOp.ofBits x = some op → op.bits = x := by
  revert x op; decide

theorem TlbKind.bits_of_ofBits {x : BitVec 2} {k : TlbKind} : TlbKind.ofBits x = some k → k.bits = x := by
  revert x k; decide

theorem Cond.bits_of_ofBits {x : BitVec 6} {cc : Cond} : Cond.ofBits x = some cc → cc.bits = x := by
  revert x cc; decide

theorem FcvtKind.bits_of_ofBits {x : BitVec 5} {k : FcvtKind} : FcvtKind.ofBits x = some k → k.bits = x := by
  revert x k; decide

theorem IcvtKind.bits_of_ofBits {x : BitVec 5} {k : IcvtKind} : IcvtKind.ofBits x = some k → k.bits = x := by
  revert x k; decide

theorem RedKind.bits_of_ofBits {x : BitVec 4} {op : RedKind} : RedKind.ofBits x = some op → op.bits = x := by
  revert x op; decide

theorem ShiftKind.bits_of_ofBits {x : BitVec 4} {k : ShiftKind} : ShiftKind.ofBits x = some k → k.bits = x := by
  revert x k; decide

theorem FCond.ofNat_code_of_ofCode {n : Nat} {x : BitVec n} {cc : FCond} (h : FCond.ofCode x.toNat = some cc) :
    BitVec.ofNat n cc.code = x := by
  have hc : cc.code = x.toNat := by
    unfold FCond.ofCode at h
    grind [FCond.code]
  rw [hc, BitVec.ofNat_toNat, BitVec.setWidth_eq]

theorem up_low {x : BitVec 5} {n : Nat} (h : fits x n = true) : up (low x n) = x := by
  simp only [fits, decide_eq_true_eq] at h
  apply BitVec.eq_of_toNat_eq
  simp [up, low, Nat.mod_eq_of_lt h]
  omega

-- ==== what one word's answer says (R45) ====

theorem word_eq_ok {z : Bool} {ins : Option Instr} {i : Instr} : word z ins = .ok i ↔ z = true ∧ ins = some i := by
  cases z <;> cases ins <;> simp [word]

theorem onlyIf_eq_some {c : Bool} {i j : Instr} : onlyIf c i = some j ↔ c = true ∧ i = j := by
  cases c <;> simp [onlyIf]

theorem word_oneSource_eq_ok {b : Reg} {xb : Bool} {i j : Instr} :
    word (b == 0 && !xb) (some i) = .ok j ↔ b = 0 ∧ xb = false ∧ i = j := by
  simp [word_eq_ok, and_assoc]

/-- R49: what `aeWord` checks. -/
theorem aeWord_eq_ok {f : AE} {usesA usesB : Bool} {i j : Instr} :
    aeWord f usesA usesB i = .ok j
      ↔ (usesA || f.ha == 0) = true ∧ (usesB || f.hb == 0) = true ∧ scOk f.sc f.xs = true ∧ i = j := by
  simp only [aeWord, word_eq_ok, onlyIf_eq_some, scOk, Bool.and_eq_true]
  exact ⟨fun ⟨⟨⟨hA, hB⟩, hxs⟩, hsc, hi⟩ => ⟨hA, hB, ⟨hsc, hxs⟩, hi⟩, fun ⟨hA, hB, ⟨hsc, hxs⟩, hi⟩ => ⟨⟨⟨hA, hB⟩, hxs⟩, hsc, hi⟩⟩

theorem aeWord_usesA_usesB_eq_ok {f : AE} {i j : Instr} :
    aeWord f true true i = .ok j ↔ scOk f.sc f.xs = true ∧ i = j := by
  simp only [aeWord_eq_ok, Bool.true_or, true_and]

theorem aeWord_usesA_eq_ok {f : AE} {i j : Instr} :
    aeWord f true false i = .ok j ↔ f.hb = 0 ∧ scOk f.sc f.xs = true ∧ i = j := by
  simp only [aeWord_eq_ok, Bool.true_or, Bool.false_or, true_and, beq_iff_eq]

theorem aeWord_usesNone_eq_ok {f : AE} {i j : Instr} :
    aeWord f false false i = .ok j ↔ f.ha = 0 ∧ f.hb = 0 ∧ scOk f.sc f.xs = true ∧ i = j := by
  simp only [aeWord_eq_ok, Bool.false_or, beq_iff_eq]

/-- R45-R49: the opcode maps can express `i`, and its words are `c`. -/
def Instr.CodedAs (i : Instr) (c : Code) : Prop := i.wellFormed = true ∧ encode i = some c

theorem Instr.CodedAs.of_eq {i : Instr} {c d : Code} (hw : i.wellFormed = true) (he : encode i = some d) (hd : d = c) :
    i.CodedAs c :=
  ⟨hw, hd ▸ he⟩

-- ==== A-words (R38, R48): every bit of the word is a field of the instruction, or has the value that the map asks for ====

theorem decodeInt_codedAs {f : AR} {i : Instr} (h : decodeInt f = .ok i) : i.CodedAs (.a (AR.pack 0x00 f)) := by
  obtain ⟨d, a, b, xa, xb, g, fn⟩ := f
  unfold decodeInt at h
  split at h
  case h_25 => cases h
  all_goals
    rename_i hfn
    obtain rfl := (BitVec.toNat_eq_nat.1 hfn).2
  -- CLZ, POPC and MOV have one source
  case h_17 | h_18 | h_23 =>
    obtain ⟨rfl, rfl, rfl⟩ := word_oneSource_eq_ok.1 h
    exact ⟨rfl, rfl⟩
  all_goals
    cases h
    exact ⟨rfl, rfl⟩

theorem decodeV30_codedAs {f : AE} {i : Instr} (h : decodeV30 f = .ok i) : i.CodedAs (.a (AE.pack 0x30 f)) := by
  obtain ⟨hd, ha, hb, hl, sc, xs, fn⟩ := f
  unfold decodeV30 at h
  split at h
  case h_15 => cases h
  all_goals
    rename_i hfn
    obtain rfl := (BitVec.toNat_eq_nat.1 hfn).2
  case h_1 | h_2 | h_3 | h_4 | h_5 | h_6 | h_14 =>
    obtain ⟨hsc, rfl⟩ := aeWord_usesA_usesB_eq_ok.1 h
    exact ⟨hsc, rfl⟩
  all_goals
    obtain ⟨rfl, hsc, rfl⟩ := aeWord_usesA_eq_ok.1 h
    exact ⟨hsc, rfl⟩

theorem decodeV31_codedAs {f : AE} {i : Instr} (h : decodeV31 f = .ok i) : i.CodedAs (.a (AE.pack 0x31 f)) := by
  obtain ⟨hd, ha, hb, hl, sc, xs, fn⟩ := f
  unfold decodeV31 at h
  split at h
  case h_10 => cases h
  all_goals
    rename_i hfn
    obtain rfl := (BitVec.toNat_eq_nat.1 hfn).2
  case h_5 | h_6 | h_7 =>
    obtain ⟨rfl, hsc, rfl⟩ := aeWord_usesA_eq_ok.1 h
    exact ⟨hsc, rfl⟩
  all_goals
    obtain ⟨hsc, rfl⟩ := aeWord_usesA_usesB_eq_ok.1 h
    exact ⟨hsc, rfl⟩

theorem decodeM38_codedAs {f : AE} {i : Instr} (h : decodeM38 f = .ok i) : i.CodedAs (.a (AE.pack 0x38 f)) := by
  obtain ⟨hd, ha, hb, hl, sc, xs, fn⟩ := f
  unfold decodeM38 at h
  split at h
  case h_6 => cases h
  all_goals
    rename_i hfn
    obtain rfl := (BitVec.toNat_eq_nat.1 hfn).2
  case h_1 | h_2 =>
    obtain ⟨hsc, rfl⟩ := aeWord_usesA_usesB_eq_ok.1 h
    exact ⟨hsc, rfl⟩
  case h_3 =>
    obtain ⟨rfl, rfl, hsc, rfl⟩ := aeWord_usesNone_eq_ok.1 h
    exact ⟨hsc, rfl⟩
  case h_4 | h_5 =>
    obtain ⟨rfl, hsc, rfl⟩ := aeWord_usesA_eq_ok.1 h
    exact ⟨hsc, rfl⟩

theorem decodeC3C_codedAs {f : AE} {i : Instr} (h : decodeC3C f = .ok i) : i.CodedAs (.a (AE.pack 0x3C f)) := by
  obtain ⟨hd, ha, hb, hl, sc, xs, fn⟩ := f
  unfold decodeC3C at h
  split at h
  case h_5 => cases h
  all_goals
    rename_i hfn
    obtain rfl := (BitVec.toNat_eq_nat.1 hfn).2
  case h_2 | h_3 =>
    obtain ⟨hsc, rfl⟩ := aeWord_usesA_usesB_eq_ok.1 h
    exact ⟨hsc, rfl⟩
  case h_1 | h_4 =>
    obtain ⟨rfl, hsc, rfl⟩ := aeWord_usesA_eq_ok.1 h
    exact ⟨hsc, rfl⟩

theorem decodeFp_codedAs {f : AR} {i : Instr} (h : decodeFp f = .ok i) : i.CodedAs (.a (AR.pack 0x20 f)) := by
  obtain ⟨d, a, b, xa, xb, g, fn⟩ := f
  unfold decodeFp at h
  split at h
  case h_13 => cases h
  all_goals
    rename_i hfn
    obtain rfl := (BitVec.toNat_eq_nat.1 hfn).2
  -- FSQRT and FCLASS have one source
  case h_5 | h_9 =>
    obtain ⟨rfl, rfl, rfl⟩ := word_oneSource_eq_ok.1 h
    exact ⟨rfl, rfl⟩
  -- FCVT and ICVT name their kind in B
  case h_10 =>
    obtain ⟨hz, hi⟩ := word_eq_ok.1 h
    obtain ⟨k, hk, hi⟩ := Option.bind_eq_some_iff.1 hi
    obtain rfl : xb = false := by simpa using hz
    cases hi
    obtain rfl := FcvtKind.bits_of_ofBits hk
    exact ⟨rfl, rfl⟩
  case h_11 =>
    obtain ⟨hz, hi⟩ := word_eq_ok.1 h
    obtain ⟨k, hk, hi⟩ := Option.bind_eq_some_iff.1 hi
    obtain rfl : xb = false := by simpa using hz
    cases hi
    obtain rfl := IcvtKind.bits_of_ofBits hk
    exact ⟨rfl, rfl⟩
  all_goals
    cases h
    exact ⟨rfl, rfl⟩

theorem decodeCmp_codedAs {f : AR} {i : Instr} (h : decodeCmp f = .ok i) : i.CodedAs (.a (AR.pack 0x05 f)) := by
  unfold decodeCmp at h
  split at h
  · next cc hcc =>
    obtain ⟨-, hi⟩ := word_eq_ok.1 h
    obtain ⟨hd, rfl⟩ := onlyIf_eq_some.1 hi
    exact .of_eq rfl rfl (by simp [up_low hd, Cond.bits_of_ofBits hcc])
  · cases h

theorem decodeFcmp_codedAs {f : AR} {i : Instr} (h : decodeFcmp f = .ok i) : i.CodedAs (.a (AR.pack 0x21 f)) := by
  unfold decodeFcmp at h
  split at h
  · next cc hcc =>
    obtain ⟨-, hi⟩ := word_eq_ok.1 h
    obtain ⟨hd, rfl⟩ := onlyIf_eq_some.1 hi
    exact .of_eq rfl rfl (by simp [up_low hd, FCond.ofNat_code_of_ofCode hcc])
  · cases h

theorem decodePred_codedAs {f : AR} {i : Instr} (h : decodePred f = .ok i) : i.CodedAs (.a (AR.pack 0x06 f)) := by
  obtain ⟨d, a, b, xa, xb, g, fn⟩ := f
  unfold decodePred at h
  split at h
  case h_4 => cases h
  all_goals
    rename_i hfn
    obtain rfl := (BitVec.toNat_eq_nat.1 hfn).2
    obtain ⟨hz, hi⟩ := word_eq_ok.1 h
    obtain ⟨hfit, rfl⟩ := onlyIf_eq_some.1 hi
    simp only [Bool.and_eq_true, beq_iff_eq, Bool.not_eq_true'] at hz hfit
  case h_1 | h_2 =>
    obtain ⟨rfl, rfl⟩ := hz
    obtain ⟨⟨hd, ha⟩, hb⟩ := hfit
    exact .of_eq rfl rfl (by simp [up_low hd, up_low ha, up_low hb])
  case h_3 =>
    obtain ⟨⟨rfl, rfl⟩, rfl⟩ := hz
    obtain ⟨hd, ha⟩ := hfit
    exact .of_eq rfl rfl (by simp [up_low hd, up_low ha])

theorem decodeH3E_codedAs {f : AR} {i : Instr} (h : decodeH3E f = .ok i) : i.CodedAs (.a (AR.pack 0x3E f)) := by
  obtain ⟨d, a, b, xa, xb, g, fn⟩ := f
  unfold decodeH3E at h
  split at h
  case h_9 => cases h
  all_goals
    rename_i hfn
    obtain rfl := (BitVec.toNat_eq_nat.1 hfn).2
    obtain ⟨hz, hi⟩ := word_eq_ok.1 h
    simp only [Bool.and_eq_true, beq_iff_eq, Bool.not_eq_true', eq_self] at hz
  -- HSET
  case h_1 =>
    obtain ⟨hfit, rfl⟩ := onlyIf_eq_some.1 hi
    obtain ⟨hd, hb⟩ := Bool.and_eq_true_iff.1 hfit
    exact .of_eq rfl rfl (by simp [hz, up_low hd, up_low hb])
  -- HGET
  case h_2 =>
    obtain ⟨hfit, rfl⟩ := onlyIf_eq_some.1 hi
    obtain ⟨ha, hb⟩ := Bool.and_eq_true_iff.1 hfit
    exact .of_eq rfl rfl (by simp [hz, up_low ha, up_low hb])
  -- RSET, RPUSH
  case h_3 | h_4 =>
    obtain ⟨hd, rfl⟩ := onlyIf_eq_some.1 hi
    exact .of_eq rfl rfl (by simp [hz, up_low hd])
  -- LEASE
  case h_5 =>
    obtain ⟨hn, rfl⟩ := onlyIf_eq_some.1 hi
    exact .of_eq hn rfl (by simp [hz])
  -- UNLEASE, ENGSTAT, RESUME
  case h_6 | h_7 | h_8 =>
    cases hi
    exact .of_eq rfl rfl (by simp [hz])

/-- The shift amount of SHLI is the low six bits of the immediate, and the other nine are zero (R48). -/
theorem zero_append_low6 {n : BitVec 15} (h : n.extractLsb' 6 9 = 0) : 0#9 ++ n.extractLsb' 0 6 = n := by
  change (0 : BitVec 9) ++ _ = n
  rw [← h]
  exact (BitVec.extractLsb'_append_extractLsb'_eq_extractLsb' rfl).trans BitVec.extractLsb'_eq_self

theorem decodeA_codedAs {w : BitVec 32} {i : Instr} (h : decodeA w = .ok i) : i.CodedAs (.a w) := by
  unfold decodeA at h
  split at h
  case h_18 => cases h
  all_goals
    rename_i hop
    replace hop := (BitVec.toNat_eq_nat.1 hop).2
    have hAR := hop ▸ AR.pack_unpack w
    have hAI := hop ▸ AI.pack_unpack w
    have hAE := hop ▸ AE.pack_unpack w
  case h_1 => exact hAR ▸ decodeInt_codedAs h
  case h_6 => exact hAR ▸ decodeCmp_codedAs h
  case h_7 => exact hAR ▸ decodePred_codedAs h
  case h_8 => exact hAR ▸ decodeFp_codedAs h
  case h_9 => exact hAR ▸ decodeFcmp_codedAs h
  case h_10 => exact hAE ▸ decodeV30_codedAs h
  case h_11 => exact hAE ▸ decodeV31_codedAs h
  case h_15 => exact hAE ▸ decodeM38_codedAs h
  case h_16 => exact hAE ▸ decodeC3C_codedAs h
  case h_17 => exact hAR ▸ decodeH3E_codedAs h
  -- ADDI, ANDI, ORI
  case h_2 | h_3 | h_4 =>
    cases h
    exact .of_eq rfl rfl (congrArg Code.a hAI)
  -- SHLI
  case h_5 =>
    obtain ⟨hz, hi⟩ := word_eq_ok.1 h
    cases hi
    exact .of_eq rfl rfl (congrArg Code.a (by rw [zero_append_low6 (eq_of_beq hz)]; exact hAI))
  -- VCMP
  case h_12 =>
    dsimp only at h
    split at h
    · next cc hcc =>
      obtain ⟨hsc, rfl⟩ := aeWord_usesA_usesB_eq_ok.1 h
      exact .of_eq hsc rfl (congrArg Code.a (by rw [FCond.ofNat_code_of_ofCode hcc]; exact hAE))
    · cases h
  -- VRED
  case h_13 =>
    dsimp only at h
    split at h
    · next op hopr =>
      obtain ⟨hb, hsc, rfl⟩ := aeWord_usesA_eq_ok.1 h
      exact .of_eq hsc rfl (congrArg Code.a (by rw [RedKind.bits_of_ofBits hopr, ← hb]; exact hAE))
    · cases h
  -- VSHIFT
  case h_14 =>
    dsimp only at h
    split at h
    · next k hk =>
      obtain ⟨hsc, rfl⟩ := aeWord_usesA_usesB_eq_ok.1 h
      exact .of_eq hsc rfl (congrArg Code.a (by rw [ShiftKind.bits_of_ofBits hk]; exact hAE))
    · cases h

-- ==== M of a C-word (R47) ====

@[simp] theorem bit_append_low3 (m : BitVec 4) : bit m[3] ++ m.extractLsb' 0 3 = m := by
  revert m; decide

theorem append_low3 {m : BitVec 4} {b : Bool} (h : m[3] = b) : bit b ++ m.extractLsb' 0 3 = m :=
  h ▸ bit_append_low3 m

theorem zero_append_low2 {m : BitVec 4} : m.extractLsb' 2 2 = 0 → 0#2 ++ m.extractLsb' 0 2 = m := by
  revert m; decide

theorem append_bit_append_low2 {m : BitVec 4} : m[3] = false → bit false ++ bit m[2] ++ m.extractLsb' 0 2 = m := by
  revert m; decide

theorem Size.ofBits_beq_d (x : BitVec 2) : (Size.ofBits x == .d) = (x == 3) := by
  revert x; decide

theorem WSize.ofBit_beq_d (b : Bool) : (WSize.ofBit b == .d) = b := by
  cases b <;> rfl

/-- R169, R229: the zero fields of a tuple operation are those of its mode. -/
theorem tupOk_of_ofBits {x : BitVec 2} {md : TMode} {d b : Reg} {xb : Bool} (hmd : TMode.ofBits x = some md)
    (hd : md = .c → d = 0) (hb : (x = 2 ∨ x = 3) ∨ b = 0 ∧ xb = false) : tupOk d b xb md = true := by
  have hx := TMode.bits_of_ofBits hmd
  cases md with
  | c => simp [tupOk, hd rfl]
  | p | w =>
    subst hx
    obtain ⟨rfl, rfl⟩ := hb.resolve_left (by decide)
    rfl

-- ==== C-words (R38, R46) ====

theorem noLit_eq_ok {w0 w1 : BitVec 32} {r : Except Nat Instr} {i : Instr} :
    noLit w0 w1 r = .ok i ↔ r = .ok i ∧ (loneBit w0 = true → w1 = 0) := by
  cases r with
  | error e => simp [noLit]
  | ok j =>
    simp only [noLit]
    split <;> simp_all

theorem noLit_word_eq_ok {w0 w1 : BitVec 32} {z : Bool} {ins : Option Instr} {i : Instr} :
    noLit w0 w1 (word z ins) = .ok i ↔ z = true ∧ ins = some i ∧ (loneBit w0 = true → w1 = 0) := by
  rw [noLit_eq_ok, word_eq_ok, and_assoc]

theorem withLit_eq_ok {w0 : BitVec 32} {r : Except Nat Instr} {i : Instr} :
    withLit w0 r = .ok i ↔ r = .ok i ∧ loneBit w0 = true := by
  cases r with
  | error e => simp [withLit]
  | ok j => by_cases hl : loneBit w0 = true <;> simp [withLit, hl]

theorem withLit_word_eq_ok {w0 : BitVec 32} {z : Bool} {ins : Option Instr} {i : Instr} :
    withLit w0 (word z ins) = .ok i ↔ z = true ∧ ins = some i ∧ loneBit w0 = true := by
  rw [withLit_eq_ok, word_eq_ok, and_assoc]

/-- R37, R38: `i` is what the C-word `w0` says beside the word `w1`: it takes no literal, and `w1` is zero where the bundle is lone; or
the bundle is lone and `w1` is its literal. -/
def Instr.IsCWord (i : Instr) (w0 w1 : BitVec 32) : Prop :=
  (i.CodedAs (.c (clearL w0)) ∧ (loneBit w0 = true → w1 = 0)) ∨ (i.CodedAs (.cl w0 w1) ∧ loneBit w0 = true)

/-- R38: the C-word map loses no bit of word 0. The arms of `decodeC` go by format (R41); an arm that checks more than zero fields, or reads
a code, stands under its own name. -/
theorem decodeC_isCWord {w0 w1 : BitVec 32} {i : Instr} (h : decodeC w0 w1 = .ok i) : i.IsCWord w0 w1 := by
  unfold decodeC at h
  split at h
  case h_67 => cases h
  all_goals rename_i hop
  -- LIT, LITH, FILLM
  case h_8 | h_9 | h_39 =>
    obtain ⟨hz, hi, hl⟩ := withLit_word_eq_ok.1 h
    refine .inr ⟨?_, hl⟩
    have hw := CR.eq_pack_of_lone hop hl
    generalize CR.unpack w0 = f at hz hi hw
    obtain ⟨d, a, b, xa, xb, g, m⟩ := f
    simp only [Bool.and_eq_true, beq_iff_eq, Bool.not_eq_true'] at hz
    cases hi
    exact .of_eq rfl rfl (by simp [hw, hz])
  all_goals
    obtain ⟨hz, hi, hl⟩ := noLit_word_eq_ok.1 h
    refine .inl ⟨?_, hl⟩
    clear h
  -- CB: BR, JMP, CALL
  case h_2 | h_3 | h_4 =>
    cases hi
    exact .of_eq rfl rfl (congrArg Code.c (CB.clearL_eq_pack hop).symm)
  -- CM: the loads and stores, weak ones first
  case' h_12 | h_13 | h_14 | h_15 | h_16 | h_17 | h_18 | h_19 =>
    rw [CM.clearL_eq_pack hop]
    generalize CM.unpack w0 = f at hz hi ⊢
    obtain ⟨d, a, xd, off, xa, m⟩ := f
    simp only [Bool.and_eq_true, beq_iff_eq, Bool.not_eq_true', eq_self] at hz
  case h_12 | h_13 =>
    obtain ⟨rfl, hm⟩ := hz
    obtain ⟨hse, rfl⟩ := onlyIf_eq_some.1 hi
    refine .of_eq ?_ rfl (by simp [append_bit_append_low2 hm])
    rwa [← Size.ofBits_beq_d] at hse
  case h_14 | h_15 =>
    cases hi
    exact .of_eq rfl rfl (by simp [zero_append_low2 hz])
  case h_16 | h_17 | h_18 | h_19 =>
    cases hi
    exact .of_eq rfl rfl (by simp [hz])
  -- CR: all the others
  all_goals
    rw [CR.clearL_eq_pack hop]
    generalize CR.unpack w0 = f at hz hi ⊢
    obtain ⟨d, a, b, xa, xb, g, m⟩ := f
    simp only [Bool.and_eq_true, Bool.or_eq_true, beq_iff_eq, Bool.not_eq_true', eq_self] at hz
  -- FENCE, IFENCE
  case h_20 =>
    split at hi
    · obtain ⟨hm, rfl⟩ := onlyIf_eq_some.1 hi
      obtain rfl := eq_of_beq hm
      exact .of_eq rfl rfl (by simp [hz])
    · next hm =>
      cases hi
      exact .of_eq rfl rfl (by simp [hz, append_low3 (eq_false_of_ne_true hm)])
  -- CFLUSH, CINV
  case h_21 =>
    obtain ⟨hsc, hi⟩ := onlyIf_eq_some.1 hi
    split at hi
    · next hm =>
      cases hi
      exact .of_eq hsc rfl (by simp [hz, append_low3 hm])
    · next hm =>
      cases hi
      exact .of_eq hsc rfl (by simp [hz, append_low3 (eq_false_of_ne_true hm)])
  -- RED
  case h_22 =>
    obtain ⟨op, hd, hi⟩ := Option.bind_eq_some_iff.1 hi
    obtain ⟨hfadd, rfl⟩ := onlyIf_eq_some.1 hi
    refine .of_eq ?_ rfl (by simp [RedOp.bits_of_ofBits hd])
    rwa [← WSize.ofBit_beq_d (BitVec.getLsbD _ 3)] at hfadd
  -- TDEP, TRD, TTAKE
  case h_31 | h_32 | h_33 =>
    obtain ⟨md, hmd, hi⟩ := Option.bind_eq_some_iff.1 hi
    obtain ⟨hc, rfl⟩ := onlyIf_eq_some.1 hi
    obtain ⟨hm, hb⟩ := hz
    obtain ⟨ha, hmode⟩ := Bool.and_eq_true_iff.1 hc
    have hd : md = .c → d = 0 := by
      rintro rfl
      exact eq_of_beq hmode
    exact .of_eq (tupOk_of_ofBits hmd hd hb) rfl (by simp [zero_append_low2 hm, TMode.bits_of_ofBits hmd, up_low ha])
  -- TCANCEL
  case h_34 =>
    obtain ⟨ha, rfl⟩ := onlyIf_eq_some.1 hi
    exact .of_eq rfl rfl (by simp [hz, up_low ha])
  -- MINT, SPAWN, TRAP
  case h_35 | h_42 | h_58 =>
    obtain ⟨hw, rfl⟩ := onlyIf_eq_some.1 hi
    exact .of_eq hw rfl (by simp [hz])
  -- LAND
  case h_37 =>
    cases hi
    exact .of_eq rfl rfl (by simp [append_low3 hz])
  -- BARSET, BAR, BARQ
  case h_46 | h_47 | h_48 =>
    obtain ⟨hsc, rfl⟩ := onlyIf_eq_some.1 hi
    obtain ⟨hz, hm⟩ := hz
    exact .of_eq hsc rfl (by simp [hz, append_low3 hm])
  -- FFENCE
  case h_50 =>
    obtain ⟨hsc, rfl⟩ := onlyIf_eq_some.1 hi
    exact .of_eq hsc rfl (by simp [append_low3 hz])
  -- TLBINV
  case h_61 =>
    obtain ⟨k, hk, hi⟩ := Option.bind_eq_some_iff.1 hi
    obtain ⟨rfl, hm⟩ := hz
    cases hi
    exact .of_eq rfl rfl (by simp [TlbKind.bits_of_ofBits hk, zero_append_low2 hm])
  -- the others check zero fields alone; the size and scope of CAS and AMO fill M (`bit_append_low3`)
  all_goals
    cases hi
    exact .of_eq rfl rfl (by simp [hz])

-- ==== bundles (R37-R39) ====

/-- What a bundle that decodes has passed (R39): the C-word map, and the A-word map unless it is lone. -/
theorem of_decodeBundle_eq_ok {depth : Nat} {w0 w1 : BitVec 32} {b : Bundle} (h : decodeBundle depth w0 w1 = .ok b) :
    decodeC w0 w1 = .ok b.c
      ∧ ((loneBit w0 = true ∧ b.a = none) ∨ (loneBit w0 = false ∧ ∃ a, b.a = some a ∧ decodeA w1 = .ok a)) := by
  unfold decodeBundle at h
  split at h
  · cases h
  · next c hc =>
    split at h
    · next hl =>
      split at h <;> cases h
      exact ⟨hc, .inl ⟨hl, rfl⟩⟩
    · next hl =>
      split at h
      · split at h <;> cases h
      · next a ha =>
        split at h
        · cases h
        · split at h <;> cases h
          exact ⟨hc, .inr ⟨eq_false_of_ne_true hl, a, rfl, ha⟩⟩

/-- What a C-word says beside the words of a lone bundle. -/
theorem Instr.IsCWord.lone {i : Instr} {w0 w1 : BitVec 32} (h : i.IsCWord w0 w1) (hl : loneBit w0 = true) :
    (∃ w, encode i = some (.c w) ∧ w0 = asLone w ∧ w1 = 0) ∨ encode i = some (.cl w0 w1) := by
  obtain ⟨⟨-, henc⟩, hzero⟩ | ⟨⟨-, henc⟩, -⟩ := h
  · exact .inl ⟨clearL w0, henc, (asLone_clearL hl).symm, hzero hl⟩
  · exact .inr henc

theorem Instr.IsCWord.notLone {i : Instr} {w0 w1 : BitVec 32} (h : i.IsCWord w0 w1) (hl : loneBit w0 = false) :
    encode i = some (.c w0) := by
  obtain ⟨⟨-, henc⟩, -⟩ | ⟨-, hl'⟩ := h
  · rwa [clearL_of_not_lone hl] at henc
  · exact absurd (hl.symm.trans hl') Bool.false_ne_true

theorem Instr.IsCWord.wellFormed {i : Instr} {w0 w1 : BitVec 32} (h : i.IsCWord w0 w1) : i.wellFormed = true :=
  h.elim (·.1.1) (·.1.1)

/-- Settles O55: each word goes through its own map, and each arm of a map keeps every bit of the word it reads. -/
theorem wordsHaveOneMeaning : Obligations.WordsHaveOneMeaning := by
  intro depth w0 w1 ⟨c, oa⟩ h
  obtain ⟨hc, hlone⟩ := of_decodeBundle_eq_ok h
  have hword := decodeC_isCWord hc
  refine ⟨hword.wellFormed, ?_⟩
  obtain ⟨hl, rfl⟩ | ⟨hl, a, rfl, ha⟩ := hlone
  · exact ⟨fun _ hsome => (nomatch hsome), fun _ => ⟨hl, hword.lone hl⟩⟩
  · obtain ⟨hwf, henc⟩ := decodeA_codedAs ha
    refine ⟨fun a' hsome => ?_, fun hnone => nomatch hnone⟩
    cases hsome
    exact ⟨hwf, henc, hword.notLone hl, hl⟩

end Sys2Proof

/-! PROOF. Traps and returns (R303-R308, R344, R345, R389): what takes a trap, the kill at TL 2, and that the return undoes the entry. -/

namespace Sys2Proof.Machine

-- ==== what TRAP, RETT and an owed failure come to ====

theorem exec_trap_of_guard_true {s : State} {g : PReg} (n : BitVec 5) (hg : s.src.pred g = true) :
    exec (.trap n g) s = .next (s.takeTrap 9 (16 + n.toNat) 0) :=
  congrArg Host.Outcome.next (State.guarded_true _ hg)

theorem exec_rett_outside_trap {s : State} {g : PReg} (hg : s.src.pred g = true) (htl : s.me.status.tl = 0) :
    exec (.rett g) s = .next (s.takeTrap 9 5 0) :=
  congrArg Host.Outcome.next ((State.guarded_true _ hg).trans (if_pos htl))

theorem exec_rett_in_trap {s : State} {g : PReg} (hg : s.src.pred g = true) (htl : s.me.status.tl ≠ 0) :
    exec (.rett g) s = .next ((s.modMe fun t => (t.leaveTrap.takeBack t.status.tl).resumeAt (s.now + 3)).withFlow .jump) :=
  congrArg Host.Outcome.next ((State.guarded_true _ hg).trans (if_neg htl))

theorem State.modMe_sameElsewhere (s : State) (f : Slot → Slot) (fl : Flow) : SameElsewhere s ((s.modMe f).withFlow fl) :=
  ⟨fun _ hi => Tab.get_set_ne _ _ _ hi, fun _ => rfl⟩

/-- `takeTrap_trapped` for a step that is no bundle's, and so sets no flow of one. -/
theorem State.trapSlot_trapped (s : State) (c d : Nat) (v : Word) (h : s.me.status.tl < 2) :
    Trapped s (s.trapSlot s.cur c d v) c d v :=
  s.takeTrap_trapped c d v (s.trapSlot s.cur c d v).flow h

/-- The state in which an owed failure traps: it is no longer owed, and the strand's wait stands aside under the level entered (R389). -/
def State.payOwed (s : State) (o : Nat × Nat × Word) : State :=
  { s with owed := s.owed.erase o }.modMe fun t => t.setAside (t.status.tl + 1)

@[simp] theorem State.me_payOwed (s : State) (o : Nat × Nat × Word) : (s.payOwed o).me = s.me.setAside (s.me.status.tl + 1) :=
  State.me_modMe _ _

theorem exec_remoteFailureTrap_of_owed {s : State} {o : Nat × Nat × Word}
    (ho : s.owed.find? (fun o => o.1 == s.me.id.uid) = some o) :
    exec (.remoteFailureTrap s.cur) s = .next ((s.payOwed o).trapSlot s.cur 10 o.2.1 o.2.2) := by
  have ho' : s.owed.find? (fun o => o.1 == (s.slot s.cur).id.uid) = some o := ho
  change execRemoteFailureTrap s.cur s = _
  simp only [execRemoteFailureTrap, ho']
  rfl

-- ==== the kill of a trap at TL 2 (R308) ====

theorem State.takeTrap_at_tl_two {s : State} (c d : Nat) (v : Word) (h : s.me.status.tl = 2) :
    s.takeTrap c d v = (s.startKill s.me.id.part s.me.id.ctx (s.killOf s.cur (c * 32 + d) v)).withFlow .trap :=
  congrArg (State.withFlow · .trap) (if_pos h)

theorem State.startKill_contexts (s : State) (p c : Nat) (k : KillRec) :
    (s.startKill p c k).contexts
      = s.contexts.set (contextKey p c) { s.context (contextKey p c) with dead := true, kill := some k } := rfl

theorem State.context_startKill_self (s : State) (p c : Nat) (k : KillRec) :
    (s.startKill p c k).context (contextKey p c) = { s.context (contextKey p c) with dead := true, kill := some k } := by
  rw [State.context, State.startKill_contexts, Tab.get_set_self]

theorem State.context_startKill_ne (s : State) {p c j : Nat} (k : KillRec) (h : j ≠ contextKey p c) :
    (s.startKill p c k).context j = s.context j := by
  rw [State.context, State.startKill_contexts, Tab.get_set_ne _ _ _ h, State.context]

theorem State.startKill_due (s : State) (p c : Nat) (k : KillRec) : Due1 s (s.startKill p c k) 0 (.ctxkill p c) := rfl

-- ==== the banks of a trap and of its return (R303, R305) ====

/-- TCAUSE of a trap: UI in bit 12, the privilege in bits 11-10, the code below them (R302, R303). -/
def trapCause (ui : Bool) (p : Priv) (code : Nat) : Word :=
  BitVec.ofNat 64 ((if ui then 2 ^ 12 else 0) + privCode p * 2 ^ 10 + code)

theorem privCode_lt_four (p : Priv) : privCode p < 4 := by cases p <;> decide

theorem trapCause_toNat (ui : Bool) (p : Priv) {code : Nat} (h : code < 2 ^ 10) :
    (trapCause ui p code).toNat = (if ui then 2 ^ 12 else 0) + privCode p * 2 ^ 10 + code := by
  have hp := privCode_lt_four p
  rw [trapCause, BitVec.toNat_ofNat, Nat.mod_eq_of_lt]
  split <;> omega

theorem privOf_trapCause (ui : Bool) (p : Priv) {code : Nat} (h : code < 2 ^ 10) :
    privOf (bitsOf (trapCause ui p code) 10 2) = p := by
  have hp : bitsOf (trapCause ui p code) 10 2 = privCode p := by
    have hlt := privCode_lt_four p
    rw [bitsOf, trapCause_toNat ui p h]
    split <;> omega
  rw [hp]
  cases p <;> rfl

theorem trapCause_ui (ui : Bool) (p : Priv) {code : Nat} (h : code < 2 ^ 10) : (trapCause ui p code).getLsbD 12 = ui := by
  have hp := privCode_lt_four p
  rw [BitVec.getLsbD, trapCause_toNat ui p h, Nat.testBit_eq_decide_div_mod_eq]
  cases ui with
  | false => exact decide_eq_false (by simp only [Bool.false_eq_true, if_false]; omega)
  | true => exact decide_eq_true (by simp only [if_true]; omega)

/-- The bank of a trap level. -/
def Slot.bankAt (t : Slot) (level : Nat) : Bank := if level = 1 then t.bank1 else t.bank2

theorem Slot.leaveTrap_eq (t : Slot) :
    t.leaveTrap = { t with
      pc := pcOf (t.bankAt t.status.tl).tpc
      status := { t.status with
        tl := t.status.tl - 1
        priv := privOf (bitsOf (t.bankAt t.status.tl).tcause 10 2)
        ui := (t.bankAt t.status.tl).tcause.getLsbD 12 } } := rfl

theorem Slot.enterTrap_bankAt (t : Slot) (cls code : Nat) (v : Word) :
    (t.enterTrap cls code v).bankAt (t.status.tl + 1) = { t.bankAt (t.status.tl + 1) with
      tpc := pcOf t.pc, tcause := trapCause t.status.ui t.status.priv code, tval := v } := by
  by_cases h : t.status.tl = 0 <;> simp [Slot.bankAt, Slot.enterTrap, trapCause, h]

theorem Slot.enterTrap_bank2_of_tl_zero {t : Slot} (cls code : Nat) (v : Word) (h : t.status.tl = 0) :
    (t.enterTrap cls code v).bank2 = t.bank2 :=
  if_pos (congrArg (· + 1) h)

theorem Slot.enterTrap_bank1_of_tl_ne_zero {t : Slot} (cls code : Nat) (v : Word) (h : t.status.tl ≠ 0) :
    (t.enterTrap cls code v).bank1 = t.bank1 :=
  if_neg fun e => h (Nat.succ.inj e)

/-- The return reads back from the bank what the entry wrote there: only the banks differ from before the trap. -/
theorem Slot.leaveTrap_enterTrap {t : Slot} (cls : Nat) {code : Nat} (v : Word) (hpc : pcOf t.pc = t.pc) (hc : code < 2 ^ 10) :
    (t.enterTrap cls code v).leaveTrap
      = { t with bank1 := (t.enterTrap cls code v).bank1, bank2 := (t.enterTrap cls code v).bank2 } := by
  have hlevel : (t.enterTrap cls code v).status.tl = t.status.tl + 1 := rfl
  rw [Slot.leaveTrap_eq, hlevel, Slot.enterTrap_bankAt]
  simp only [hpc, privOf_trapCause _ _ hc, trapCause_ui _ _ hc, Nat.add_sub_cancel]
  rfl

-- ==== the obligations ====

theorem trapInstructionTraps : TrapInstructionTraps := fun s n _ hg htl =>
  ⟨_, exec_trap_of_guard_true n hg, s.takeTrap_trapped 9 (16 + n.toNat) 0 .trap htl, rfl⟩

theorem illegalInstructionTraps : IllegalInstructionTraps := by
  intro s detail word htl
  rw [BitVec.ofNat_toNat]
  exact ⟨_, rfl, s.takeTrap_trapped 0 detail.toNat (word.setWidth 64) .trapX htl, rfl⟩

theorem owedFailureTraps : OwedFailureTraps := by
  intro s o ho htl
  have htl' : (s.payOwed o).me.status.tl < 2 := by rwa [State.me_payOwed]
  have trapped := (s.payOwed o).trapSlot_trapped 10 o.2.1 o.2.2 htl'
  have howed : ((s.payOwed o).trapSlot s.cur 10 o.2.1 o.2.2).owed = s.owed.erase o := congrArg State.owed trapped.rest
  refine ⟨_, exec_remoteFailureTrap_of_owed ho, howed, ?_⟩
  rw [howed]
  exact trapped

theorem trapAtLevelTwoKills : TrapAtLevelTwoKills := by
  intro s n g hg htl k
  have hexec := exec_trap_of_guard_true n hg
  rw [State.takeTrap_at_tl_two _ _ _ htl] at hexec
  have hself := s.context_startKill_self s.me.id.part s.me.id.ctx (s.killOf s.cur (9 * 32 + (16 + n.toNat)) 0)
  exact ⟨_, _, hexec, congrArg Context.dead hself, congrArg Context.kill hself, rfl, rfl, rfl, rfl, rfl, rfl,
    s.startKill_due .., fun _ => rfl, fun _ => rfl, fun _ hj => s.context_startKill_ne _ hj⟩

/-- Settles O19: each of the three takes the trap of `takeTrap_trapped` below TL 2, and at TL 2 `trapSlot` starts the kill. -/
theorem trapsAreTaken : Obligations.TrapsAreTaken :=
  ⟨trapInstructionTraps, illegalInstructionTraps, owedFailureTraps, trapAtLevelTwoKills⟩

theorem trapReturnRestores : TrapReturnRestores := by
  intro s g hg
  constructor
  · intro htl
    refine ⟨_, exec_rett_in_trap hg (by omega), ?_, s.modMe_sameElsewhere _ _, rfl⟩
    rw [State.me_withFlow, State.me_modMe]
    rfl
  · intro htl
    exact ⟨_, exec_rett_outside_trap hg htl, s.takeTrap_trapped 9 5 0 .trap (by omega), rfl⟩

theorem trapThenReturnIsTheIdentity : TrapThenReturnIsTheIdentity := by
  intro t cls d v _ hpc hcls hd
  rw [Slot.leaveTrap_enterTrap cls v hpc (show cls * 32 + d < 2 ^ 10 by omega)]
  split
  · next h => rw [Slot.enterTrap_bank2_of_tl_zero _ _ _ h]
  · next h => rw [Slot.enterTrap_bank1_of_tl_ne_zero _ _ _ h]

/-- Settles O20: the return takes pc, privilege and UI from the bank of its level, which is where the entry put them. -/
theorem trapReturns : Obligations.TrapReturns :=
  ⟨trapReturnRestores, trapThenReturnIsTheIdentity⟩

end Sys2Proof.Machine
